-- ==== Sys2Proof/Word.lean ====
section
/-! DEFINITION. The word types of the TBX-660 (R9, R89): every field of an encoding, a register or an address is
a bit vector of its own width; a memory cell is named by a natural number. -/

namespace Sys2Proof

/-- A byte of memory (R9). -/
abbrev Byte := BitVec 8

/-- A 32-bit instruction word, or the 32-bit slice that one lane holds of a vector register (R67, R138). -/
abbrev Word32 := BitVec 32

/-- A scalar register, a virtual address, a special register (R106, R186). -/
abbrev Word64 := BitVec 64

end Sys2Proof
end

