-- ==== Sys2Proof/Syntax.lean ====
section
/-! DEFINITION. The instruction set and the hardware's other steps as syntax: `Instr` has one constructor for each
row of spec/opcode_table.json. A row that a word encodes carries the operand fields of its format (R68); a row that
names a step of the hardware carries what that step is told by whoever takes it. -/

namespace Sys2Proof

/-! ### Operand formats (R68). `ext` holds the payloads of the EXT words before the host, first word first (R74),
`u` is the uniform bit (R67). -/

/-- Format R: three register fields and `m`; an EXT is a modifier extension (R75). -/
structure OpR where
  u : Bool := false
  d : BitVec 6 := 0
  a : BitVec 6 := 0
  b : BitVec 6 := 0
  m : Bool := false
  ext : List (BitVec 24) := []
  deriving DecidableEq, Repr, Inhabited

/-- Format I: two register fields and a 7-bit immediate. -/
structure OpI where
  u : Bool := false
  d : BitVec 6 := 0
  a : BitVec 6 := 0
  imm : BitVec 7 := 0
  ext : List (BitVec 24) := []
  deriving DecidableEq, Repr, Inhabited

/-- Format L: one register field and a 13-bit immediate. -/
structure OpL where
  u : Bool := false
  d : BitVec 6 := 0
  imm : BitVec 13 := 0
  ext : List (BitVec 24) := []
  deriving DecidableEq, Repr, Inhabited

/-- Format J: a 19-bit signed packet offset. -/
structure OpJ where
  u : Bool := false
  imm : BitVec 19 := 0
  ext : List (BitVec 24) := []
  deriving DecidableEq, Repr, Inhabited

/-- Format C: a register field, a condition and a 10-bit signed packet offset. -/
structure OpC where
  u : Bool := false
  a : BitVec 6 := 0
  cc : BitVec 3 := 0
  imm : BitVec 10 := 0
  ext : List (BitVec 24) := []
  deriving DecidableEq, Repr, Inhabited

/-- Format G: an 18-bit signed packet offset and `m`; never extended (R74). -/
structure OpG where
  u : Bool := false
  off : BitVec 18 := 0
  m : Bool := false
  ext : List (BitVec 24) := []
  deriving DecidableEq, Repr, Inhabited

/-- Format M: base register b0 to b7 and a vector offset (`xk` 0) or an immediate offset (`xk` 1). -/
structure OpM where
  u : Bool := false
  d : BitVec 6 := 0
  base : BitVec 3 := 0
  xk : Bool := false
  x : BitVec 6 := 0
  w : BitVec 3 := 0
  ext : List (BitVec 24) := []
  deriving DecidableEq, Repr, Inhabited

/-- Format N: a scalar base and a 4-bit immediate offset. -/
structure OpN where
  u : Bool := false
  d : BitVec 6 := 0
  a : BitVec 6 := 0
  off : BitVec 4 := 0
  w : BitVec 3 := 0
  ext : List (BitVec 24) := []
  deriving DecidableEq, Repr, Inhabited

/-- Format Z: no operands; `bits` are the operand bits, which R70 requires to be zero. -/
structure OpZ where
  u : Bool := false
  bits : BitVec 19 := 0
  ext : List (BitVec 24) := []
  deriving DecidableEq, Repr, Inhabited

/-! ### What the other steps are told. -/

/-- A fragment: its core, its warp's slot (32 × quadrant + slot) and its fragment slot (R92): 0 to 31 for a warp
head, 32 to 95 for a split entry. -/
structure FragRef where
  core : Fin 192
  slot : Fin 128
  frag : Fin 96
  deriving DecidableEq, Repr, Inhabited

/-- The parties that count as accessing cores for classification (R201). -/
inductive Party where
  | core (n : Nat)      -- a warp of core n, or that core's copy, shuffle or matrix engine
  | spinel (die : Nat)  -- the Spinel engine of a die
  | inbound             -- inbound host writes and reads
  | peer (dev : Nat)    -- a peer access arriving from a logical device
  | ct                  -- CT
  deriving DecidableEq, Repr, Inhabited

/-- What the Spinel engine changes in a node or a descriptor by one Perform (R303, R309, R312, R315 to R317). -/
inductive NodeOp where
  | visit (mark : Bool)            -- VL + 1; PEND on a leaf that is free to take, when `mark`
  | leave (clear : Bool)           -- VL − 1; PEND := 0 when `clear`
  | unpend                         -- PEND := 0
  | backup (x : Word64) (count clear : Bool)  -- VL − 1; N + 1 and W + x when `count`; PEND := 0 of an unexpanded leaf
  | link (blk n : Nat)             -- expansion into a block of n children
  | term                           -- TERM := 1 and PEND := 0 of an unexpanded leaf
  | orphan                         -- PARENT := NONE
  | own (v : Nat)                  -- OWNER := v if it is 0
  | free                           -- OWNER := 0
  | swap (root blk granules : Nat) -- TSROOT's change of a descriptor
  deriving DecidableEq, Repr, Inhabited

/-- What an access does at the home of its address: a read, a write, one Perform (R90, R225, R228, R338, R341). -/
inductive MemOp where
  | read (n : Nat)                               -- n bytes
  | write (n : Nat) (v : Nat)                    -- the n low bytes of v
  | atm (op : BitVec 3) (tag : BitVec 4) (x y : Nat)  -- R225: operation w under a tag, operand x, new value y of cas
  | atms (op : BitVec 3) (tag : BitVec 4) (xs : List (Nat × Nat))  -- R226: one ATM's lanes at one address, in order
  | xadd (x : Word32)                            -- R153
  | xrd (rm : BitVec 2) (f64 : Bool)             -- R153
  | xclr                                         -- R153
  | cwAdd (v : Word64) (sat : Bool)              -- R338; `sat`: the saturating add of R335
  | cwSet (v : Word64)                           -- R341
  | cwRead                                       -- R338
  | node (op : NodeOp)                           -- R303
  deriving DecidableEq, Repr, Inhabited

/-- An on-package flit: class, first and last marks, the three parity bits and 32 bytes of content (R240, R248). -/
structure Flit where
  cls : BitVec 3
  first : Bool
  last : Bool
  parity : BitVec 3
  content : BitVec 256
  deriving DecidableEq, Repr, Inhabited

/-- A stream of posted writes: the function that they go to, and the requester ID that they come from (R259). -/
structure Stream where
  fn : Fin 4
  requester : BitVec 16
  deriving DecidableEq, Repr, Inhabited

/-- A link flit: the header of R249, its slots and its CRC. -/
structure LinkFlit where
  lseq : BitVec 12
  lack : BitVec 12
  ackv : Bool
  cls : BitVec 3
  nslot : BitVec 2
  sop : Bool
  eop : Bool
  type : BitVec 4
  cred : BitVec 24
  slots : List (BitVec 256)
  crc : BitVec 32
  deriving DecidableEq, Repr, Inhabited

/-- A peer request that arrives at this module's IO (R254). -/
structure PeerIn where
  srcMod : BitVec 16
  srcDev : Fin 4
  dev : Fin 4
  tag : Option (BitVec 16)
  va : Word64
  acc : BitVec 3
  op : MemOp
  deriving DecidableEq, Repr, Inhabited

/-- What the target module answers to a peer request (R254 to R256). -/
inductive PeerResult where
  | value (v : Nat)          -- performed; the value it returns
  | done                     -- performed; it returns no value
  | appliedUnknown           -- performed once; the value is lost
  | cancelled                -- it never will be performed
  | fault (cause : BitVec 10)  -- the target's translation or protection failed, with the target's cause
  | countWord (kind : BitVec 3)  -- a class 6 cause that the remote home found (R339)
  | integrity                -- an uncorrectable error at the target's home
  | gone                     -- the target device is in reset, or has no such import
  deriving DecidableEq, Repr, Inhabited

/-- The instructions of the opcode map (R79) and the other steps of the hardware, one constructor per row of the
opcode table. -/
inductive Instr where
  /-- `0x00`, R118. NOP changes no state. -/
  | nop (o : OpZ)
  /-- `0x01`, R110. Adds two scalar registers, 64-bit or 32-bit, optionally saturating. -/
  | saddR (o : OpR)
  /-- `0x02`, R110. Subtracts two scalar registers, optionally saturating. -/
  | ssubR (o : OpR)
  /-- `0x03`, R110. Writes the low bits of the product of two scalar registers. -/
  | smulR (o : OpR)
  /-- `0x04`, R110. Writes the high 64 bits of a signed or natural product. -/
  | smulh (o : OpR)
  /-- `0x05`, R111. Writes the quotient rounded toward zero with defined special cases. -/
  | sdiv (o : OpR)
  /-- `0x06`, R111. Writes the remainder with the sign of the dividend. -/
  | srem (o : OpR)
  /-- `0x07`, R109. Writes the bitwise AND of two scalar registers. -/
  | sandR (o : OpR)
  /-- `0x08`, R109. Writes the bitwise OR of two scalar registers. -/
  | sorR (o : OpR)
  /-- `0x09`, R109. Writes the bitwise XOR of two scalar registers. -/
  | sxorR (o : OpR)
  /-- `0x0A`, R110. Shifts a scalar register left by a register amount. -/
  | sshlR (o : OpR)
  /-- `0x0B`, R110. Shifts a scalar register right logically by a register amount. -/
  | sshrR (o : OpR)
  /-- `0x0C`, R110. Shifts a scalar register right arithmetically by a register amount. -/
  | ssraR (o : OpR)
  /-- `0x0D`, R112. Writes the signed or natural minimum of two scalar registers. -/
  | sminR (o : OpR)
  /-- `0x0E`, R112. Writes the signed or natural maximum of two scalar registers. -/
  | smaxR (o : OpR)
  /-- `0x0F`, R112. Writes −1, 0 or +1 from a signed or natural comparison. -/
  | scmpR (o : OpR)
  /-- `0x10`, R112. Selects sa or sb by the old value of sd. -/
  | ssel (o : OpR)
  /-- `0x11`, R113. Copies a scalar register. -/
  | smov (o : OpR)
  /-- `0x12`, R114. Forms sa plus a scaled index. -/
  | sleaR (o : OpR)
  /-- `0x13`, R113. Counts the set bits of a scalar register. -/
  | spopc (o : OpR)
  /-- `0x14`, R113. Counts the leading zero bits of a scalar register. -/
  | sclz (o : OpR)
  /-- `0x15`, R113. Reverses the bits of a scalar register. -/
  | sbrev (o : OpR)
  /-- `0x16`, R115. Adds a signed immediate to a scalar register. -/
  | saddI (o : OpI)
  /-- `0x17`, R115. Multiplies a scalar register by a signed immediate. -/
  | smulI (o : OpI)
  /-- `0x18`, R115. ANDs a scalar register with a sign-extended immediate. -/
  | sandI (o : OpI)
  /-- `0x19`, R115. ORs a scalar register with a sign-extended immediate. -/
  | sorI (o : OpI)
  /-- `0x1A`, R115. XORs a scalar register with a sign-extended immediate. -/
  | sxorI (o : OpI)
  /-- `0x1B`, R115. Shifts a scalar register left by an immediate. -/
  | sshlI (o : OpI)
  /-- `0x1C`, R115. Shifts a scalar register right logically by an immediate. -/
  | sshrI (o : OpI)
  /-- `0x1D`, R115. Shifts a scalar register right arithmetically by an immediate. -/
  | ssraI (o : OpI)
  /-- `0x1E`, R115. Compares a scalar register with a signed immediate. -/
  | scmpI (o : OpI)
  /-- `0x1F`, R116. Loads a signed immediate into a scalar register. -/
  | sli (o : OpL)
  /-- `0x20`, R120. Transfers the fragment to a packet offset. -/
  | br (o : OpJ)
  /-- `0x21`, R121. Transfers the fragment when a scalar test holds. -/
  | brc (o : OpC)
  /-- `0x22`, R122. Tests each active lane and splits the fragment between target and fall-through. -/
  | brv (o : OpC)
  /-- `0x23`, R123. Creates a reconvergence token with a join address. -/
  | rcv (o : OpJ)
  /-- `0x24`, R124. Writes the return address to s63 and transfers to a packet offset. -/
  | call (o : OpJ)
  /-- `0x25`, R125. Transfers to the address held in a scalar register. -/
  | ret (o : OpR)
  /-- `0x26`, R125. Transfers to a register address, optionally linking. -/
  | jmpi (o : OpR)
  /-- `0x27`, R127. Reads a special register into a scalar, or LANEID into a vector register. -/
  | mfs (o : OpL)
  /-- `0x28`, R127. Writes a scalar register to a writable special register. -/
  | mts (o : OpL)
  /-- `0x29`, R39. Reads a packet and submits it to a device-fed queue, returning its SEQ or a refusal. -/
  | enq (o : OpR)
  /-- `0x2A`, R131. Ends the active lanes of the fragment and records an exit status. -/
  | exit (o : OpL)
  /-- `0x2B`, R115. Writes the signed minimum of a scalar register and an immediate. -/
  | sminI (o : OpI)
  /-- `0x2C`, R115. Writes the signed maximum of a scalar register and an immediate. -/
  | smaxI (o : OpI)
  /-- `0x2D`, R117. Forms the address of a packet of the running kernel. -/
  | sleaI (o : OpI)
  /-- `0x30`, R159. Adds vector elements with one rounding per element. -/
  | vadd (o : OpR)
  /-- `0x31`, R159. Subtracts vector elements with one rounding per element. -/
  | vsub (o : OpR)
  /-- `0x32`, R159. Multiplies vector elements with one rounding per element. -/
  | vmul (o : OpR)
  /-- `0x33`, R160. Forms a fused multiply-add with one rounding. -/
  | vfma (o : OpR)
  /-- `0x34`, R161. Inverts the sign bit of each element. -/
  | vneg (o : OpR)
  /-- `0x35`, R161. Clears the sign bit of each element. -/
  | vabs (o : OpR)
  /-- `0x36`, R159. Writes the floating-point minimum of each element pair. -/
  | vmin (o : OpR)
  /-- `0x37`, R159. Writes the floating-point maximum of each element pair. -/
  | vmax (o : OpR)
  /-- `0x38`, R159. Divides vector elements, correctly rounded. -/
  | vdiv (o : OpR)
  /-- `0x39`, R162. Writes the correctly rounded square root of each element. -/
  | vsqrt (o : OpR)
  /-- `0x3A`, R162. Writes the correctly rounded reciprocal of each element. -/
  | vrcp (o : OpR)
  /-- `0x3B`, R162. Writes the correctly rounded reciprocal square root of each element. -/
  | vrsq (o : OpR)
  /-- `0x3C`, R162. Writes the correctly rounded 2^x of each element. -/
  | vexp2 (o : OpR)
  /-- `0x3D`, R162. Writes the correctly rounded log2 of each element. -/
  | vlog2 (o : OpR)
  /-- `0x3E`, R163. Writes cos πx and sin πx as a complex pair. -/
  | vscpi (o : OpR)
  /-- `0x40`, R164. Multiplies complex pairs with one rounding per component. -/
  | vcmul (o : OpR)
  /-- `0x41`, R164. Forms a complex fused multiply-add. -/
  | vcfma (o : OpR)
  /-- `0x42`, R165. Performs a radix-2 butterfly with a twiddle into four registers. -/
  | vbfly (o : OpR)
  /-- `0x43`, R166. Writes the twiddle factor of index k for a transform of length 2^L. -/
  | vtwid (o : OpR)
  /-- `0x44`, R167. Converts between tags with a selected rounding mode and saturation. -/
  | vcvtR (o : OpR)
  /-- `0x45`, R168. Quantises a 128-element f32 vector to e4m3 with an f32 scale. -/
  | vqnt (o : OpR)
  /-- `0x46`, R167. Converts between tags with nearest-even rounding. -/
  | vcvtI (o : OpI)
  /-- `0x47`, R180. Copies bits with an immediate tag. -/
  | vtagI (o : OpI)
  /-- `0x48`, R169. Adds integer elements, wrapping or saturating. -/
  | viaddR (o : OpR)
  /-- `0x49`, R169. Subtracts integer elements, wrapping or saturating. -/
  | visub (o : OpR)
  /-- `0x4A`, R169. Multiplies integer elements, wrapping or saturating. -/
  | vimulR (o : OpR)
  /-- `0x4B`, R169. Writes the high half of integer element products. -/
  | vimulh (o : OpR)
  /-- `0x4C`, R169. Forms an integer multiply-add per element. -/
  | vifma (o : OpR)
  /-- `0x4D`, R171. ANDs two vector registers bitwise. -/
  | vandR (o : OpR)
  /-- `0x4E`, R171. ORs two vector registers bitwise. -/
  | vorR (o : OpR)
  /-- `0x4F`, R171. XORs two vector registers bitwise. -/
  | vxorR (o : OpR)
  /-- `0x50`, R172. Shifts elements left by register amounts. -/
  | vshlR (o : OpR)
  /-- `0x51`, R172. Shifts elements right logically by register amounts. -/
  | vshrR (o : OpR)
  /-- `0x52`, R172. Shifts elements right arithmetically by register amounts. -/
  | vsraR (o : OpR)
  /-- `0x53`, R169. Writes the integer minimum of each element pair. -/
  | viminR (o : OpR)
  /-- `0x54`, R169. Writes the integer maximum of each element pair. -/
  | vimaxR (o : OpR)
  /-- `0x55`, R170. Writes the integer minimum of each element and an immediate. -/
  | viminI (o : OpI)
  /-- `0x56`, R170. Writes the integer maximum of each element and an immediate. -/
  | vimaxI (o : OpI)
  /-- `0x57`, R170. Multiplies integer elements by an immediate. -/
  | vimulI (o : OpI)
  /-- `0x58`, R170. Adds an immediate to integer elements. -/
  | viaddI (o : OpI)
  /-- `0x59`, R170. ANDs each lane with an immediate. -/
  | vandI (o : OpI)
  /-- `0x5A`, R170. ORs each lane with an immediate. -/
  | vorI (o : OpI)
  /-- `0x5B`, R170. XORs each lane with an immediate. -/
  | vxorI (o : OpI)
  /-- `0x5C`, R170. Shifts elements left by an immediate. -/
  | vshlI (o : OpI)
  /-- `0x5D`, R170. Shifts elements right logically by an immediate. -/
  | vshrI (o : OpI)
  /-- `0x5E`, R170. Shifts elements right arithmetically by an immediate. -/
  | vsraI (o : OpI)
  /-- `0x60`, R174. Compares two vector registers into a mask register. -/
  | vcmpR (o : OpR)
  /-- `0x61`, R175. Selects lanes of va or vb by a mask. -/
  | vsel (o : OpR)
  /-- `0x62`, R177. Copies the value and tag of each active lane. -/
  | vmovR (o : OpR)
  /-- `0x63`, R178. Broadcasts a scalar register to every active lane with a tag. -/
  | vbcastR (o : OpR)
  /-- `0x64`, R179. Reads one lane of a vector register into a scalar register. -/
  | vlane (o : OpR)
  /-- `0x65`, R181. Moves lanes by per-lane indices. -/
  | vshflR (o : OpR)
  /-- `0x66`, R182. Permutes the bytes within each lane. -/
  | vperm (o : OpR)
  /-- `0x67`, R183. Writes the running left fold of the active lanes. -/
  | vscan (o : OpR)
  /-- `0x68`, R183. Writes the left fold of the active lanes to every active lane. -/
  | vred (o : OpR)
  /-- `0x69`, R173. Counts set bits per element. -/
  | vpopc (o : OpR)
  /-- `0x6A`, R173. Counts leading zero bits per element. -/
  | vclz (o : OpR)
  /-- `0x6B`, R180. Copies bits with the tag held in a scalar register. -/
  | vtagR (o : OpR)
  /-- `0x6C`, R174. Compares a vector register with an immediate into a mask register. -/
  | vcmpI (o : OpI)
  /-- `0x6D`, R177. Writes an immediate value and tag to every active lane. -/
  | vmovL (o : OpL)
  /-- `0x6E`, R178. Broadcasts one lane of a vector register to every active lane. -/
  | vbcastI (o : OpI)
  /-- `0x6F`, R181. Moves lanes by an immediate xor, up, down or rotate pattern. -/
  | vshflI (o : OpI)
  /-- `0x70`, R176. ANDs two mask registers, optionally with the second inverted. -/
  | kand (o : OpR)
  /-- `0x71`, R176. ORs two mask registers. -/
  | kor (o : OpR)
  /-- `0x72`, R176. XORs two mask registers. -/
  | kxor (o : OpR)
  /-- `0x73`, R176. Inverts a mask register. -/
  | knot (o : OpR)
  /-- `0x74`, R176. Counts the set bits of a mask into a scalar. -/
  | kpopc (o : OpR)
  /-- `0x75`, R176. Moves a mask between mask and scalar registers in the direction b selects. -/
  | kmovR (o : OpR)
  /-- `0x76`, R176. Loads an immediate into a mask register. -/
  | kmovL (o : OpL)
  /-- `0x80`, R222. Loads global or peer memory into vector registers through a base register. -/
  | ldM (o : OpM)
  /-- `0x81`, R223. Stores vector registers to global or peer memory through a base register. -/
  | stM (o : OpM)
  /-- `0x82`, R222. Loads the workgroup's scratch window into vector registers. -/
  | ldsM (o : OpM)
  /-- `0x83`, R223. Stores vector registers to the workgroup's scratch window. -/
  | stsM (o : OpM)
  /-- `0x84`, R224. Loads one global value into a scalar register. -/
  | ldu (o : OpN)
  /-- `0x85`, R225. Performs a per-lane atomic at the home and returns the old values. -/
  | atmM (o : OpM)
  /-- `0x86`, R228. Adds f32 values exactly into exact-sum lines. -/
  | xaddM (o : OpM)
  /-- `0x87`, R228. Reads the rounded value of exact-sum lines. -/
  | xrdM (o : OpM)
  /-- `0x88`, R228. Clears exact-sum lines. -/
  | xclr (o : OpM)
  /-- `0x89`, R229. Fills a base translation register and returns its status. -/
  | btl (o : OpR)
  /-- `0x8A`, R230. Invalidates one or all base translation registers. -/
  | btinv (o : OpR)
  /-- `0x8B`, R231. Moves a register-sized range of pages toward READONLY or SHARED. -/
  | classR (o : OpR)
  /-- `0x8C`, R232. Asks for lines to be brought into L1 or the home slice. -/
  | pfhM (o : OpM)
  /-- `0x8D`, R235. Delivers a message to a receiver-resident ring and returns a status. -/
  | send (o : OpR)
  /-- `0x8E`, R236. Takes one message from a ring, or returns a ring handle. -/
  | rpop (o : OpR)
  /-- `0x8F`, R237. Parks until a ring holds a message and returns the number held. -/
  | rwait (o : OpR)
  /-- `0x90`, R222. Loads global memory into vector registers from a scalar base. -/
  | ldN (o : OpN)
  /-- `0x91`, R223. Stores vector registers to global memory at a scalar base. -/
  | stN (o : OpN)
  /-- `0x92`, R222. Loads scratch at a scalar offset into vector registers. -/
  | ldsN (o : OpN)
  /-- `0x93`, R223. Stores vector registers to scratch at a scalar offset. -/
  | stsN (o : OpN)
  /-- `0x94`, R225. Performs an atomic at a scalar-based address. -/
  | atmN (o : OpN)
  /-- `0x95`, R232. Prefetches a line at a scalar-based address. -/
  | pfhN (o : OpN)
  /-- `0x96`, R231. Moves an immediate-sized range of pages toward READONLY or SHARED. -/
  | classI (o : OpI)
  /-- `0x97`, R228. Adds f32 values exactly into an exact-sum line at a scalar base. -/
  | xaddN (o : OpN)
  /-- `0x98`, R228. Reads the rounded value of an exact-sum line at a scalar base. -/
  | xrdN (o : OpN)
  /-- `0xA0`, R267. Reads and checks a shape record into a shape register. -/
  | ldshape (o : OpR)
  /-- `0xA1`, R268. Stores a shape register to memory as one store. -/
  | stshape (o : OpR)
  /-- `0xA2`, R275. Starts a shaped copy in a copy slot. -/
  | cpyR (o : OpR)
  /-- `0xA3`, R277. Starts a multicast copy into the scratch of up to 16 workgroups. -/
  | cpym (o : OpR)
  /-- `0xA4`, R282. Queues a shuffle program of up to four steps. -/
  | shufR (o : OpR)
  /-- `0xA5`, R276. Starts a contiguous copy of 16-byte units. -/
  | cpyI (o : OpI)
  /-- `0xA6`, R283. Queues a one-step bit-reversal shuffle. -/
  | shufI (o : OpI)
  /-- `0xB0`, R293. Accumulates a matrix product into a tile from exact block sums. -/
  | mma (o : OpR)
  /-- `0xB1`, R289. Reads an image of scale columns for a tile. -/
  | mscl (o : OpR)
  /-- `0xB2`, R298. Reads one slab column of a tile into a vector register. -/
  | mrdR (o : OpR)
  /-- `0xB3`, R298. Writes a vector register into one slab column of a tile. -/
  | mwrR (o : OpR)
  /-- `0xB4`, R300. Stores the selected rows of a tile to memory. -/
  | mst (o : OpR)
  /-- `0xB5`, R299. Sets the selected rows of a tile to +0. -/
  | mzero (o : OpR)
  /-- `0xB6`, R287. Checks and sets the warp's matrix configuration. -/
  | mprog (o : OpR)
  /-- `0xB7`, R298. Reads an immediate-indexed slab column of a tile. -/
  | mrdI (o : OpI)
  /-- `0xB8`, R298. Writes an immediate-indexed slab column of a tile. -/
  | mwrI (o : OpI)
  /-- `0xC0`, R309. Binds a tree descriptor to a context, or frees a bound context. -/
  | tsbind (o : OpR)
  /-- `0xC1`, R312. Descends a tree by score with virtual loss into a path slot. -/
  | tsdesc (o : OpR)
  /-- `0xC2`, R315. Allocates and links a child block for a leaf, or marks it terminal. -/
  | tsexp (o : OpR)
  /-- `0xC3`, R316. Backs a value up a slot's path from leaf to root and frees the slot. -/
  | tsback (o : OpR)
  /-- `0xC4`, R314. Pops one entry from a tree's leaf batch ring. -/
  | tsleaf (o : OpR)
  /-- `0xC5`, R317. Re-roots a tree at a child and optionally forks a reclaim walk. -/
  | tsroot (o : OpR)
  /-- `0xC6`, R318. Reads selected state of a tree descriptor. -/
  | tsstat (o : OpR)
  /-- `0xC8`, R338. Adds a register value to a count word and wakes its watchers. -/
  | cwsigR (o : OpR)
  /-- `0xC9`, R342. Waits until a count word reaches a register target. -/
  | cwwaitR (o : OpR)
  /-- `0xCA`, R338. Reads a count word. -/
  | cwrd (o : OpR)
  /-- `0xCB`, R341. Sets a count word to a new value when it has no registered waiters. -/
  | cwset (o : OpR)
  /-- `0xCC`, R350. Creates a named group with the issuing warp as its only member. -/
  | gnew (o : OpR)
  /-- `0xCD`, R350. Joins a named group as its last member. -/
  | gjoin (o : OpR)
  /-- `0xCE`, R350. Departs from a named group. -/
  | gleave (o : OpR)
  /-- `0xCF`, R348. Arrives at the open phase of a group and parks until it completes. -/
  | gbar (o : OpR)
  /-- `0xD0`, R350. Arrives with a vote and receives the counts of true contributions. -/
  | gvote (o : OpR)
  /-- `0xD1`, R350. Arrives with a contribution and receives the rank-order fold. -/
  | gred (o : OpR)
  /-- `0xD2`, R350. Reads selected state of a group. -/
  | gstat (o : OpR)
  /-- `0xD3`, R350. Frees an empty group entry and advances its generation. -/
  | gfree (o : OpR)
  /-- `0xD4`, R338. Adds an immediate to a count word and wakes its watchers. -/
  | cwsigI (o : OpI)
  /-- `0xD5`, R342. Waits until a count word reaches an immediate target. -/
  | cwwaitI (o : OpI)
  /-- `0xD8`, R362. Raises software cause 0x380 + c with a register as TRAPDATA. -/
  | trapL (o : OpL)
  /-- `0xD9`, R363. Returns from a trap handler to the trapped group, the next group or a moved TRAPPC. -/
  | tret (o : OpR)
  /-- `0xDA`, R366. Saves the save-set registers to the frame and sets a new region mark. -/
  | region (o : OpG)
  /-- `0xDB`, R365. Completes or fails an upcall, releasing the accesses held on the page. -/
  | pgsupply (o : OpR)
  /-- `0xDC`, R364. Raises a breakpoint cause that parks the warp for the debugger when DBGEN is 1. -/
  | bkpt (o : OpL)
  /-- `0xDD`, R375. Parks the fragment for about n cycles. -/
  | sleep (o : OpI)
  /-- `0xDE`, R376. Reads selected event-log state. -/
  | mflog (o : OpR)
  /-- `0xDF`, R362. Raises a software cause whose code and data come from registers. -/
  | trapR (o : OpR)
  /-- R34. A host write of QTAIL rings the doorbell of a host-fed queue; it is rejected with OVF when it would overrun the ring. -/
  | qtailWrite (by_ : Stream) (q : Fin 32) (value : BitVec 32)
  /-- R33. Setting EN from 0 to 1 checks the ring configuration, fixes the ring frames and sets QHEAD, QRET, QCTAIL and QCHEAD to QTAIL, or sets CFGERR. -/
  | queueEnable (by_ : Stream) (q : Fin 32)
  /-- R33. Clearing EN stops intake at once while taken tasks run to completion. -/
  | queueDisable (by_ : Stream) (q : Fin 32)
  /-- R37. The consumer writes QCHEAD to release completion records; a backward write or one past QCTAIL is ignored. -/
  | qcheadWrite (by_ : Stream) (q : Fin 32) (value : BitVec 32)
  /-- R12. A write to a register that has no behaviour of its own updates its RW fields, clears W1C bits and ignores RO and RSV bits. -/
  | registerWrite (by_ : Stream) (off : BitVec 30) (bytes : Fin 4097) (value : BitVec 64)
  /-- R36. The queue engine takes the packet at QHEAD once EN is 1, a packet waits and completion room exists, and checks it. -/
  | packetIntake (dev : Fin 4)
  /-- R23. The dispatcher takes the next eligible task in FIFO order within its priority and makes its dispatch checks. -/
  | taskDispatch (dev : Fin 4)
  /-- R51. The dispatcher places the first waiting unit whole on fitting cores and reserves its resources in one step. -/
  | unitPlacement (dev : Fin 4)
  /-- R370. A pre-empted unit is placed again and its warps resume at their marks with saved registers read back from their frames. -/
  | unitRestore (dev : Fin 4)
  /-- R22. When all workgroups and engine operations of a task are done, decrements go to its successors and its completion record is written. -/
  | taskCompletion (task : Nat)
  /-- R380. A record unsignalled for 4,096 cycles causes the queue engine to send an MSI-X message. -/
  | interruptDelay (dev : Fin 4) (q : Fin 32)
  /-- R60. When the last warp of a workgroup has ended and its engine operations are done, its tiles, frames, backing and entry are freed. -/
  | workgroupRelease (core : Fin 192) (wg : Fin 32)
  /-- R56. After STALL cycles with every warp on the target parked the dispatcher logs an entry and faults those warps with cause 0x301. -/
  | residencyDeadlock (dev : Fin 4)
  /-- R72. The core fetches and decodes a whole packet into issue groups and checks every word before any issues. -/
  | packetDecode (f : FragRef)
  /-- R105. After 4,096 cycles parked at a join the parked fragments merge and continue under the outer token. -/
  | joinRelease (f : FragRef)
  /-- R208. A TLB miss is walked by a CT walker, which returns a leaf, a not-present result or a walk error. -/
  | pageWalk (core : Fin 192) (va : BitVec 64)
  /-- R211. CT builds and enqueues one pager upcall task for a faulting page once the upcall buffer and queue have room. -/
  | upcallPost (dev : Fin 4) (entry : Fin 64)
  /-- R190. The home slice serves a line access, atomic or exact-sum operation as one point of the interleaving. -/
  | homeAccess (f : FragRef) (lane : Fin 32)
  /-- R204. A core receiving a class change stops accesses to the page, waits for its outstanding accesses, writes back dirty lines and acknowledges. -/
  | classDrain (p : Party) (page : Nat)
  /-- R204. When every acknowledgement has arrived the home records the new class, performs the causing access and releases held warps. -/
  | reclassificationPoint (page : Nat)
  /-- R197. The management command INVAL removes every translation of a range and leaves its pages UNTOUCHED. -/
  | inval (dev : Fin 4)
  /-- R214. The management command HARVEST writes and clears the accessed and dirty bits of a range of pages. -/
  | harvest (dev : Fin 4)
  /-- R215. The management command MIGRATE drains, copies and remaps a page and replays queued accesses at the new home. -/
  | migrate (dev : Fin 4)
  /-- R246. A packet becomes visible to its consumer when its last flit has arrived at the receiver. -/
  | torusPacketArrival (stop : Fin 194) (input : Fin 7) (flit : Flit)
  /-- R248. A parity error on a die crossing stops every compute die, is logged where possible and signals the management controller.
  `error` is the crossing, and whether CT's own path to memory is intact. -/
  | crossingParityError (error : Fin 6 × Bool)
  /-- R250. An Abian receiver accepts a link flit in LSEQ order or discards it and the flits after it. -/
  | linkFlitReceive (port : Fin 16) (flit : LinkFlit)
  /-- R250. A sender receiving a NACK replays from the named LSEQ, and retrains after eight replays without progress. -/
  | nackReceive (port : Fin 16) (lseq : BitVec 12)
  /-- R250. An Abian port that loses lane lock starts a retrain. -/
  | laneLockLoss (port : Fin 16)
  /-- R252. Writing 1 to FORCE starts a retrain of the port. -/
  | forceRetrain (port : Fin 16)
  /-- R251. At the end of a retrain the two ends exchange their next expected LSEQ and each sender resumes from it. -/
  | retrainEnd (port : Fin 16) (partnerExpects : BitVec 12)
  /-- R251. A retrain lasting more than 1 ms brings the link down, discards unacknowledged flits and fails open packets. -/
  | linkDownEvent (port : Fin 16)
  /-- R252. Setting EN of an Abian port starts training of the port. -/
  | portEnable (port : Fin 16)
  /-- R252. Clearing EN of an Abian port takes the link down. -/
  | portDisable (port : Fin 16)
  /-- R252. When a link partner completes training the port becomes up and learns PEERMOD and PEERPORT. -/
  | linkTrained (port : Fin 16) (peerMod : BitVec 16) (peerPort : BitVec 4)
  /-- R253. IO translates a peer access through the import table and sends it over the torus or a chosen Abian port. -/
  | peerRequest (f : FragRef) (lane : Fin 32)
  /-- R253. A tagged request waiting at IO is assigned its tag and sent once the tag window of its pair allows. -/
  | peerTagAssign (req : Nat)
  /-- R254. The target IO performs a tagged request once, or returns its cached result, APPLIED_UNKNOWN or a cancellation confirmation. -/
  | peerTargetRequest (req : PeerIn)
  /-- R256. A response to a peer request ends the access normally or raises its class-10 cause at the access. -/
  | peerResponse (req : Nat) (r : PeerResult)
  /-- R255. When the PTMO timer of a peer request expires IO sends a cancel over every port to the target. -/
  | peerTimeout (req : Nat)
  /-- R255. A target receiving a cancel answers with the result or with a confirmation that the request will never be performed. -/
  | peerCancel (srcMod : BitVec 16) (srcDev : Fin 4) (dev : Fin 4) (tag : BitVec 16)
  /-- R259. The ordering point takes a posted host write, splits it into line pieces and sends or holds it by its stream. -/
  | inboundWrite (fn : Fin 4) (requester : BitVec 16) (off : BitVec 38) (data : List (BitVec 8))
  /-- R259. A held inbound write is sent once every earlier write of its stream has been acknowledged. -/
  | inboundWriteRelease (by_ : Stream) (sel : Nat)
  /-- R260. An inbound read waits behind earlier writes of its stream and is performed at the home line by line. -/
  | inboundRead (fn : Fin 4) (requester : BitVec 16) (off : BitVec 38) (len : Nat)
  /-- R262. A completion for a device load from host memory returns and the load is performed, or HOST_ERROR is raised. -/
  | hostCompletion (dev : Fin 4) (req : Nat) (error : Bool)
  /-- R256. A host-memory access whose completion times out raises HOST_ERROR. -/
  | hostCompletionTimeout (dev : Fin 4) (req : Nat)
  /-- R265. The copy engine serves its occupied slots round-robin, one line request at a time. -/
  | copyLineRequest (core : Fin 192) (sel : Nat)
  /-- R274. A copy ends in success or failure, adds B or B + 2^48 to its count word and frees its slot. -/
  | copyCompletion (core : Fin 192) (slot : Fin 32)
  /-- R278. A multicast delivery item checks its target's stamp and window, writes its data and adds to the sender's count word. -/
  | multicastItem (core : Fin 192) (slot : Fin 32) (item : Fin 16)
  /-- R281. The shuffle engine performs the next queued shuffle after the previous one and adds N × E to its count word. -/
  | shuffleExecute (core : Fin 192) (sel : Nat)
  /-- R289. When every read of an MSCL image has completed the scale entries are written as one tile operation. -/
  | msclScaleWrite (f : FragRef)
  /-- R317. The reclaim walk forked by TSROOT frees the old root block and the blocks of the discarded subtrees depth first. -/
  | reclaimWalk (die : Fin 4) (ctx : Fin 16)
  /-- R343. A core receiving a wake re-reads the count word for each entry and sleeping fragment waiting on that address. -/
  | countWordWake (core : Fin 192) (word : Nat)
  /-- R342. A sleeping waiter re-reads its count word every 512 cycles and takes a freed wait-table entry. -/
  | waitRepoll (f : FragRef)
  /-- R339. A CWWAIT through a peer window re-reads the remote word every 512 cycles until it reaches its target. -/
  | remoteCwwaitPoll (f : FragRef)
  /-- R352. A phase open for GTMO × 1,024 cycles from its first arrival writes one event-log entry. -/
  | groupWatchdog (index : Fin 4096)
  /-- R368. Writing PGO sends a pre-emption request that discards uncommitted warps and lets committed warps run forward. -/
  | preemptionRequest (dev : Fin 4)
  /-- R368. When every warp has been discarded, kept or ended the unit's scratch, tiles and marks are saved and its resources freed. -/
  | preemptionSave (core : Fin 192) (wg : Fin 32)
  /-- R369. A committed warp not stopped PDL × 1,024 counted cycles after the request is ended with cause 0x303. -/
  | preemptDeadline (core : Fin 192) (slot : Fin 128)
  /-- R373. Setting DHALT stops every fragment of the die at its next group boundary and suspends the die's timers. -/
  | debugHalt (dev : Fin 4)
  /-- R373. Clearing DHALT lets the die's cores issue again. -/
  | debugResume (dev : Fin 4)
  /-- R374. DOP 1 reads the named register of a halted or debug-parked warp into DDATA. -/
  | debugRegRead (dev : Fin 4)
  /-- R374. DOP 2 writes DDATA to the named register of a halted or debug-parked warp. -/
  | debugRegWrite (dev : Fin 4)
  /-- R374. DOP 3 resumes a debug-parked warp as tret.next. -/
  | debugResumeNext (dev : Fin 4)
  /-- R374. DOP 4 resumes a debug-parked warp as tret. -/
  | debugResumeTret (dev : Fin 4)
  /-- R374. DOP 5 ends a halted or debug-parked warp with cause 0x30B. -/
  | debugKill (dev : Fin 4)
  /-- R375. A sleeping fragment becomes ready between t + n and t + n + 64. -/
  | sleepExpiry (f : FragRef)
  /-- R381. Setting ELEN with a legal ELLOG sets ELHEAD to ELTAIL and writes the internally kept events. -/
  | eventLogEnable
  /-- R381. The host writes ELHEAD to consume event-log entries; a backward write or one past ELTAIL is ignored. -/
  | elheadWrite (value : BitVec 64)
  /-- R385. Each slice and stack reads and corrects its whole contents once per SCRUBP hours. -/
  | scrubPass (die : Fin 4) (slice : Fin 48) (corrected : List (Fin 18)) (lost : List (BitVec 31))
  /-- R385. A bank whose corrected errors reach CETHR in one scrub period is marked failed and rebuilt onto the spare bank. -/
  | bankRetired (die : Fin 4) (slice : Fin 48) (bank : Fin 18)
  /-- R386. Power-on, PERST# or an MRST write resets every die, queue, table and register of the module. -/
  | moduleReset
  /-- R388. After module reset the boot ROM verifies firmware, starts the cores, trains memory and links and sets READY. -/
  | bringup
  /-- R387. A DRST write or function-level reset stops the logical device, drains its engines, writes back its slices and resets its state. -/
  | deviceReset (dev : Fin 4)
  /-- R387. Engine items still pending 1 ms into a device reset are abandoned with 2^48 added and an event written. -/
  | engineDrainTimeout (dev : Fin 4)
  /-- R390. The mailbox command ATTEST builds and signs a report over NONCE into REPORT. -/
  | attest
  /-- R394. The mailbox command CERT writes the identity certificate to host memory and sets MBLEN. -/
  | cert
  /-- R394. The mailbox command LOAD reads, verifies and writes a firmware image to a flash slot. -/
  | load (hostError flashError : Bool)
  /-- R357. A management core that stops answering its watchdog raises a fatal class-15 event. -/
  | fwWatchdog
  /-- R391. A die passing its shutdown temperature raises THERMAL_TRIP and stops all compute dies. -/
  | thermalTrip (die : Fin 4)
  /-- R391. A die reaching its throttle temperature lowers the clock and THROT reads 1. -/
  | thermalThrottle (die : Fin 4)
  /-- R357. The carrier's supply leaving its limits raises a fatal class-15 event. -/
  | powerFault
  /-- R357. An uncorrectable error in CT that ends module operation raises a fatal class-15 event. -/
  | ctFatal
  /-- R391. Firmware lowers or raises the arithmetic clock of all compute dies together to keep power at or below PLIM. -/
  | clockChange (mhz : BitVec 12)
  /-- R54. Firmware retires a core, which leaves service and clears its INSERV bit, so placement no longer counts it. -/
  | coreRetirement (core : Fin 192)
  /-- R261. The PCI Express link of the host port trains, changes speed or width, or goes down, and LSPEED and LWIDTH follow it. -/
  | hostPortLinkChange (dev : Fin 4) (speed : BitVec 3) (width : BitVec 2)
  /-- R55. Every 2^AGESH cycles of waiting an eligible task's effective priority rises by 1, up to 7, and a held reservation may reach PTHR and trigger automatic pre-emption. -/
  | ageingInterval (dev : Fin 4)
  /-- R332. The debug port reads or writes memory bytes outside the interleaving, a read returning some value the byte has held. -/
  | debugPortMemoryAccess (addr : Nat) (write : Option (BitVec 8))
  /-- R392. A write of MGO with a MOP value other than 1, 2 or 3 ends at once with status BAD_ARG. -/
  | mopBadArg (dev : Fin 4)
  /-- R394. A write of MBGO with an MBCMD value other than 1, 2 or 3 ends with status BAD_CMD. -/
  | mbcmdBadCmd
  deriving DecidableEq, Repr, Inhabited

/-- Who moves next: the clock runs on; a quadrant moves `delay` cycles from now, the memory instruction serving the lanes
of `lanes`, and the interlocked results of its words standing `slow` cycles later than they could: with `sel` 0 it may
issue a group, with `sel` n + 1 it goes on with one of the groups that it has issued and that
have not ended; or another step of the hardware is taken. Errors (R355, R383, R384): in a quadrant's move the word, or the
access, after the first `words` finds one that cannot be corrected, with the detail of its class 11 cause; so does a copy slot
(or, as slot 32, the shuffle that runs), or a reclaim walk; a bank corrects one, or another checked structure, of a die or, as 4,
of CT; a line that a device reset writes back to its stack is lost; one that no check finds makes the results of a word, or data of
a copy or a shuffle, wrong in the bits of a mask, or the traffic of any other move. A TLB entry is dropped and walked again, as replacement may do at any time (R208);
a core's L1 drops a line, or a prefetch brings one into it (R192, R232); the fetch unit reads a code word ahead (R66). A packet, for
a peer request or of its own, comes to a port, which sends its next link flit, of a packet of class `cls` where a new one may start
(R249 to R251); a packet leaves for its destination over the torus, and takes the next hop of its path (R241). The walk of a party
without a TLB reads its next entry (R320). A load of another module is cancelled (R255). The host reads a register (R393). -/
inductive Turn where
  | tick (cycles : Nat)
  | issue (core : Fin 192) (quad : Fin 4) (delay sel : Nat) (lanes : BitVec 32) (slow : Nat)
  | event (i : Instr)
  | strike (core : Fin 192) (quad : Fin 4) (delay sel words : Nat) (lanes : BitVec 32) (detail : BitVec 6) (data : BitVec 64)
  | strikeItem (core : Fin 192) (slot : Fin 33) (detail : BitVec 6) (addr : BitVec 64)
  | strikeWalk (die : Fin 4) (ctx : Fin 16) (detail : BitVec 6) (addr : BitVec 64)
  | corrected (die : Fin 4) (slice : Fin 48) (bank : Fin 18)
  | writebackLost (die : Fin 4) (line : BitVec 31)
  | correctedIn (src : Fin 5) (core : Fin 192)
  | wrong (core : Fin 192) (quad : Fin 4) (delay sel words : Nat) (lanes : BitVec 32) (mask : BitVec 64)
  | wrongItem (core : Fin 192) (slot : Fin 33) (mask : BitVec 64)
  | garbled (addr : Nat) (read write : BitVec 64) (move : Turn)
  | dropTlb (core : Fin 192) (page : Nat)
  | dropLine (core : Fin 192) (line : Nat)
  | bringLine (core : Fin 192) (va : Nat)
  | readAhead (core : Fin 192) (va : Nat)
  | linkPacket (port : Fin 16) (cls : BitVec 3) (flits : List (BitVec 256)) (req : Option Nat)
  | linkSend (port : Fin 16) (cls : BitVec 3)
  | windowRead (by_ : Stream) (off : BitVec 30) (bytes : Fin 4097)
  | torusSend (src dst : Fin 194) (cls : BitVec 3) (flits : List (BitVec 256))
  | torusHop (at_ : Nat)
  | walkAhead (dev : Fin 4) (page : Nat)
  | cancelLoad (req : PeerIn)
  deriving DecidableEq, Repr, Inhabited

end Sys2Proof
end

