-- ==== Sys2Proof/Config.lean ====
section
/-! DEFINITION. What an implementation fixes and the spec leaves open, as constants without a body: nothing in Lean
can evaluate them, so a theorem about the machine holds whatever they are. -/

namespace Sys2Proof.Config

/-- The turns taken after the agenda of the state is used up (log 1): any interleaving of the agents (R8, R320). -/
opaque turn : Nat → Turn

/-- The line, by its place among those held, that a full L1 gives up for another (log 73). -/
opaque l1Victim : Nat → Nat

/-- The words of a packet whose lines hold an error that cannot be corrected, by the task's number (log 83). -/
opaque lostPacket : Nat → Nat → Word64

/-- The credits with which a link starts, in link flits, for a class group: control, urgent, bulk (R249; log 91). -/
opaque linkCredit : Nat → Nat

/-- ITEM in the TRAPDATA of cause 0x1D0, one of the six numbers that R301 writes there: the rule names none (log 35). -/
opaque mcfgItem : Fin 6

/-- Whether the completion of the n-th read of host memory that a step makes for itself carries an error (R262): R262 leaves it to
the host (log 15). -/
opaque hostFails : Nat → Bool

/-- SHA-512, named by R389, R390 and R395; the spec gives no algorithm (log 12). -/
opaque sha512 : List Byte → BitVec 512

/-- Ed25519 signing with the module's identity key (R390, R395); the spec gives no algorithm (log 12). -/
opaque identitySign : List Byte → BitVec 512

/-- What R389 reads from a firmware image: its version and anti-rollback counter where the signature and digest
hold, nothing where they fail. The spec gives no layout of an image (log 12). -/
opaque verifyImage : List Byte → Option (BitVec 32 × BitVec 16)

/-- The body of a firmware image, over which FWDIGEST is taken (R395; log 12). -/
opaque imageBody : List Byte → List Byte

/-- The identity certificate in the carrier flash (R390; log 12). -/
opaque certificate : List Byte

/-- The module serial number, 16 bytes (R390, R395; log 12). -/
opaque serial : BitVec 128

/-- The contents of flash slot 0 and slot 1 as shipped (R388; log 12). -/
opaque flash : Bool → List Byte

/-- The fused anti-rollback counter as shipped (R389; log 12). -/
opaque fusedCounter : BitVec 16

/-- The EN bits of the Abian ports in the flash configuration (R388 step 4; log 12). -/
opaque flashPortEnable : BitVec 16

end Sys2Proof.Config
end

