-- ==== Sys2Proof/Machine/Fields.lean ====
section
/-! DEFINITION. The fields of a word: the operand fields of each format (R68), the combined immediate of an EXT (R74)
and the modifier extension (R75). -/

namespace Sys2Proof

/-- The bits [hi:lo] of a natural number (R89). -/
def bitsOf (n hi lo : Nat) : Nat := n / 2 ^ lo % 2 ^ (hi + 1 - lo)

/-- One bit of a natural number. -/
def bitOf (n i : Nat) : Bool := n / 2 ^ i % 2 == 1

/-- A field of `w` bits read as two's complement (R89). -/
def signedOf (w v : Nat) : Int := if 2 ^ (w - 1) ≤ v then (v : Int) - 2 ^ w else v

/-- An integer stored in 64 bits, modulo 2^64 (R108). -/
def w64 (x : Int) : Word64 := BitVec.ofInt 64 x

/-- The immediate that the EXT payloads and the host's own `w`-bit field make together (R74). -/
def combineImm (ext : List (BitVec 24)) (w v : Nat) : Nat :=
  ext.foldl (fun acc p => acc * 2 ^ 24 + p.toNat) 0 * 2 ^ w + v

/-- The width of the combined immediate (R74). -/
def combineWidth (ext : List (BitVec 24)) (w : Nat) : Nat := 24 * ext.length + w

/-- The combined immediate read as signed. -/
def combineInt (ext : List (BitVec 24)) (w v : Nat) : Int := signedOf (combineWidth ext w) (combineImm ext w v)

/-! ### Formats (R68): from bits [18:0], and back. -/

def OpR.of (u : Bool) (f : BitVec 19) (x : List (BitVec 24)) : OpR :=
  ⟨u, f.extractLsb' 13 6, f.extractLsb' 7 6, f.extractLsb' 1 6, f.getLsbD 0, x⟩
def OpR.bits19 (o : OpR) : BitVec 19 := o.d ++ o.a ++ o.b ++ BitVec.ofBool o.m

def OpI.of (u : Bool) (f : BitVec 19) (x : List (BitVec 24)) : OpI :=
  ⟨u, f.extractLsb' 13 6, f.extractLsb' 7 6, f.extractLsb' 0 7, x⟩
def OpI.bits19 (o : OpI) : BitVec 19 := o.d ++ o.a ++ o.imm

def OpL.of (u : Bool) (f : BitVec 19) (x : List (BitVec 24)) : OpL :=
  ⟨u, f.extractLsb' 13 6, f.extractLsb' 0 13, x⟩
def OpL.bits19 (o : OpL) : BitVec 19 := o.d ++ o.imm

def OpJ.of (u : Bool) (f : BitVec 19) (x : List (BitVec 24)) : OpJ := ⟨u, f, x⟩
def OpJ.bits19 (o : OpJ) : BitVec 19 := o.imm

def OpC.of (u : Bool) (f : BitVec 19) (x : List (BitVec 24)) : OpC :=
  ⟨u, f.extractLsb' 13 6, f.extractLsb' 10 3, f.extractLsb' 0 10, x⟩
def OpC.bits19 (o : OpC) : BitVec 19 := o.a ++ o.cc ++ o.imm

def OpG.of (u : Bool) (f : BitVec 19) (x : List (BitVec 24)) : OpG :=
  ⟨u, f.extractLsb' 1 18, f.getLsbD 0, x⟩
def OpG.bits19 (o : OpG) : BitVec 19 := o.off ++ BitVec.ofBool o.m

def OpM.of (u : Bool) (f : BitVec 19) (x : List (BitVec 24)) : OpM :=
  ⟨u, f.extractLsb' 13 6, f.extractLsb' 10 3, f.getLsbD 9, f.extractLsb' 3 6, f.extractLsb' 0 3, x⟩
def OpM.bits19 (o : OpM) : BitVec 19 := o.d ++ o.base ++ BitVec.ofBool o.xk ++ o.x ++ o.w

def OpN.of (u : Bool) (f : BitVec 19) (x : List (BitVec 24)) : OpN :=
  ⟨u, f.extractLsb' 13 6, f.extractLsb' 7 6, f.extractLsb' 3 4, f.extractLsb' 0 3, x⟩
def OpN.bits19 (o : OpN) : BitVec 19 := o.d ++ o.a ++ o.off ++ o.w

def OpZ.of (u : Bool) (f : BitVec 19) (x : List (BitVec 24)) : OpZ := ⟨u, f, x⟩
def OpZ.bits19 (o : OpZ) : BitVec 19 := o.bits

/-! ### Immediates (R74). -/

def OpI.immN (o : OpI) : Nat := combineImm o.ext 7 o.imm.toNat
def OpI.immI (o : OpI) : Int := combineInt o.ext 7 o.imm.toNat
def OpL.immN (o : OpL) : Nat := combineImm o.ext 13 o.imm.toNat
def OpL.immI (o : OpL) : Int := combineInt o.ext 13 o.imm.toNat
def OpJ.immI (o : OpJ) : Int := combineInt o.ext 19 o.imm.toNat
def OpC.immI (o : OpC) : Int := combineInt o.ext 10 o.imm.toNat
def OpG.offI (o : OpG) : Int := o.off.toInt
def OpM.immI (o : OpM) : Int := combineInt o.ext 6 o.x.toNat
def OpN.immI (o : OpN) : Int := combineInt o.ext 4 o.off.toNat

/-! ### The modifier extension (R75): without an EXT every field reads as zero. -/

def OpR.mod (o : OpR) : BitVec 24 := o.ext.headD 0
def OpR.rm (o : OpR) : BitVec 2 := o.mod.extractLsb' 22 2
def OpR.sat (o : OpR) : Bool := o.mod.getLsbD 21
def OpR.cv (o : OpR) : Bool := o.mod.getLsbD 20
def OpR.creg (o : OpR) : BitVec 6 := o.mod.extractLsb' 14 6
def OpR.sub (o : OpR) : BitVec 6 := o.mod.extractLsb' 8 6
def OpR.xm (o : OpR) : BitVec 8 := o.mod.extractLsb' 0 8

end Sys2Proof
end

