-- ==== Sys2Proof/Machine/Float.lean ====
section
/-! DEFINITION. Number formats and exact arithmetic (R135 to R141, R146): an encoding is read as an exact value, sums
and products are exact, and a result is rounded once. -/

namespace Sys2Proof

/-- The floating-point formats (R135). -/
inductive Fmt where
  | f64 | f32 | bf16 | h16 | e4m3
  deriving DecidableEq, Repr, Inhabited

/-- Exponent bits, fraction bits and bias of a format (R135). -/
def Fmt.expBits : Fmt → Nat
  | .f64 => 11 | .f32 => 8 | .bf16 => 8 | .h16 => 5 | .e4m3 => 4
def Fmt.fracBits : Fmt → Nat
  | .f64 => 52 | .f32 => 23 | .bf16 => 7 | .h16 => 10 | .e4m3 => 3
def Fmt.bias (f : Fmt) : Nat := 2 ^ (f.expBits - 1) - 1
def Fmt.width (f : Fmt) : Nat := 1 + f.expBits + f.fracBits

/-- The sign bit of a format, as a number to add. -/
def Fmt.signBit (f : Fmt) (neg : Bool) : Nat := if neg then 2 ^ (f.width - 1) else 0

/-- The canonical NaN (R135). -/
def Fmt.nan : Fmt → Nat
  | .f64 => 0x7FF8000000000000 | .f32 => 0x7FC00000 | .bf16 => 0x7FC0 | .h16 => 0x7E00 | .e4m3 => 0x7F

/-- The largest finite magnitude (R135, R136). -/
def Fmt.maxFinite (f : Fmt) : Nat :=
  if f = .e4m3 then 0x7E else (2 ^ f.expBits - 1) * 2 ^ f.fracBits - 1

/-- The encoding of +∞; e4m3 has none, and an infinity rounded into it saturates (R136). -/
def Fmt.infinity (f : Fmt) : Nat := if f = .e4m3 then 0x7E else (2 ^ f.expBits - 1) * 2 ^ f.fracBits

/-- A rounding mode (R139). -/
inductive Rm where
  | rn | rz | ru | rd
  deriving DecidableEq, Repr, Inhabited

/-- The RM field (R75). -/
def Rm.ofBits (r : BitVec 2) : Rm := match r.toNat with | 0 => .rn | 1 => .rz | 2 => .ru | _ => .rd

/-- An exact value (R146): NaN, a signed infinity, or ± m × 2^e, where a zero keeps its sign. -/
inductive FVal where
  | nan
  | inf (neg : Bool)
  | fin (neg : Bool) (m : Nat) (e : Int)
  deriving DecidableEq, Repr, Inhabited

/-- The value of an encoding (R135, R136). -/
def Fmt.val (f : Fmt) (bits : Nat) : FVal :=
  let neg := bitOf bits (f.width - 1)
  let ex := bits / 2 ^ f.fracBits % 2 ^ f.expBits
  let fr := bits % 2 ^ f.fracBits
  if f = .e4m3 then
    if ex = 15 ∧ fr = 7 then .nan
    else if ex = 0 then .fin neg fr (-9) else .fin neg (8 + fr) ((ex : Int) - 10)
  else if ex = 2 ^ f.expBits - 1 then (if fr = 0 then .inf neg else .nan)
  else if ex = 0 then .fin neg fr (1 - (f.bias : Int) - f.fracBits)
  else .fin neg (2 ^ f.fracBits + fr) ((ex : Int) - f.bias - f.fracBits)

namespace FVal

/-- The value of an integer. -/
def ofInt (x : Int) : FVal := .fin (x < 0) x.natAbs 0

/-- The sign bit of a value; a NaN has none. -/
def isNeg : FVal → Bool
  | nan => false | inf n => n | fin n _ _ => n

def isNan : FVal → Bool
  | nan => true | _ => false

def isZero : FVal → Bool
  | fin _ 0 _ => true | _ => false

def neg : FVal → FVal
  | nan => nan | inf n => inf !n | fin n m e => fin (!n) m e

def abs : FVal → FVal
  | nan => nan | inf _ => inf false | fin _ m e => fin false m e

/-- `Mul` (R146): the exact product. -/
def mul : FVal → FVal → FVal
  | nan, _ => nan
  | _, nan => nan
  | inf a, inf b => inf (a != b)
  | inf a, fin b m _ => if m = 0 then nan else inf (a != b)
  | fin a m _, inf b => if m = 0 then nan else inf (a != b)
  | fin a m e, fin b n g => fin (a != b) (m * n) (e + g)

/-- A finite value as an integer multiple of 2^e0, for e0 at most its exponent. -/
def scaled (e0 : Int) : FVal → Int
  | fin n m e => let v : Int := m * 2 ^ (e - e0).toNat; if n then -v else v
  | _ => 0

/-- The exponent of a finite value. -/
def expo : FVal → Int
  | fin _ _ e => e
  | _ => 0

/-- The least exponent of a list of finite values. -/
def minExpo : List FVal → Int
  | [] => 0
  | [x] => x.expo
  | x :: xs => min x.expo (minExpo xs)

/-- The sign of a zero sum (R139): that of the terms when all are zeros of one sign, else negative only under
`down`. -/
def zeroSumNeg (xs : List FVal) (rm : Rm) : Bool :=
  if xs.all (fun x => x.isZero && x.isNeg) && !xs.isEmpty then true
  else if xs.all (fun x => x.isZero && !x.isNeg) then false
  else rm = .rd

/-- `Sum` (R146): the exact sum of a list. -/
def sum (xs : List FVal) (rm : Rm) : FVal :=
  if xs.any isNan || (xs.contains (inf true) && xs.contains (inf false)) then nan
  else if xs.contains (inf true) then inf true
  else if xs.contains (inf false) then inf false
  else
    let e0 := minExpo xs
    let s := (xs.map (scaled e0)).foldl (· + ·) 0
    if s = 0 then fin (zeroSumNeg xs rm) 0 0 else fin (s < 0) s.natAbs e0

/-- The comparison of two values that are not NaN: negative, zero or positive as x < y, x = y or x > y; −0 = +0. -/
def cmp : FVal → FVal → Int
  | inf a, inf b => if a = b then 0 else if a then -1 else 1
  | inf a, _ => if a then -1 else 1
  | _, inf b => if b then 1 else -1
  | x, y => let e0 := min x.expo y.expo; x.scaled e0 - y.scaled e0

/-- A nonzero quotient m1/m2 as a value with at least 66 significant bits, its last bit set when it is not exact: it
rounds into every format as the exact quotient does. -/
def quot (neg : Bool) (m1 m2 : Nat) (e : Int) : FVal :=
  let s := 68 + m2.log2
  let n := m1 * 2 ^ s / m2
  let inexact := m1 * 2 ^ s % m2 ≠ 0
  fin neg (2 * n + if inexact then 1 else 0) (e - s - 1)

/-- x / y with the special cases of IEEE 754-2019 (R148, R159). -/
def div : FVal → FVal → FVal
  | nan, _ => nan
  | _, nan => nan
  | inf _, inf _ => nan
  | inf a, fin b _ _ => inf (a != b)
  | fin a _ _, inf b => fin (a != b) 0 0
  | fin a m e, fin b n g =>
    if n = 0 then (if m = 0 then nan else inf (a != b))
    else if m = 0 then fin (a != b) 0 0
    else quot (a != b) m n (e - g)

end FVal

/-- The integer square root, one bit at a time. -/
def isqrtBits (n r : Nat) : Nat → Nat
  | 0 => r
  | k + 1 => isqrtBits n (if (r + 2 ^ k) * (r + 2 ^ k) ≤ n then r + 2 ^ k else r) k

/-- The largest r with r × r ≤ n. -/
def isqrt (n : Nat) : Nat := isqrtBits n 0 (n.log2 / 2 + 1)

namespace FVal

/-- √x, with √(−0) = −0 and NaN below zero (R148); the last bit marks an inexact root, as in `quot`. -/
def sqrt : FVal → FVal
  | nan => nan
  | inf n => if n then nan else inf false
  | fin n m e =>
    if m = 0 then fin n 0 0
    else if n then nan
    else
      let odd := e % 2 ≠ 0
      let m' := if odd then 2 * m else m
      let e' := if odd then e - 1 else e
      let r := isqrt (m' * 2 ^ 140)
      fin false (2 * r + if r * r = m' * 2 ^ 140 then 0 else 1) (e' / 2 - 71)

/-- 1/√x (R148): ±0 give ±∞, +∞ gives +0, below zero NaN. -/
def rsqrt : FVal → FVal
  | nan => nan
  | inf n => if n then nan else fin false 0 0
  | fin n m e =>
    if m = 0 then inf n
    else if n then nan
    else
      let odd := e % 2 ≠ 0
      let m' := if odd then 2 * m else m
      let e' := if odd then e - 1 else e
      let t := 70 + m'.log2
      let q := 2 ^ (2 * t) / m'
      let r := isqrt q
      let exact := 2 ^ (2 * t) % m' = 0 ∧ r * r = q
      fin false (2 * r + if exact then 0 else 1) (-(e' / 2) - t - 1)

/-- m × 2^−d rounded to an integer under a mode (R139); `neg` is the sign of the value. -/
def roundShift (rm : Rm) (neg : Bool) (m d : Nat) : Nat :=
  let q := m / 2 ^ d
  let r := m % 2 ^ d
  let up := match rm with
    | .rn => 2 ^ d < 2 * r || (2 * r == 2 ^ d && r != 0 && q % 2 == 1)
    | .rz => false
    | .ru => r != 0 && !neg
    | .rd => r != 0 && neg
  q + if up then 1 else 0

/-- `RoundInt` (R146): a finite value rounded to an integer. -/
def roundInt (rm : Rm) : FVal → Int
  | fin n m e =>
    let a : Int := if 0 ≤ e then (m : Int) * 2 ^ e.toNat else roundShift rm n m (-e).toNat
    if n then -a else a
  | _ => 0

end FVal

/-- The result of an overflow (R139, R140): the saturated value with SAT or in e4m3, else by the mode. -/
def Fmt.overflow (f : Fmt) (rm : Rm) (sat neg : Bool) : Nat :=
  let toInf := match rm with
    | .rn => true | .rz => false | .ru => !neg | .rd => neg
  f.signBit neg + if f = .e4m3 || sat || !toInf then f.maxFinite else f.infinity

/-- `Round` (R146): the encoding of an exact value, rounded once (R136, R139, R140). -/
def Fmt.round (f : Fmt) (x : FVal) (rm : Rm) (sat : Bool) : Nat :=
  match x with
  | .nan => f.nan
  | .inf neg => f.signBit neg + f.infinity
  | .fin neg m e =>
    if m = 0 then f.signBit neg
    else
      -- the grid of the result is the multiples of 2^q
      let q : Int := max (e + m.log2 - f.fracBits) (1 - (f.bias : Int) - f.fracBits)
      let n := if q ≤ e then m * 2 ^ (e - q).toNat else FVal.roundShift rm neg m (q - e).toNat
      -- rounding up may carry into the next binade
      let carry := n = 2 ^ (f.fracBits + 1)
      let n' := if carry then 2 ^ f.fracBits else n
      let q' := if carry then q + 1 else q
      if n' < 2 ^ f.fracBits then f.signBit neg + n'
      else
        let mag := ((q' + f.fracBits + f.bias).toNat - 1) * 2 ^ f.fracBits + n'
        if f.maxFinite < mag then f.overflow rm sat neg else f.signBit neg + mag

/-- `SatInt` (R146): clamped to the range of a signed or natural integer of w bits. -/
def satInt (signed : Bool) (w : Nat) (x : Int) : Int :=
  if signed then max (-(2 ^ (w - 1))) (min x (2 ^ (w - 1) - 1)) else max 0 (min x (2 ^ w - 1))

/-- An integer kept modulo 2^w. -/
def wrapInt (w : Nat) (x : Int) : Nat := (x % 2 ^ w).toNat

/-- MinMax (R159): the encoding of the smaller or larger operand, −0 below +0; a single NaN gives the other operand,
two give the canonical NaN. -/
def Fmt.minMax (f : Fmt) (max : Bool) (x y : Nat) : Nat :=
  let a := f.val x
  let b := f.val y
  if a.isNan && b.isNan then f.nan
  else if a.isNan then y
  else if b.isNan then x
  else
    let c := FVal.cmp a b
    let xLess := c < 0 || (c == 0 && a.isNeg && !b.isNeg)
    if max then (if xLess then y else x) else (if xLess || c == 0 && (a.isNeg == b.isNeg) then x else if c == 0 then y else y)

end Sys2Proof
end

