-- ==== Sys2Proof/Machine/WordTests.lean ====
section
/-! DEFINITION. The tests that decoding makes on one word (R69 to R71, R75, R81, R107, R157, and the field rules of
the instruction entries). Each test answers whether the word fails it; a word's cause is the lowest one (R72). -/

namespace Sys2Proof

/-- The opcode of a word (R79); the other steps of the hardware have none. -/
def Instr.opcode : Instr → Option (BitVec 8)
  | .nop _ => some 0x00
  | .saddR _ => some 0x01
  | .ssubR _ => some 0x02
  | .smulR _ => some 0x03
  | .smulh _ => some 0x04
  | .sdiv _ => some 0x05
  | .srem _ => some 0x06
  | .sandR _ => some 0x07
  | .sorR _ => some 0x08
  | .sxorR _ => some 0x09
  | .sshlR _ => some 0x0A
  | .sshrR _ => some 0x0B
  | .ssraR _ => some 0x0C
  | .sminR _ => some 0x0D
  | .smaxR _ => some 0x0E
  | .scmpR _ => some 0x0F
  | .ssel _ => some 0x10
  | .smov _ => some 0x11
  | .sleaR _ => some 0x12
  | .spopc _ => some 0x13
  | .sclz _ => some 0x14
  | .sbrev _ => some 0x15
  | .saddI _ => some 0x16
  | .smulI _ => some 0x17
  | .sandI _ => some 0x18
  | .sorI _ => some 0x19
  | .sxorI _ => some 0x1A
  | .sshlI _ => some 0x1B
  | .sshrI _ => some 0x1C
  | .ssraI _ => some 0x1D
  | .scmpI _ => some 0x1E
  | .sli _ => some 0x1F
  | .br _ => some 0x20
  | .brc _ => some 0x21
  | .brv _ => some 0x22
  | .rcv _ => some 0x23
  | .call _ => some 0x24
  | .ret _ => some 0x25
  | .jmpi _ => some 0x26
  | .mfs _ => some 0x27
  | .mts _ => some 0x28
  | .enq _ => some 0x29
  | .exit _ => some 0x2A
  | .sminI _ => some 0x2B
  | .smaxI _ => some 0x2C
  | .sleaI _ => some 0x2D
  | .vadd _ => some 0x30
  | .vsub _ => some 0x31
  | .vmul _ => some 0x32
  | .vfma _ => some 0x33
  | .vneg _ => some 0x34
  | .vabs _ => some 0x35
  | .vmin _ => some 0x36
  | .vmax _ => some 0x37
  | .vdiv _ => some 0x38
  | .vsqrt _ => some 0x39
  | .vrcp _ => some 0x3A
  | .vrsq _ => some 0x3B
  | .vexp2 _ => some 0x3C
  | .vlog2 _ => some 0x3D
  | .vscpi _ => some 0x3E
  | .vcmul _ => some 0x40
  | .vcfma _ => some 0x41
  | .vbfly _ => some 0x42
  | .vtwid _ => some 0x43
  | .vcvtR _ => some 0x44
  | .vqnt _ => some 0x45
  | .vcvtI _ => some 0x46
  | .vtagI _ => some 0x47
  | .viaddR _ => some 0x48
  | .visub _ => some 0x49
  | .vimulR _ => some 0x4A
  | .vimulh _ => some 0x4B
  | .vifma _ => some 0x4C
  | .vandR _ => some 0x4D
  | .vorR _ => some 0x4E
  | .vxorR _ => some 0x4F
  | .vshlR _ => some 0x50
  | .vshrR _ => some 0x51
  | .vsraR _ => some 0x52
  | .viminR _ => some 0x53
  | .vimaxR _ => some 0x54
  | .viminI _ => some 0x55
  | .vimaxI _ => some 0x56
  | .vimulI _ => some 0x57
  | .viaddI _ => some 0x58
  | .vandI _ => some 0x59
  | .vorI _ => some 0x5A
  | .vxorI _ => some 0x5B
  | .vshlI _ => some 0x5C
  | .vshrI _ => some 0x5D
  | .vsraI _ => some 0x5E
  | .vcmpR _ => some 0x60
  | .vsel _ => some 0x61
  | .vmovR _ => some 0x62
  | .vbcastR _ => some 0x63
  | .vlane _ => some 0x64
  | .vshflR _ => some 0x65
  | .vperm _ => some 0x66
  | .vscan _ => some 0x67
  | .vred _ => some 0x68
  | .vpopc _ => some 0x69
  | .vclz _ => some 0x6A
  | .vtagR _ => some 0x6B
  | .vcmpI _ => some 0x6C
  | .vmovL _ => some 0x6D
  | .vbcastI _ => some 0x6E
  | .vshflI _ => some 0x6F
  | .kand _ => some 0x70
  | .kor _ => some 0x71
  | .kxor _ => some 0x72
  | .knot _ => some 0x73
  | .kpopc _ => some 0x74
  | .kmovR _ => some 0x75
  | .kmovL _ => some 0x76
  | .ldM _ => some 0x80
  | .stM _ => some 0x81
  | .ldsM _ => some 0x82
  | .stsM _ => some 0x83
  | .ldu _ => some 0x84
  | .atmM _ => some 0x85
  | .xaddM _ => some 0x86
  | .xrdM _ => some 0x87
  | .xclr _ => some 0x88
  | .btl _ => some 0x89
  | .btinv _ => some 0x8A
  | .classR _ => some 0x8B
  | .pfhM _ => some 0x8C
  | .send _ => some 0x8D
  | .rpop _ => some 0x8E
  | .rwait _ => some 0x8F
  | .ldN _ => some 0x90
  | .stN _ => some 0x91
  | .ldsN _ => some 0x92
  | .stsN _ => some 0x93
  | .atmN _ => some 0x94
  | .pfhN _ => some 0x95
  | .classI _ => some 0x96
  | .xaddN _ => some 0x97
  | .xrdN _ => some 0x98
  | .ldshape _ => some 0xA0
  | .stshape _ => some 0xA1
  | .cpyR _ => some 0xA2
  | .cpym _ => some 0xA3
  | .shufR _ => some 0xA4
  | .cpyI _ => some 0xA5
  | .shufI _ => some 0xA6
  | .mma _ => some 0xB0
  | .mscl _ => some 0xB1
  | .mrdR _ => some 0xB2
  | .mwrR _ => some 0xB3
  | .mst _ => some 0xB4
  | .mzero _ => some 0xB5
  | .mprog _ => some 0xB6
  | .mrdI _ => some 0xB7
  | .mwrI _ => some 0xB8
  | .tsbind _ => some 0xC0
  | .tsdesc _ => some 0xC1
  | .tsexp _ => some 0xC2
  | .tsback _ => some 0xC3
  | .tsleaf _ => some 0xC4
  | .tsroot _ => some 0xC5
  | .tsstat _ => some 0xC6
  | .cwsigR _ => some 0xC8
  | .cwwaitR _ => some 0xC9
  | .cwrd _ => some 0xCA
  | .cwset _ => some 0xCB
  | .gnew _ => some 0xCC
  | .gjoin _ => some 0xCD
  | .gleave _ => some 0xCE
  | .gbar _ => some 0xCF
  | .gvote _ => some 0xD0
  | .gred _ => some 0xD1
  | .gstat _ => some 0xD2
  | .gfree _ => some 0xD3
  | .cwsigI _ => some 0xD4
  | .cwwaitI _ => some 0xD5
  | .trapL _ => some 0xD8
  | .tret _ => some 0xD9
  | .region _ => some 0xDA
  | .pgsupply _ => some 0xDB
  | .bkpt _ => some 0xDC
  | .sleep _ => some 0xDD
  | .mflog _ => some 0xDE
  | .trapR _ => some 0xDF
  | .qtailWrite _ _ _ | .queueEnable _ _ | .queueDisable _ _ | .qcheadWrite _ _ _ | .registerWrite _ _ _ _
    | .packetIntake _ | .taskDispatch _ | .unitPlacement _ | .unitRestore _ | .taskCompletion _ | .interruptDelay _ _
    | .workgroupRelease _ _ | .residencyDeadlock _ | .packetDecode _ | .joinRelease _ | .pageWalk _ _
    | .upcallPost _ _ | .homeAccess _ _ | .classDrain _ _ | .reclassificationPoint _ | .inval _ | .harvest _
    | .migrate _ | .torusPacketArrival _ _ _ | .crossingParityError _ | .linkFlitReceive _ _ | .nackReceive _ _
    | .laneLockLoss _ | .forceRetrain _ | .retrainEnd _ _ | .linkDownEvent _ | .portEnable _ | .portDisable _
    | .linkTrained _ _ _ | .peerRequest _ _ | .peerTagAssign _ | .peerTargetRequest _ | .peerResponse _ _
    | .peerTimeout _ | .peerCancel _ _ _ _ | .inboundWrite _ _ _ _ | .inboundWriteRelease _ _ | .inboundRead _ _ _ _
    | .hostCompletion _ _ _ | .hostCompletionTimeout _ _ | .copyLineRequest _ _ | .copyCompletion _ _
    | .multicastItem _ _ _ | .shuffleExecute _ _ | .msclScaleWrite _ | .reclaimWalk _ _ | .countWordWake _ _
    | .waitRepoll _ | .remoteCwwaitPoll _ | .groupWatchdog _ | .preemptionRequest _ | .preemptionSave _ _
    | .preemptDeadline _ _ | .debugHalt _ | .debugResume _ | .debugRegRead _ | .debugRegWrite _ | .debugResumeNext _
    | .debugResumeTret _ | .debugKill _ | .sleepExpiry _ | .eventLogEnable | .elheadWrite _ | .scrubPass _ _ _ _
    | .bankRetired _ _ _ | .moduleReset | .bringup | .deviceReset _ | .engineDrainTimeout _ | .attest | .cert
    | .load _ _ | .fwWatchdog | .thermalTrip _ | .thermalThrottle _ | .powerFault | .ctFatal | .clockChange _
    | .coreRetirement _ | .hostPortLinkChange _ _ _ | .ageingInterval _ | .debugPortMemoryAccess _ _ | .mopBadArg _
    | .mbcmdBadCmd => none

/-- The operand fields of a word: the uniform bit, bits [18:0] and the EXT payloads before it (R67, R68, R74). -/
def Instr.fields : Instr → Bool × BitVec 19 × List (BitVec 24)
  | .nop o => (o.u, o.bits19, o.ext)
  | .saddR o => (o.u, o.bits19, o.ext)
  | .ssubR o => (o.u, o.bits19, o.ext)
  | .smulR o => (o.u, o.bits19, o.ext)
  | .smulh o => (o.u, o.bits19, o.ext)
  | .sdiv o => (o.u, o.bits19, o.ext)
  | .srem o => (o.u, o.bits19, o.ext)
  | .sandR o => (o.u, o.bits19, o.ext)
  | .sorR o => (o.u, o.bits19, o.ext)
  | .sxorR o => (o.u, o.bits19, o.ext)
  | .sshlR o => (o.u, o.bits19, o.ext)
  | .sshrR o => (o.u, o.bits19, o.ext)
  | .ssraR o => (o.u, o.bits19, o.ext)
  | .sminR o => (o.u, o.bits19, o.ext)
  | .smaxR o => (o.u, o.bits19, o.ext)
  | .scmpR o => (o.u, o.bits19, o.ext)
  | .ssel o => (o.u, o.bits19, o.ext)
  | .smov o => (o.u, o.bits19, o.ext)
  | .sleaR o => (o.u, o.bits19, o.ext)
  | .spopc o => (o.u, o.bits19, o.ext)
  | .sclz o => (o.u, o.bits19, o.ext)
  | .sbrev o => (o.u, o.bits19, o.ext)
  | .saddI o => (o.u, o.bits19, o.ext)
  | .smulI o => (o.u, o.bits19, o.ext)
  | .sandI o => (o.u, o.bits19, o.ext)
  | .sorI o => (o.u, o.bits19, o.ext)
  | .sxorI o => (o.u, o.bits19, o.ext)
  | .sshlI o => (o.u, o.bits19, o.ext)
  | .sshrI o => (o.u, o.bits19, o.ext)
  | .ssraI o => (o.u, o.bits19, o.ext)
  | .scmpI o => (o.u, o.bits19, o.ext)
  | .sli o => (o.u, o.bits19, o.ext)
  | .br o => (o.u, o.bits19, o.ext)
  | .brc o => (o.u, o.bits19, o.ext)
  | .brv o => (o.u, o.bits19, o.ext)
  | .rcv o => (o.u, o.bits19, o.ext)
  | .call o => (o.u, o.bits19, o.ext)
  | .ret o => (o.u, o.bits19, o.ext)
  | .jmpi o => (o.u, o.bits19, o.ext)
  | .mfs o => (o.u, o.bits19, o.ext)
  | .mts o => (o.u, o.bits19, o.ext)
  | .enq o => (o.u, o.bits19, o.ext)
  | .exit o => (o.u, o.bits19, o.ext)
  | .sminI o => (o.u, o.bits19, o.ext)
  | .smaxI o => (o.u, o.bits19, o.ext)
  | .sleaI o => (o.u, o.bits19, o.ext)
  | .vadd o => (o.u, o.bits19, o.ext)
  | .vsub o => (o.u, o.bits19, o.ext)
  | .vmul o => (o.u, o.bits19, o.ext)
  | .vfma o => (o.u, o.bits19, o.ext)
  | .vneg o => (o.u, o.bits19, o.ext)
  | .vabs o => (o.u, o.bits19, o.ext)
  | .vmin o => (o.u, o.bits19, o.ext)
  | .vmax o => (o.u, o.bits19, o.ext)
  | .vdiv o => (o.u, o.bits19, o.ext)
  | .vsqrt o => (o.u, o.bits19, o.ext)
  | .vrcp o => (o.u, o.bits19, o.ext)
  | .vrsq o => (o.u, o.bits19, o.ext)
  | .vexp2 o => (o.u, o.bits19, o.ext)
  | .vlog2 o => (o.u, o.bits19, o.ext)
  | .vscpi o => (o.u, o.bits19, o.ext)
  | .vcmul o => (o.u, o.bits19, o.ext)
  | .vcfma o => (o.u, o.bits19, o.ext)
  | .vbfly o => (o.u, o.bits19, o.ext)
  | .vtwid o => (o.u, o.bits19, o.ext)
  | .vcvtR o => (o.u, o.bits19, o.ext)
  | .vqnt o => (o.u, o.bits19, o.ext)
  | .vcvtI o => (o.u, o.bits19, o.ext)
  | .vtagI o => (o.u, o.bits19, o.ext)
  | .viaddR o => (o.u, o.bits19, o.ext)
  | .visub o => (o.u, o.bits19, o.ext)
  | .vimulR o => (o.u, o.bits19, o.ext)
  | .vimulh o => (o.u, o.bits19, o.ext)
  | .vifma o => (o.u, o.bits19, o.ext)
  | .vandR o => (o.u, o.bits19, o.ext)
  | .vorR o => (o.u, o.bits19, o.ext)
  | .vxorR o => (o.u, o.bits19, o.ext)
  | .vshlR o => (o.u, o.bits19, o.ext)
  | .vshrR o => (o.u, o.bits19, o.ext)
  | .vsraR o => (o.u, o.bits19, o.ext)
  | .viminR o => (o.u, o.bits19, o.ext)
  | .vimaxR o => (o.u, o.bits19, o.ext)
  | .viminI o => (o.u, o.bits19, o.ext)
  | .vimaxI o => (o.u, o.bits19, o.ext)
  | .vimulI o => (o.u, o.bits19, o.ext)
  | .viaddI o => (o.u, o.bits19, o.ext)
  | .vandI o => (o.u, o.bits19, o.ext)
  | .vorI o => (o.u, o.bits19, o.ext)
  | .vxorI o => (o.u, o.bits19, o.ext)
  | .vshlI o => (o.u, o.bits19, o.ext)
  | .vshrI o => (o.u, o.bits19, o.ext)
  | .vsraI o => (o.u, o.bits19, o.ext)
  | .vcmpR o => (o.u, o.bits19, o.ext)
  | .vsel o => (o.u, o.bits19, o.ext)
  | .vmovR o => (o.u, o.bits19, o.ext)
  | .vbcastR o => (o.u, o.bits19, o.ext)
  | .vlane o => (o.u, o.bits19, o.ext)
  | .vshflR o => (o.u, o.bits19, o.ext)
  | .vperm o => (o.u, o.bits19, o.ext)
  | .vscan o => (o.u, o.bits19, o.ext)
  | .vred o => (o.u, o.bits19, o.ext)
  | .vpopc o => (o.u, o.bits19, o.ext)
  | .vclz o => (o.u, o.bits19, o.ext)
  | .vtagR o => (o.u, o.bits19, o.ext)
  | .vcmpI o => (o.u, o.bits19, o.ext)
  | .vmovL o => (o.u, o.bits19, o.ext)
  | .vbcastI o => (o.u, o.bits19, o.ext)
  | .vshflI o => (o.u, o.bits19, o.ext)
  | .kand o => (o.u, o.bits19, o.ext)
  | .kor o => (o.u, o.bits19, o.ext)
  | .kxor o => (o.u, o.bits19, o.ext)
  | .knot o => (o.u, o.bits19, o.ext)
  | .kpopc o => (o.u, o.bits19, o.ext)
  | .kmovR o => (o.u, o.bits19, o.ext)
  | .kmovL o => (o.u, o.bits19, o.ext)
  | .ldM o => (o.u, o.bits19, o.ext)
  | .stM o => (o.u, o.bits19, o.ext)
  | .ldsM o => (o.u, o.bits19, o.ext)
  | .stsM o => (o.u, o.bits19, o.ext)
  | .ldu o => (o.u, o.bits19, o.ext)
  | .atmM o => (o.u, o.bits19, o.ext)
  | .xaddM o => (o.u, o.bits19, o.ext)
  | .xrdM o => (o.u, o.bits19, o.ext)
  | .xclr o => (o.u, o.bits19, o.ext)
  | .btl o => (o.u, o.bits19, o.ext)
  | .btinv o => (o.u, o.bits19, o.ext)
  | .classR o => (o.u, o.bits19, o.ext)
  | .pfhM o => (o.u, o.bits19, o.ext)
  | .send o => (o.u, o.bits19, o.ext)
  | .rpop o => (o.u, o.bits19, o.ext)
  | .rwait o => (o.u, o.bits19, o.ext)
  | .ldN o => (o.u, o.bits19, o.ext)
  | .stN o => (o.u, o.bits19, o.ext)
  | .ldsN o => (o.u, o.bits19, o.ext)
  | .stsN o => (o.u, o.bits19, o.ext)
  | .atmN o => (o.u, o.bits19, o.ext)
  | .pfhN o => (o.u, o.bits19, o.ext)
  | .classI o => (o.u, o.bits19, o.ext)
  | .xaddN o => (o.u, o.bits19, o.ext)
  | .xrdN o => (o.u, o.bits19, o.ext)
  | .ldshape o => (o.u, o.bits19, o.ext)
  | .stshape o => (o.u, o.bits19, o.ext)
  | .cpyR o => (o.u, o.bits19, o.ext)
  | .cpym o => (o.u, o.bits19, o.ext)
  | .shufR o => (o.u, o.bits19, o.ext)
  | .cpyI o => (o.u, o.bits19, o.ext)
  | .shufI o => (o.u, o.bits19, o.ext)
  | .mma o => (o.u, o.bits19, o.ext)
  | .mscl o => (o.u, o.bits19, o.ext)
  | .mrdR o => (o.u, o.bits19, o.ext)
  | .mwrR o => (o.u, o.bits19, o.ext)
  | .mst o => (o.u, o.bits19, o.ext)
  | .mzero o => (o.u, o.bits19, o.ext)
  | .mprog o => (o.u, o.bits19, o.ext)
  | .mrdI o => (o.u, o.bits19, o.ext)
  | .mwrI o => (o.u, o.bits19, o.ext)
  | .tsbind o => (o.u, o.bits19, o.ext)
  | .tsdesc o => (o.u, o.bits19, o.ext)
  | .tsexp o => (o.u, o.bits19, o.ext)
  | .tsback o => (o.u, o.bits19, o.ext)
  | .tsleaf o => (o.u, o.bits19, o.ext)
  | .tsroot o => (o.u, o.bits19, o.ext)
  | .tsstat o => (o.u, o.bits19, o.ext)
  | .cwsigR o => (o.u, o.bits19, o.ext)
  | .cwwaitR o => (o.u, o.bits19, o.ext)
  | .cwrd o => (o.u, o.bits19, o.ext)
  | .cwset o => (o.u, o.bits19, o.ext)
  | .gnew o => (o.u, o.bits19, o.ext)
  | .gjoin o => (o.u, o.bits19, o.ext)
  | .gleave o => (o.u, o.bits19, o.ext)
  | .gbar o => (o.u, o.bits19, o.ext)
  | .gvote o => (o.u, o.bits19, o.ext)
  | .gred o => (o.u, o.bits19, o.ext)
  | .gstat o => (o.u, o.bits19, o.ext)
  | .gfree o => (o.u, o.bits19, o.ext)
  | .cwsigI o => (o.u, o.bits19, o.ext)
  | .cwwaitI o => (o.u, o.bits19, o.ext)
  | .trapL o => (o.u, o.bits19, o.ext)
  | .tret o => (o.u, o.bits19, o.ext)
  | .region o => (o.u, o.bits19, o.ext)
  | .pgsupply o => (o.u, o.bits19, o.ext)
  | .bkpt o => (o.u, o.bits19, o.ext)
  | .sleep o => (o.u, o.bits19, o.ext)
  | .mflog o => (o.u, o.bits19, o.ext)
  | .trapR o => (o.u, o.bits19, o.ext)
  | .qtailWrite _ _ _ | .queueEnable _ _ | .queueDisable _ _ | .qcheadWrite _ _ _ | .registerWrite _ _ _ _
    | .packetIntake _ | .taskDispatch _ | .unitPlacement _ | .unitRestore _ | .taskCompletion _ | .interruptDelay _ _
    | .workgroupRelease _ _ | .residencyDeadlock _ | .packetDecode _ | .joinRelease _ | .pageWalk _ _
    | .upcallPost _ _ | .homeAccess _ _ | .classDrain _ _ | .reclassificationPoint _ | .inval _ | .harvest _
    | .migrate _ | .torusPacketArrival _ _ _ | .crossingParityError _ | .linkFlitReceive _ _ | .nackReceive _ _
    | .laneLockLoss _ | .forceRetrain _ | .retrainEnd _ _ | .linkDownEvent _ | .portEnable _ | .portDisable _
    | .linkTrained _ _ _ | .peerRequest _ _ | .peerTagAssign _ | .peerTargetRequest _ | .peerResponse _ _
    | .peerTimeout _ | .peerCancel _ _ _ _ | .inboundWrite _ _ _ _ | .inboundWriteRelease _ _ | .inboundRead _ _ _ _
    | .hostCompletion _ _ _ | .hostCompletionTimeout _ _ | .copyLineRequest _ _ | .copyCompletion _ _
    | .multicastItem _ _ _ | .shuffleExecute _ _ | .msclScaleWrite _ | .reclaimWalk _ _ | .countWordWake _ _
    | .waitRepoll _ | .remoteCwwaitPoll _ | .groupWatchdog _ | .preemptionRequest _ | .preemptionSave _ _
    | .preemptDeadline _ _ | .debugHalt _ | .debugResume _ | .debugRegRead _ | .debugRegWrite _ | .debugResumeNext _
    | .debugResumeTret _ | .debugKill _ | .sleepExpiry _ | .eventLogEnable | .elheadWrite _ | .scrubPass _ _ _ _
    | .bankRetired _ _ _ | .moduleReset | .bringup | .deviceReset _ | .engineDrainTimeout _ | .attest | .cert
    | .load _ _ | .fwWatchdog | .thermalTrip _ | .thermalThrottle _ | .powerFault | .ctFatal | .clockChange _
    | .coreRetirement _ | .hostPortLinkChange _ _ _ | .ageingInterval _ | .debugPortMemoryAccess _ _ | .mopBadArg _
    | .mbcmdBadCmd => (false, 0, [])

/-- The opcode as a number; 0 for a step that no word encodes. -/
def Instr.opNat (i : Instr) : Nat := match i.opcode with | some op => op.toNat | none => 0

/-- How many EXT words stand before the word. -/
def Instr.extLen (i : Instr) : Nat := i.fields.2.2.length

/-- What an R-format entry uses of the modifier extension: RM, SAT, CV with CREG, and the bits of SUB and XM that
it defines. Everything else must be zero (R75). -/
def OpR.modOk (o : OpR) (rm sat cv : Bool) (sub : BitVec 6) (xm : BitVec 8) : Bool :=
  (rm || o.rm == 0) && (sat || !o.sat) && (cv || !o.cv) && (o.cv || o.creg == 0) &&
  (o.sub &&& ~~~sub) == 0 && (o.xm &&& ~~~xm) == 0

/-- An R-format word whose entry uses no modifier field (an EXT of payload zero stays legal). -/
def OpR.plain (o : OpR) : Bool := o.modOk false false false 0 0

/-- An EXT payload of an I-format word that must not change the 7-bit field. -/
def OpI.noExt (o : OpI) : Bool := o.immN < 128

/-- A 6-bit field that names k0–k7, b0–b7, g0–g7 or h0–h7 (R70). -/
def fld8 (r : BitVec 6) : Bool := r.toNat < 8

/-- A field that names a writable mask register: k1 to k7 (R157). -/
def fldK (r : BitVec 6) : Bool := fld8 r && r != 0

/-- A field that names an accumulator tile (R285). -/
def fldTile (r : BitVec 6) : Bool := r.toNat < 4

/-- The `ga` field of a group instruction: g0 to g7, or 8 and 9 for the implicit groups (R344). -/
def fldGa (r : BitVec 6) : Bool := r.toNat < 10

/-- A target tag that VCVT accepts: neither 0, 5 nor 11 to 15 (R167). -/
def cvtTarget (t : Nat) : Bool := [1, 2, 3, 4, 6, 7, 8, 9, 10].contains t

/-- The packed tags (R138). -/
def tagPacked (t : Nat) : Bool := 6 ≤ t && t ≤ 10

/-- The tag codes that VBCAST R accepts (R178). -/
def bcastTag (t : Nat) : Bool := t ≤ 3 || (6 ≤ t && t ≤ 10)

/-- A slab index 256 × j + c with c below 192 and j below 3 (R298). -/
def slabOk (n : Nat) : Bool := n % 256 < 192 && n / 256 < 3

/-- The width codes of stores (R217). -/
def storeWidth (w : BitVec 3) : Bool := [0, 2, 4, 6, 7].contains w.toNat

/-- FIELD (0x046): every field value that the word's entry does not define or does not use (R69, R70, R75, R107,
R157 and the entries). -/
def Instr.fieldOk : Instr → Bool
  | .nop o => o.bits == 0 && !o.u
  -- scalar (R107 to R117)
  | .saddR o | .ssubR o => o.modOk false true false 0 0
  | .smulR o | .smulh o | .sdiv o | .srem o | .sshlR o | .sshrR o | .ssraR o
  | .sminR o | .smaxR o | .scmpR o | .ssel o => o.plain
  | .sandR o | .sorR o | .sxorR o => o.plain && !o.m
  | .smov o => o.plain && o.b == 0 && !o.m
  | .sleaR o => o.modOk false false false 0 0x07
  | .spopc o | .sclz o | .sbrev o => o.plain && o.b == 0
  | .saddI _ | .smulI _ | .sandI _ | .sorI _ | .sxorI _ | .scmpI _ | .sminI _ | .smaxI _ | .sleaI _ => true
  | .sshlI o | .sshrI o | .ssraI o => o.immN < 64
  | .sli _ => true
  -- control (R119 to R131)
  | .br _ | .rcv _ | .call _ => true
  | .brc o => o.cc.toNat < 6
  | .brv o => o.cc.toNat < 6 && (o.cc.toNat < 4 || fld8 o.a)
  | .ret o => o.plain && o.d == 0 && o.b == 0 && !o.m
  | .jmpi o => o.plain && o.b == 0 && (o.m || o.d == 0)
  | .mfs _ | .mts _ => true
  | .enq o => o.plain && !o.m
  | .exit o => o.d == 0 && o.immN < 2 ^ 32
  -- vector floating point (R159 to R168)
  | .vadd o | .vsub o | .vmul o | .vdiv o => o.modOk true true false 0 0 && !o.m
  | .vmin o | .vmax o => o.plain && !o.m
  | .vfma o => o.modOk true true true 0 0
  | .vneg o | .vabs o => o.plain && o.b == 0 && !o.m
  | .vsqrt o | .vrcp o | .vrsq o | .vexp2 o | .vlog2 o => o.modOk true true false 0 0 && o.b == 0 && !o.m
  | .vscpi o => o.modOk true false false 0 0 && o.b == 0 && !o.m
  | .vcmul o => o.modOk true true false 0 0
  | .vcfma o | .vbfly o => o.modOk true true true 0 0
  | .vtwid o => o.modOk true false false 0 0 && o.b.toNat < 32
  | .vcvtR o => o.modOk true true false 0x0F 0x07 && cvtTarget o.sub.toNat &&
      (tagPacked o.sub.toNat || o.b == 0)
  | .vqnt o => o.modOk true false false 0 0 && o.b == 0
  | .vcvtI o => o.noExt && cvtTarget (o.imm.toNat % 16)
  | .vtagI o => o.noExt && o.imm.toNat < 16
  -- vector integer (R169 to R173)
  | .viaddR o | .visub o | .vimulR o => o.modOk false true false 0 0
  | .vimulh o | .viminR o | .vimaxR o => o.plain
  | .vifma o => o.modOk false true true 0 0
  | .vandR o | .vorR o | .vxorR o | .vshlR o | .vshrR o | .vsraR o | .vperm o | .vtagR o => o.plain && !o.m
  | .viminI _ | .vimaxI _ | .vimulI _ | .viaddI _ | .vandI _ | .vorI _ | .vxorI _ => true
  | .vshlI o | .vshrI o | .vsraI o => 0 ≤ o.immI && o.immI < 32
  | .vpopc o | .vclz o => o.plain && o.b == 0 && !o.m
  -- compare, select, moves (R174 to R183)
  | .vcmpR o => o.plain && !o.m && o.d.toNat % 8 != 0
  | .vcmpI o => o.d.toNat % 8 != 0
  | .vsel o => o.modOk false false false 0 0x07
  | .vmovR o => o.plain && o.b == 0
  | .vmovL _ => true
  | .vbcastR o => o.plain && (if o.m then o.b == 0 else bcastTag o.b.toNat)
  | .vbcastI o => o.immN < 32
  | .vlane o | .vshflR o => o.plain
  | .vshflI o => o.noExt
  | .vscan o | .vred o => o.modOk (o.b == 0) (o.b == 0) false 0 0 && o.b.toNat < 6
  -- masks (R176)
  | .kand o => o.plain && fldK o.d && fld8 o.a && fld8 o.b
  | .kor o | .kxor o => o.plain && fldK o.d && fld8 o.a && fld8 o.b && !o.m
  | .knot o => o.plain && fldK o.d && fld8 o.a && o.b == 0 && !o.m
  | .kpopc o => o.plain && fld8 o.a && o.b == 0
  | .kmovR o => o.plain && !o.m && (match o.b.toNat with
      | 0 => fldK o.d && fld8 o.a
      | 1 => fldK o.d
      | 2 => fld8 o.a
      | _ => false)
  | .kmovL o => fldK o.d && o.immN < 2 ^ 32
  -- memory (R216 to R237)
  | .ldM _ | .ldN _ | .ldsN _ | .atmM _ | .atmN _ => true
  | .ldsM o => o.base == 0
  | .stM o => storeWidth o.w
  | .stN o | .stsN o => storeWidth o.w
  | .stsM o => storeWidth o.w && o.base == 0
  | .ldu o => o.w.toNat < 7
  | .xaddM o => o.w == 0
  | .xaddN o => o.w == 0
  | .xrdM _ | .xrdN _ => true
  | .xclr o => o.d == 0 && o.w == 0
  | .btl o => o.plain && fld8 o.d && !o.m
  | .btinv o => o.plain && o.a == 0 && o.b == 0 && (if o.m then o.d == 0 else fld8 o.d)
  | .classR o => o.plain
  | .classI _ => true
  | .pfhM o => o.d == 0 && o.w.toNat < 2
  | .pfhN o => o.d == 0 && o.w.toNat < 2
  | .send o => o.plain && !o.m
  | .rpop o => o.plain && (!o.m || o.b == 0)
  | .rwait o => o.plain && o.b == 0 && !o.m
  -- copies and shuffles (R263 to R283)
  | .ldshape o | .stshape o => o.plain && fld8 o.d && o.b == 0 && !o.m
  | .cpyR o => o.modOk false false true 0x01 0x03 && fld8 o.d && fld8 o.a && !o.m && (o.cv || o.sub == 0)
  | .cpym o => o.modOk false false true 0 0x1F && fld8 o.d && fld8 o.a && !o.m && o.cv
  | .shufR o => o.modOk false false false 0 0x03 && !o.m && o.a.toNat + o.xm.toNat < 64
  | .cpyI o => o.d.toNat % 2 == 0
  | .shufI o => o.noExt && 1 ≤ o.imm.toNat % 32 && o.imm.toNat % 32 ≤ 16 && o.imm.toNat / 32 != 3
  -- matrix (R287 to R300)
  | .mma o => o.modOk false false true 0x07 0x07 && fldTile o.d && !o.m && o.sub.toNat % 4 != 3 &&
      (o.cv == (o.sub.toNat % 4 == 2))
  | .mscl o => o.plain && fldTile o.d
  | .mrdR o => o.plain && fldTile o.a && !o.m
  | .mwrR o => o.plain && fldTile o.d && !o.m
  | .mst o => o.modOk false false false 0 0x03 && fldTile o.d
  | .mzero o => o.plain && fldTile o.d && o.a == 0 && o.b == 0 && !o.m
  | .mprog o => o.plain && o.d == 0 && !o.m
  | .mrdI o => fldTile o.a && slabOk o.immN
  | .mwrI o => fldTile o.d && slabOk o.immN
  -- Spinel (R309 to R318)
  | .tsbind o => o.plain && o.b == 0
  | .tsdesc o | .tsleaf o => o.plain && o.b == 0 && !o.m
  | .tsexp o => o.modOk false false false 0 0x3F && (!o.m || (o.b == 0 && o.xm == 0))
  | .tsback o => o.modOk false false false 0 0x01 && (o.xm == 0 || (o.b == 0 && !o.m))
  | .tsroot o => o.plain
  | .tsstat o => o.plain && o.b.toNat < 4 && !o.m
  -- count words and groups (R336, R344, R349, R350)
  | .cwsigR o | .cwwaitR o | .cwset o => o.plain && !o.m
  | .cwrd o => o.plain && o.b == 0 && !o.m
  | .cwsigI _ | .cwwaitI _ => true
  | .gnew o => o.plain && fld8 o.d && o.a == 0
  | .gjoin o => o.plain && fld8 o.d && !o.m
  | .gleave o | .gbar o | .gfree o => o.plain && fldGa o.a && o.b == 0 && !o.m
  | .gvote o => o.plain && fldGa o.a && !o.m
  | .gred o => o.modOk (o.xm == 1 || o.xm == 2) false false 0 0x0F && o.xm.toNat < 12 && fldGa o.a && !o.m
  | .gstat o => o.plain && fldGa o.a && o.b.toNat < 4 && !o.m
  -- system (R362 to R376)
  | .trapL o => o.immN < 64
  | .trapR o => o.plain && o.d == 0 && !o.m
  | .tret o => o.plain && o.d == 0 && o.a == 0 && o.b == 0
  | .region o => !o.m
  | .pgsupply o => o.plain && o.b == 0
  | .bkpt o => o.d == 0 && o.immN < 32
  | .sleep o => o.d == 0 && o.a == 0
  | .mflog o => o.plain && o.a == 0 && o.b.toNat < 4 && !o.m
  | .qtailWrite _ _ _ | .queueEnable _ _ | .queueDisable _ _ | .qcheadWrite _ _ _ | .registerWrite _ _ _ _
    | .packetIntake _ | .taskDispatch _ | .unitPlacement _ | .unitRestore _ | .taskCompletion _ | .interruptDelay _ _
    | .workgroupRelease _ _ | .residencyDeadlock _ | .packetDecode _ | .joinRelease _ | .pageWalk _ _
    | .upcallPost _ _ | .homeAccess _ _ | .classDrain _ _ | .reclassificationPoint _ | .inval _ | .harvest _
    | .migrate _ | .torusPacketArrival _ _ _ | .crossingParityError _ | .linkFlitReceive _ _ | .nackReceive _ _
    | .laneLockLoss _ | .forceRetrain _ | .retrainEnd _ _ | .linkDownEvent _ | .portEnable _ | .portDisable _
    | .linkTrained _ _ _ | .peerRequest _ _ | .peerTagAssign _ | .peerTargetRequest _ | .peerResponse _ _
    | .peerTimeout _ | .peerCancel _ _ _ _ | .inboundWrite _ _ _ _ | .inboundWriteRelease _ _ | .inboundRead _ _ _ _
    | .hostCompletion _ _ _ | .hostCompletionTimeout _ _ | .copyLineRequest _ _ | .copyCompletion _ _
    | .multicastItem _ _ _ | .shuffleExecute _ _ | .msclScaleWrite _ | .reclaimWalk _ _ | .countWordWake _ _
    | .waitRepoll _ | .remoteCwwaitPoll _ | .groupWatchdog _ | .preemptionRequest _ | .preemptionSave _ _
    | .preemptDeadline _ _ | .debugHalt _ | .debugResume _ | .debugRegRead _ | .debugRegWrite _ | .debugResumeNext _
    | .debugResumeTret _ | .debugKill _ | .sleepExpiry _ | .eventLogEnable | .elheadWrite _ | .scrubPass _ _ _ _
    | .bankRetired _ _ _ | .moduleReset | .bringup | .deviceReset _ | .engineDrainTimeout _ | .attest | .cert
    | .load _ _ | .fwWatchdog | .thermalTrip _ | .thermalThrottle _ | .powerFault | .ctFatal | .clockChange _
    | .coreRetirement _ | .hostPortLinkChange _ _ _ | .ageingInterval _ | .debugPortMemoryAccess _ _ | .mopBadArg _
    | .mbcmdBadCmd => true

/-- The opcodes whose words accept U = 1 (R81). -/
def uniformOpcode (op : Nat) : Bool :=
  (0x30 ≤ op && op ≤ 0x3E) || (0x40 ≤ op && op ≤ 0x5E) || (0x60 ≤ op && op ≤ 0x6F) ||
  (0x80 ≤ op && op ≤ 0x83) || (0x85 ≤ op && op ≤ 0x88) || op == 0x8C ||
  (0x90 ≤ op && op ≤ 0x95) || op == 0x97 || op == 0x98

/-- The registers d to d + n − 1 that a width code names at d: 1, 2 or 4 of them (R217). -/
def widthRegs (w : BitVec 3) : Nat := if w == 6 then 2 else if w == 7 then 4 else 1

/-- The vector registers that the fields of a host word name, fixed pairs, quads and butterflies with all their members
(R71, R158, R217). What a tag makes a pair is tested at execution; CREG is a field of the EXT word. -/
def Instr.vregs : Instr → List Nat
  | .brv o => if o.cc.toNat < 4 then [o.a.toNat] else []
  | .mfs o => if o.immN == 0 then [o.d.toNat] else []
  | .vadd o | .vsub o | .vmul o | .vdiv o | .vmin o | .vmax o
  | .viaddR o | .visub o | .vimulR o | .vimulh o | .viminR o | .vimaxR o
  | .vandR o | .vorR o | .vxorR o | .vshlR o | .vshrR o | .vsraR o | .vperm o => [o.d.toNat, o.a.toNat, o.b.toNat]
  | .vfma o | .vifma o => [o.d.toNat, o.a.toNat, o.b.toNat]
  | .vneg o | .vabs o | .vsqrt o | .vrcp o | .vrsq o | .vexp2 o | .vlog2 o | .vpopc o | .vclz o | .vscan o | .vred o
  | .vtagR o => [o.d.toNat, o.a.toNat]
  | .vscpi o | .vtwid o => [o.d.toNat, o.d.toNat + 1, o.a.toNat]
  | .vcmul o => [o.d.toNat, o.d.toNat + 1, o.a.toNat, o.a.toNat + 1, o.b.toNat, o.b.toNat + 1]
  | .vcfma o => [o.d.toNat, o.d.toNat + 1, o.a.toNat, o.a.toNat + 1, o.b.toNat, o.b.toNat + 1]
  | .vbfly o => [o.d.toNat, o.d.toNat + 3, o.a.toNat, o.a.toNat + 1, o.b.toNat, o.b.toNat + 1]
  | .vcvtR o => [o.d.toNat, o.a.toNat] ++ (if o.sub.toNat == 4 then [o.d.toNat + 1] else []) ++
      (if tagPacked o.sub.toNat then [o.b.toNat] else [])
  | .vcvtI o => [o.d.toNat, o.a.toNat] ++ (if o.imm.toNat % 16 == 4 then [o.d.toNat + 1] else [])
  | .vqnt o => [o.d.toNat, o.d.toNat + 1, o.a.toNat, o.a.toNat + 3]
  | .vtagI o | .viminI o | .vimaxI o | .vimulI o | .viaddI o | .vandI o | .vorI o | .vxorI o | .vshlI o | .vshrI o
  | .vsraI o | .vbcastI o | .vshflI o => [o.d.toNat, o.a.toNat]
  | .vcmpR o => [o.a.toNat, o.b.toNat]
  | .vcmpI o => [o.a.toNat]
  | .vsel o | .vshflR o => [o.d.toNat, o.a.toNat, o.b.toNat] ++
      (if o.m then [o.d.toNat + 1, o.a.toNat + 1, o.b.toNat + 1] else [])
  | .vmovR o => [o.d.toNat, o.a.toNat] ++ (if o.m then [o.d.toNat + 1, o.a.toNat + 1] else [])
  | .vmovL o => [o.d.toNat]
  | .vbcastR o => [o.d.toNat] ++ (if o.m then [o.d.toNat + 1] else [])
  | .vlane o => [o.a.toNat]
  | .ldM o | .stM o | .ldsM o | .stsM o =>
      [o.d.toNat, o.d.toNat + widthRegs o.w - 1] ++ (if o.xk then [] else [o.x.toNat])
  | .ldN o | .stN o | .ldsN o | .stsN o => [o.d.toNat, o.d.toNat + widthRegs o.w - 1]
  | .atmM o | .xaddM o => [o.d.toNat] ++ (if o.xk then [] else [o.x.toNat])
  | .atmN o => [o.d.toNat]
  | .xaddN o => [o.d.toNat]
  | .xrdM o => [o.d.toNat] ++ (if o.w.getLsbD 2 then [o.d.toNat + 1] else []) ++ (if o.xk then [] else [o.x.toNat])
  | .xrdN o => [o.d.toNat] ++ (if o.w.getLsbD 2 then [o.d.toNat + 1] else [])
  | .xclr o | .pfhM o => if o.xk then [] else [o.x.toNat]
  | .send o => [o.b.toNat]
  | .rpop o => if o.m then [] else [o.b.toNat]
  | .mrdR o => [o.d.toNat]
  | .mrdI o => [o.d.toNat]
  | .mwrR o => [o.a.toNat]
  | .mwrI o => [o.a.toNat]
  | _ => []

/-- The vector registers that CREG names, a field that the EXT word holds (R71, R75). -/
def Instr.cregs : Instr → List Nat
  | .vfma o | .vifma o => if o.cv then [o.creg.toNat] else []
  | .vcfma o | .vbfly o => if o.cv then [o.creg.toNat, o.creg.toNat + 1] else []
  | _ => []

/-- The accumulator tiles that the fields of a word name (R71). -/
def Instr.tiles : Instr → List Nat
  | .mma o | .mscl o | .mst o | .mzero o | .mwrR o => [o.d.toNat % 4]
  | .mrdR o => [o.a.toNat % 4]
  | .mrdI o => [o.a.toNat % 4]
  | .mwrI o => [o.d.toNat % 4]
  | _ => []

/-- What a fixed pair, quad or butterfly asks of a register field (R158, R165, R168, R217): the register, what divides
it, and the operand (0 a, 1 b, 2 CREG, 3 the destination), sources first. -/
def Instr.pairFields : Instr → List (Nat × Nat × Nat)
  | .vscpi o | .vtwid o => [(o.d.toNat, 2, 3)]
  | .vcmul o => [(o.a.toNat, 2, 0), (o.b.toNat, 2, 1), (o.d.toNat, 2, 3)]
  | .vcfma o => [(o.a.toNat, 2, 0), (o.b.toNat, 2, 1), (o.creg.toNat, 2, 2), (o.d.toNat, 2, 3)]
  | .vbfly o => [(o.a.toNat, 2, 0), (o.b.toNat, 2, 1), (o.creg.toNat, 2, 2), (o.d.toNat, 4, 3)]
  | .vcvtR o => if o.sub.toNat = 4 then [(o.d.toNat, 2, 3)] else []
  | .vcvtI o => if o.imm.toNat % 16 = 4 then [(o.d.toNat, 2, 3)] else []
  | .vqnt o => [(o.a.toNat, 4, 0), (o.d.toNat, 2, 3)]
  | .vsel o | .vshflR o => if o.m then [(o.a.toNat, 2, 0), (o.b.toNat, 2, 1), (o.d.toNat, 2, 3)] else []
  | .vmovR o => if o.m then [(o.a.toNat, 2, 0), (o.d.toNat, 2, 3)] else []
  | .vbcastR o => if o.m then [(o.d.toNat, 2, 3)] else []
  | .ldM o | .stM o | .ldsM o | .stsM o => [(o.d.toNat, widthRegs o.w, 3)]
  | .ldN o | .stN o | .ldsN o | .stsN o => [(o.d.toNat, widthRegs o.w, 3)]
  | .xrdM o => if o.w.getLsbD 2 then [(o.d.toNat, 2, 3)] else []
  | .xrdN o => if o.w.getLsbD 2 then [(o.d.toNat, 2, 3)] else []
  | _ => []

/-- PAIR_ODD (0x085) at decode. -/
def Instr.pairsOk (i : Instr) : Bool := i.pairFields.all (fun e => e.1 % e.2.1 == 0)

/-- The special registers that R128 assigns. -/
def sprAssigned (n : Nat) : Bool := n ≤ 0x00E || (0x010 ≤ n && n ≤ 0x012)

/-- The special registers that MTS may write (R128). -/
def sprWritable (n : Nat) : Bool := n == 0x011 || n == 0x012

/-- VMOV L with EXT words: the tag field and the bits above it (R177). -/
def vmovLOk (o : OpL) : Bool := o.ext.isEmpty || (o.immN / 2 ^ 32 < 12)

/-- The causes that decoding finds in one host word, lowest first (R72): `regs` is the number of vector registers of the
warp, `tiles` the TILES field of the descriptor. The fields of a modifier extension are tested with their host, but for the
range of CREG (log 92). -/
def Instr.wordCauses (regs : Nat) (tiles : BitVec 4) (i : Instr) : List (BitVec 10) :=
  let test (ok : Bool) (c : BitVec 10) : List (BitVec 10) := if ok then [] else [c]
  test i.fieldOk 0x046 ++
  test (!i.fields.1 || uniformOpcode i.opNat || i.opNat == 0) 0x048 ++
  test (i.vregs.all (· < regs)) 0x080 ++
  test (i.tiles.all (tiles.getLsbD ·)) 0x081 ++
  (match i with
   | .mfs o => test (sprAssigned o.immN) 0x082
   | .mts o => if sprAssigned o.immN then test (sprWritable o.immN) 0x083 else [0x082]
   | _ => []) ++
  test i.pairsOk 0x085 ++
  (match i with
   | .vtagI o => test (!(12 ≤ o.imm.toNat % 16 && o.imm.toNat % 16 ≤ 14)) 0x088
   | .vmovL o => test (vmovLOk o) 0x089
   | _ => [])

/-- TRAPDATA of a class-2 cause that decoding raises with the layout of R145 or R185; the other decode causes take the
layout of class 1 (R82, R83). At decode no lane is concerned, and FOUND shows a tag only where the word names one; the
immediate of VTAG I is no register, and REG and OPND name the destination (log 23). -/
def Instr.operandData (i : Instr) (cause : BitVec 10) : Option Word64 :=
  let data (reg found opnd value : Nat) : Option Word64 :=
    some (BitVec.ofNat 64 (reg + found * 2 ^ 6 + opnd * 2 ^ 15 + value * 2 ^ 32))
  if cause = 0x085 then
    match i.pairFields.find? (fun e => e.1 % e.2.1 != 0) with
    | some e => data e.1 0 e.2.2 0
    | none => none
  else match i with
  | .vtagI o => if cause = 0x088 then data o.d.toNat (o.imm.toNat % 16) 3 0 else none
  | .vmovL o => if cause = 0x089 then data o.d.toNat 0 3 (o.immN / 2 ^ 32 % 2 ^ 32) else none
  | _ => none

/-- How many EXT words a format accepts before its host, or `none` where an EXT is misplaced (R74). -/
def Instr.extLimit : Instr → Option Nat
  | .nop _ | .region _ => none
  | .sli _ | .mfs _ | .mts _ | .exit _ | .vmovL _ | .kmovL _ | .trapL _ | .bkpt _ => some 2
  | .ldM o | .stM o | .ldsM o | .stsM o | .atmM o | .xaddM o | .xrdM o | .xclr o | .pfhM o => some (if o.xk then 1 else 0)
  | _ => some 1

end Sys2Proof
end

