-- ==== Sys2Proof/WellFormed.lean ====
section
/-! DEFINITION. Well-formed instructions: a word that decoding accepts in some kernel (R69 to R81), or a step of the
hardware, whose arguments' types already bound them. -/

namespace Sys2Proof

/-- The EXT words before a host are legal (R74). -/
def Instr.extOk (i : Instr) : Bool :=
  match i.extLimit with
  | some k => i.extLen ≤ k
  | none => i.extLen == 0

/-- No test of R69 to R81 fails for the word in a kernel with `regs` vector registers and the tiles `tiles`. -/
def Instr.wellFormedIn (regs : Nat) (tiles : BitVec 4) (i : Instr) : Bool :=
  i.extOk && i.cregs.all (· < regs) && (i.wordCauses regs tiles).isEmpty

/-- Well-formed in a kernel with all 64 vector registers and all four tiles. -/
def Instr.wellFormed (i : Instr) : Bool := i.wellFormedIn 64 0b1111

end Sys2Proof
end

