-- ==== Sys2Proof/Decode.lean ====
section
/-! DEFINITION. Decoding: one word to an instruction (R67, R68, R79), a whole packet to issue groups with every check
of R72 to R81, and the encoder, written from the same tables. -/

namespace Sys2Proof

/-! ### One word. -/

/-- The instruction of an opcode point and its operand fields (R79): `none` at a reserved point, at EXT and at a
dictionary word. -/
def Instr.ofFields (op : Nat) (u : Bool) (f : BitVec 19) (x : List (BitVec 24)) : Option Instr :=
  match op with
  | 0x00 => some (.nop (OpZ.of u f x))
  | 0x01 => some (.saddR (OpR.of u f x))
  | 0x02 => some (.ssubR (OpR.of u f x))
  | 0x03 => some (.smulR (OpR.of u f x))
  | 0x04 => some (.smulh (OpR.of u f x))
  | 0x05 => some (.sdiv (OpR.of u f x))
  | 0x06 => some (.srem (OpR.of u f x))
  | 0x07 => some (.sandR (OpR.of u f x))
  | 0x08 => some (.sorR (OpR.of u f x))
  | 0x09 => some (.sxorR (OpR.of u f x))
  | 0x0A => some (.sshlR (OpR.of u f x))
  | 0x0B => some (.sshrR (OpR.of u f x))
  | 0x0C => some (.ssraR (OpR.of u f x))
  | 0x0D => some (.sminR (OpR.of u f x))
  | 0x0E => some (.smaxR (OpR.of u f x))
  | 0x0F => some (.scmpR (OpR.of u f x))
  | 0x10 => some (.ssel (OpR.of u f x))
  | 0x11 => some (.smov (OpR.of u f x))
  | 0x12 => some (.sleaR (OpR.of u f x))
  | 0x13 => some (.spopc (OpR.of u f x))
  | 0x14 => some (.sclz (OpR.of u f x))
  | 0x15 => some (.sbrev (OpR.of u f x))
  | 0x16 => some (.saddI (OpI.of u f x))
  | 0x17 => some (.smulI (OpI.of u f x))
  | 0x18 => some (.sandI (OpI.of u f x))
  | 0x19 => some (.sorI (OpI.of u f x))
  | 0x1A => some (.sxorI (OpI.of u f x))
  | 0x1B => some (.sshlI (OpI.of u f x))
  | 0x1C => some (.sshrI (OpI.of u f x))
  | 0x1D => some (.ssraI (OpI.of u f x))
  | 0x1E => some (.scmpI (OpI.of u f x))
  | 0x1F => some (.sli (OpL.of u f x))
  | 0x20 => some (.br (OpJ.of u f x))
  | 0x21 => some (.brc (OpC.of u f x))
  | 0x22 => some (.brv (OpC.of u f x))
  | 0x23 => some (.rcv (OpJ.of u f x))
  | 0x24 => some (.call (OpJ.of u f x))
  | 0x25 => some (.ret (OpR.of u f x))
  | 0x26 => some (.jmpi (OpR.of u f x))
  | 0x27 => some (.mfs (OpL.of u f x))
  | 0x28 => some (.mts (OpL.of u f x))
  | 0x29 => some (.enq (OpR.of u f x))
  | 0x2A => some (.exit (OpL.of u f x))
  | 0x2B => some (.sminI (OpI.of u f x))
  | 0x2C => some (.smaxI (OpI.of u f x))
  | 0x2D => some (.sleaI (OpI.of u f x))
  | 0x30 => some (.vadd (OpR.of u f x))
  | 0x31 => some (.vsub (OpR.of u f x))
  | 0x32 => some (.vmul (OpR.of u f x))
  | 0x33 => some (.vfma (OpR.of u f x))
  | 0x34 => some (.vneg (OpR.of u f x))
  | 0x35 => some (.vabs (OpR.of u f x))
  | 0x36 => some (.vmin (OpR.of u f x))
  | 0x37 => some (.vmax (OpR.of u f x))
  | 0x38 => some (.vdiv (OpR.of u f x))
  | 0x39 => some (.vsqrt (OpR.of u f x))
  | 0x3A => some (.vrcp (OpR.of u f x))
  | 0x3B => some (.vrsq (OpR.of u f x))
  | 0x3C => some (.vexp2 (OpR.of u f x))
  | 0x3D => some (.vlog2 (OpR.of u f x))
  | 0x3E => some (.vscpi (OpR.of u f x))
  | 0x40 => some (.vcmul (OpR.of u f x))
  | 0x41 => some (.vcfma (OpR.of u f x))
  | 0x42 => some (.vbfly (OpR.of u f x))
  | 0x43 => some (.vtwid (OpR.of u f x))
  | 0x44 => some (.vcvtR (OpR.of u f x))
  | 0x45 => some (.vqnt (OpR.of u f x))
  | 0x46 => some (.vcvtI (OpI.of u f x))
  | 0x47 => some (.vtagI (OpI.of u f x))
  | 0x48 => some (.viaddR (OpR.of u f x))
  | 0x49 => some (.visub (OpR.of u f x))
  | 0x4A => some (.vimulR (OpR.of u f x))
  | 0x4B => some (.vimulh (OpR.of u f x))
  | 0x4C => some (.vifma (OpR.of u f x))
  | 0x4D => some (.vandR (OpR.of u f x))
  | 0x4E => some (.vorR (OpR.of u f x))
  | 0x4F => some (.vxorR (OpR.of u f x))
  | 0x50 => some (.vshlR (OpR.of u f x))
  | 0x51 => some (.vshrR (OpR.of u f x))
  | 0x52 => some (.vsraR (OpR.of u f x))
  | 0x53 => some (.viminR (OpR.of u f x))
  | 0x54 => some (.vimaxR (OpR.of u f x))
  | 0x55 => some (.viminI (OpI.of u f x))
  | 0x56 => some (.vimaxI (OpI.of u f x))
  | 0x57 => some (.vimulI (OpI.of u f x))
  | 0x58 => some (.viaddI (OpI.of u f x))
  | 0x59 => some (.vandI (OpI.of u f x))
  | 0x5A => some (.vorI (OpI.of u f x))
  | 0x5B => some (.vxorI (OpI.of u f x))
  | 0x5C => some (.vshlI (OpI.of u f x))
  | 0x5D => some (.vshrI (OpI.of u f x))
  | 0x5E => some (.vsraI (OpI.of u f x))
  | 0x60 => some (.vcmpR (OpR.of u f x))
  | 0x61 => some (.vsel (OpR.of u f x))
  | 0x62 => some (.vmovR (OpR.of u f x))
  | 0x63 => some (.vbcastR (OpR.of u f x))
  | 0x64 => some (.vlane (OpR.of u f x))
  | 0x65 => some (.vshflR (OpR.of u f x))
  | 0x66 => some (.vperm (OpR.of u f x))
  | 0x67 => some (.vscan (OpR.of u f x))
  | 0x68 => some (.vred (OpR.of u f x))
  | 0x69 => some (.vpopc (OpR.of u f x))
  | 0x6A => some (.vclz (OpR.of u f x))
  | 0x6B => some (.vtagR (OpR.of u f x))
  | 0x6C => some (.vcmpI (OpI.of u f x))
  | 0x6D => some (.vmovL (OpL.of u f x))
  | 0x6E => some (.vbcastI (OpI.of u f x))
  | 0x6F => some (.vshflI (OpI.of u f x))
  | 0x70 => some (.kand (OpR.of u f x))
  | 0x71 => some (.kor (OpR.of u f x))
  | 0x72 => some (.kxor (OpR.of u f x))
  | 0x73 => some (.knot (OpR.of u f x))
  | 0x74 => some (.kpopc (OpR.of u f x))
  | 0x75 => some (.kmovR (OpR.of u f x))
  | 0x76 => some (.kmovL (OpL.of u f x))
  | 0x80 => some (.ldM (OpM.of u f x))
  | 0x81 => some (.stM (OpM.of u f x))
  | 0x82 => some (.ldsM (OpM.of u f x))
  | 0x83 => some (.stsM (OpM.of u f x))
  | 0x84 => some (.ldu (OpN.of u f x))
  | 0x85 => some (.atmM (OpM.of u f x))
  | 0x86 => some (.xaddM (OpM.of u f x))
  | 0x87 => some (.xrdM (OpM.of u f x))
  | 0x88 => some (.xclr (OpM.of u f x))
  | 0x89 => some (.btl (OpR.of u f x))
  | 0x8A => some (.btinv (OpR.of u f x))
  | 0x8B => some (.classR (OpR.of u f x))
  | 0x8C => some (.pfhM (OpM.of u f x))
  | 0x8D => some (.send (OpR.of u f x))
  | 0x8E => some (.rpop (OpR.of u f x))
  | 0x8F => some (.rwait (OpR.of u f x))
  | 0x90 => some (.ldN (OpN.of u f x))
  | 0x91 => some (.stN (OpN.of u f x))
  | 0x92 => some (.ldsN (OpN.of u f x))
  | 0x93 => some (.stsN (OpN.of u f x))
  | 0x94 => some (.atmN (OpN.of u f x))
  | 0x95 => some (.pfhN (OpN.of u f x))
  | 0x96 => some (.classI (OpI.of u f x))
  | 0x97 => some (.xaddN (OpN.of u f x))
  | 0x98 => some (.xrdN (OpN.of u f x))
  | 0xA0 => some (.ldshape (OpR.of u f x))
  | 0xA1 => some (.stshape (OpR.of u f x))
  | 0xA2 => some (.cpyR (OpR.of u f x))
  | 0xA3 => some (.cpym (OpR.of u f x))
  | 0xA4 => some (.shufR (OpR.of u f x))
  | 0xA5 => some (.cpyI (OpI.of u f x))
  | 0xA6 => some (.shufI (OpI.of u f x))
  | 0xB0 => some (.mma (OpR.of u f x))
  | 0xB1 => some (.mscl (OpR.of u f x))
  | 0xB2 => some (.mrdR (OpR.of u f x))
  | 0xB3 => some (.mwrR (OpR.of u f x))
  | 0xB4 => some (.mst (OpR.of u f x))
  | 0xB5 => some (.mzero (OpR.of u f x))
  | 0xB6 => some (.mprog (OpR.of u f x))
  | 0xB7 => some (.mrdI (OpI.of u f x))
  | 0xB8 => some (.mwrI (OpI.of u f x))
  | 0xC0 => some (.tsbind (OpR.of u f x))
  | 0xC1 => some (.tsdesc (OpR.of u f x))
  | 0xC2 => some (.tsexp (OpR.of u f x))
  | 0xC3 => some (.tsback (OpR.of u f x))
  | 0xC4 => some (.tsleaf (OpR.of u f x))
  | 0xC5 => some (.tsroot (OpR.of u f x))
  | 0xC6 => some (.tsstat (OpR.of u f x))
  | 0xC8 => some (.cwsigR (OpR.of u f x))
  | 0xC9 => some (.cwwaitR (OpR.of u f x))
  | 0xCA => some (.cwrd (OpR.of u f x))
  | 0xCB => some (.cwset (OpR.of u f x))
  | 0xCC => some (.gnew (OpR.of u f x))
  | 0xCD => some (.gjoin (OpR.of u f x))
  | 0xCE => some (.gleave (OpR.of u f x))
  | 0xCF => some (.gbar (OpR.of u f x))
  | 0xD0 => some (.gvote (OpR.of u f x))
  | 0xD1 => some (.gred (OpR.of u f x))
  | 0xD2 => some (.gstat (OpR.of u f x))
  | 0xD3 => some (.gfree (OpR.of u f x))
  | 0xD4 => some (.cwsigI (OpI.of u f x))
  | 0xD5 => some (.cwwaitI (OpI.of u f x))
  | 0xD8 => some (.trapL (OpL.of u f x))
  | 0xD9 => some (.tret (OpR.of u f x))
  | 0xDA => some (.region (OpG.of u f x))
  | 0xDB => some (.pgsupply (OpR.of u f x))
  | 0xDC => some (.bkpt (OpL.of u f x))
  | 0xDD => some (.sleep (OpI.of u f x))
  | 0xDE => some (.mflog (OpR.of u f x))
  | 0xDF => some (.trapR (OpR.of u f x))
  | _ => none

/-- The instruction of the word `w` after the EXT payloads `x` (R67, R74). -/
def decodeWord (x : List (BitVec 24)) (w : Word32) : Option Instr :=
  Instr.ofFields (w.extractLsb' 24 8).toNat (w.getLsbD 22) (w.extractLsb' 0 19) x

/-- The EXT word of a payload (R74). -/
def extWord (p : BitVec 24) : Word32 := (0x2E : BitVec 8) ++ p

/-- The words of an instruction with chain bit `c` and stall count `s` (R67, R74): its EXT words, then the host. A
step that no word encodes has no words. -/
def encode (c : Bool) (s : BitVec 3) (i : Instr) : List Word32 :=
  match i.opcode with
  | none => []
  | some op => i.fields.2.2.map extWord ++
      [op ++ BitVec.ofBool c ++ BitVec.ofBool i.fields.1 ++ s ++ i.fields.2.1]

/-- The instruction that a list of words holds: EXT words, then one host. -/
def decodeWords (x : List (BitVec 24)) : List Word32 → Option Instr
  | [] => none
  | w :: ws =>
    if w.extractLsb' 24 8 == 0x2E then decodeWords (x ++ [w.extractLsb' 0 24]) ws
    else if ws.isEmpty then decodeWord x w else none

/-- The instruction of a table word: one 32-bit word, the words after it being NOP (zero). -/
def decodeTableWord (nbits w : Nat) : Option Instr :=
  if nbits ≤ 32 then decodeWord [] (BitVec.ofNat 32 w) else none

/-! ### Pipes and reserved points. -/

/-- The pipes of a quadrant (R81). -/
inductive Pipe where
  | S | V | T | M | B | E
  deriving DecidableEq, Repr, Inhabited

/-- The pipe of an opcode (R81); NOP, EXT and dictionary words need none. -/
def opcodePipe (op : Nat) : Option Pipe :=
  if (0x01 ≤ op && op ≤ 0x1F) || op == 0x27 || (0x2B ≤ op && op ≤ 0x2D) || (0x70 ≤ op && op ≤ 0x76) ||
      op == 0x89 || op == 0x8A then some .S
  else if (0x20 ≤ op && op ≤ 0x26) || (0x28 ≤ op && op ≤ 0x2A) || (0xC8 ≤ op && op ≤ 0xD5) ||
      (0xD8 ≤ op && op ≤ 0xDF) then some .B
  else if (0x30 ≤ op && op ≤ 0x37) || (0x44 ≤ op && op ≤ 0x6F) then some .V
  else if 0x38 ≤ op && op ≤ 0x43 then some .T
  else if (0x80 ≤ op && op ≤ 0x98) || op == 0xA0 || op == 0xA1 then some .M
  else if (0xA2 ≤ op && op ≤ 0xA6) || (0xB0 ≤ op && op ≤ 0xB8) || (0xC0 ≤ op && op ≤ 0xC6) then some .E
  else none

/-- The points of the opcode map, reserved or not, for which the table of R81 allows U = 1: its two ranges of the V and T
pipes hold a reserved point each. -/
def uniformMap (op : Nat) : Bool := uniformOpcode op || op == 0x3F || op == 0x5F

/-- The reserved points of the opcode map, ascending (R79, R80). -/
def reservedPoints : List Nat :=
  [0x2F, 0x3F, 0x5F] ++ List.range' 0x77 9 ++ List.range' 0x99 7 ++ List.range' 0xA7 9 ++ List.range' 0xB9 7 ++
  [0xC7, 0xD6, 0xD7] ++ List.range' 0xE0 16

/-- The illegal-opcode cause of a reserved point: 0x040 plus its detail, the details running upward from 0x0A (R80). -/
def reservedCause (op : Nat) : Option (BitVec 10) :=
  match reservedPoints.findIdx? (· == op) with
  | some k => some (BitVec.ofNat 10 (0x04A + k))
  | none => none

/-- The control-transfer instructions (R73). -/
def controlOpcode (op : Nat) : Bool :=
  [0x20, 0x21, 0x22, 0x23, 0x24, 0x25, 0x26, 0x2A, 0xD8, 0xD9, 0xDC, 0xDF].contains op

/-! ### A packet. -/

/-- A word of the expanded packet (R72 step 1): its value after substitution, the position in the packet of the word
or dictionary word, where it comes from (0 the packet, 1 code A, 2 code B), and the fault of its expansion. -/
structure XWord where
  word : Word32
  pos : Nat
  src : Nat
  bad : Option (BitVec 10)
  deriving DecidableEq, Repr, Inhabited

/-- A decoded word of an issue group: its instruction, opcode, stall count and position, and the TRAPDATA that names it
as an encoding (R82). -/
structure DWord where
  instr : Instr
  op : Nat
  stall : Nat
  pos : Nat
  enc : Word64
  deriving DecidableEq, Repr, Inhabited

namespace XWord

/-- The opcode of an expanded word. -/
def op (x : XWord) : Nat := (x.word.extractLsb' 24 8).toNat

/-- Whether it is an EXT word of the packet; an entry that is an EXT is a faulty entry, not an EXT (R77). -/
def isExt (x : XWord) : Bool := x.op == 0x2E && x.bad.isNone

/-- The effective chain bit (R72 steps 1 and 2): EXT words have 1, a dictionary word without a dictionary has 0. -/
def chain (x : XWord) : Bool :=
  if x.isExt then true else if x.bad == some 0x044 then false else x.word.getLsbD 23

/-- The pipe that the word needs (R72 step 3, R81): a faulty entry, EXT and NOP need none; with U = 1 every other word needs
the S pipe, one with a reserved opcode too. -/
def pipe (x : XWord) : Option Pipe :=
  if x.bad.isSome || x.op == 0x2E || x.op == 0 then none
  else if x.word.getLsbD 22 then some .S
  else opcodePipe x.op

end XWord

/-- The entry that a code of a dictionary word selects, with the code's chain bit and stall count (R76). -/
def dictEntry (dict : List Word32) (code : BitVec 14) (pos src : Nat) : XWord :=
  let e := dict.getD (code.extractLsb' 0 10).toNat 0
  let w := e.extractLsb' 24 8 ++ BitVec.ofBool (code.getLsbD 13) ++ BitVec.ofBool (e.getLsbD 22) ++
    code.extractLsb' 10 3 ++ e.extractLsb' 0 19
  ⟨w, pos, src, if e.extractLsb' 24 8 == 0x2E || e.extractLsb' 28 4 == 0xF then some 0x045 else none⟩

/-- Expansion of one word of the packet (R72 step 1, R76, R77). -/
def expandWord (dict : Option (List Word32)) (pos : Nat) (w : Word32) : List XWord :=
  if w.extractLsb' 28 4 == 0xF then
    match dict with
    | none => [⟨w, pos, 0, some 0x044⟩]
    | some t => [dictEntry t (w.extractLsb' 14 14) pos 1, dictEntry t (w.extractLsb' 0 14) pos 2]
  else [⟨w, pos, 0, none⟩]

/-- The expanded packet: three to six words. -/
def expand (dict : Option (List Word32)) (w0 w1 w2 : Word32) : List XWord :=
  expandWord dict 0 w0 ++ expandWord dict 1 w1 ++ expandWord dict 2 w2

/-- Issue groups (R72 step 2): a group ends after each word whose effective chain is 0. -/
def groupsOf (acc : List XWord) : List XWord → List (List XWord)
  | [] => if acc.isEmpty then [] else [acc.reverse]
  | x :: xs => if x.chain then groupsOf (x :: acc) xs else (x :: acc).reverse :: groupsOf [] xs

/-- The pipe test of one group (R72 step 3): for each word, whether it first breaks the limit of three pipe words or
of one word a pipe. -/
def groupFaults (used : List Pipe) : List XWord → List Bool
  | [] => []
  | x :: xs =>
    match x.pipe with
    | none => false :: groupFaults used xs
    | some p =>
      (used.length == 3 || used.contains p) :: groupFaults (if used.contains p then used else p :: used) xs

/-- CHAIN_END (R72 step 2): the last word of the expanded packet has chain 1. -/
def chainEndFaults : List XWord → List Bool
  | [] => []
  | [x] => [x.chain]
  | _ :: xs => false :: chainEndFaults xs

/-- The EXT payloads that stand directly before a word, given the words before it, nearest first (R74). -/
def extRun : List XWord → List (BitVec 24)
  | [] => []
  | x :: xs => if x.isExt then extRun xs ++ [x.word.extractLsb' 0 24] else []

/-- The instruction of a word of the expanded packet, given the words before it, nearest first. A dictionary entry
takes no EXT (R74). -/
def XWord.instr (before : List XWord) (x : XWord) : Option Instr :=
  if x.bad.isSome then none else decodeWord (if x.src == 0 then extRun before else []) x.word

/-- The fault of the run of EXT words that starts at a word (R74): `after` are the words from that word on. The run
is misplaced at the end of the packet, before a dictionary word, a NOP, a host of format G or a reserved point, and too
long beyond the host's limit. -/
def extFault (n : Nat) : List XWord → Option (BitVec 10)
  | [] => some 0x040
  | x :: xs =>
    if x.isExt then extFault (n + 1) xs
    else if x.src != 0 || x.bad.isSome then some 0x040
    else match decodeWord [] x.word with
      | none => some 0x040
      | some i => match i.extLimit with
        | none => some 0x040
        | some k => if n ≤ k then none else some 0x041

/-- Whether a control-transfer word is followed by a word that is not a NOP (CTRL_POS, R73). -/
def ctrlFault (x : XWord) (after : List XWord) : Bool :=
  x.bad.isNone && controlOpcode x.op && after.any (fun y => y.op != 0 || y.bad.isSome)

/-- A NOP word of the packet with a bit other than zero; of a NOP from a dictionary entry the word tests check U and the
operand bits (R70). -/
def nopFault (x : XWord) : Bool :=
  x.src == 0 && x.bad.isNone && x.op == 0 && x.word.extractLsb' 0 24 != 0

/-- Whether an EXT word names in CREG a vector register that the warp does not have (R71): the word holds the field. -/
def cregFault (regs : Nat) (before : List XWord) (x : XWord) (after : List XWord) : Bool :=
  x.isExt && match after.head?.bind (XWord.instr (x :: before)) with
    | some i => !i.cregs.all (· < regs)
    | none => false

/-- The causes of one word (R72 step 4), the pipe test and the chain test included; `before` nearest first. -/
def xwordCauses (regs : Nat) (tiles : BitVec 4) (before : List XWord) (x : XWord) (after : List XWord)
    (group chainEnd : Bool) : List (BitVec 10) :=
  let test (bad : Bool) (c : BitVec 10) : List (BitVec 10) := if bad then [c] else []
  (if x.isExt && (before.isEmpty || !(before.headD default).isExt) then (extFault 0 (x :: after)).toList else []) ++
  test chainEnd 0x042 ++ test group 0x043 ++ x.bad.toList ++ test (nopFault x) 0x046 ++
  test (ctrlFault x after) 0x049 ++ test (cregFault regs before x after) 0x080 ++
  (if x.isExt || x.bad.isSome then [] else
    match x.instr before with
    | none => test (x.word.getLsbD 22 && !uniformMap x.op) 0x048 ++ (reservedCause x.op).toList
    | some i => i.wordCauses regs tiles)

/-- The lowest cause of a list. -/
def minCause : List (BitVec 10) → Option (BitVec 10)
  | [] => none
  | c :: cs => match minCause cs with
    | none => some c
    | some c' => some (if c ≤ c' then c else c')

/-- A decode fault: the cause and TRAPDATA for encoding causes (R82). -/
structure DecodeFault where
  cause : BitVec 10
  data : Word64
  deriving DecidableEq, Repr, Inhabited

/-- TRAPDATA for encoding causes: WORD, POS and FROM (R82). -/
def encodingData (x : XWord) : Word64 := BitVec.ofNat 64 (x.word.toNat + x.pos * 2 ^ 32 + x.src * 2 ^ 34)

/-- TRAPDATA of a cause of a word (R82, R83, R145, R185). -/
def faultData (before : List XWord) (x : XWord) (c : BitVec 10) : Word64 :=
  match (x.instr before).bind (fun i => i.operandData c) with
  | some d => d
  | none => encodingData x

/-- The fault of the earliest failing word of the expanded packet (R72). -/
def firstFault (regs : Nat) (tiles : BitVec 4) (before : List XWord) :
    List XWord → List Bool → List Bool → Option DecodeFault
  | [], _, _ => none
  | x :: xs, gs, cs =>
    match minCause (xwordCauses regs tiles before x xs (gs.headD false) (cs.headD false)) with
    | some c => some ⟨c, faultData before x c⟩
    | none => firstFault regs tiles (x :: before) xs gs.tail cs.tail

/-- The decoded words of one group, EXT words taken into their hosts. -/
def groupWords (before : List XWord) : List XWord → List DWord
  | [] => []
  | x :: xs =>
    if x.isExt then groupWords (x :: before) xs
    else match x.instr before with
      | none => groupWords (x :: before) xs
      | some i => ⟨i, x.op, (x.word.extractLsb' 19 3).toNat, x.pos, encodingData x⟩ :: groupWords (x :: before) xs

/-- Decoding of a packet (R72): its issue groups, or the one fault that is reported. -/
def decodePacket (regs : Nat) (tiles : BitVec 4) (dict : Option (List Word32)) (w0 w1 w2 : Word32) :
    Except DecodeFault (List (List DWord)) :=
  let xs := expand dict w0 w1 w2
  let gs := groupsOf [] xs
  match firstFault regs tiles [] xs (gs.flatMap (groupFaults [])) (chainEndFaults xs) with
  | some f => .error f
  | none => .ok (gs.map (groupWords []))

end Sys2Proof
end

