-- ==== Sys2Proof/Machine/State.lean ====
section
/-! DEFINITION. The state of the module as plain data: every piece of architectural state that the spec names, and the
little that the model needs to say who moves next. The reset value of a field is its default. -/

namespace Sys2Proof.Machine

/-- A finite table: key and value pairs in rising key order. A key that is absent stands for the default that the
reader of the table names. -/
abbrev Tab (α : Type) := List (Nat × α)

/-- Memory: address and byte pairs, addresses strictly rising, no byte equal to what an unlisted address reads as. -/
abbrev Memory := List Host.Cell

/-! ### Registers. -/

/-- The format tags of a vector lane (R142). -/
inductive Tag where
  | x32 | i32 | n32 | f32 | f64l | f64h | bf16x2 | h16x2 | e4m3x4 | i16x2 | i8x4 | cpx32 | empty
  deriving DecidableEq, Repr, Inhabited

/-- One lane of a vector register (R142); at placement it holds 0, EMPTY (R58). -/
structure Lane where
  val : Word32 := 0
  tag : Tag := .empty
  deriving DecidableEq, Repr, Inhabited

/-- The class of a page in its home directory (R201). -/
inductive PageClass where
  | untouched
  | priv (p : Party)
  | readOnly (ps : List Party)
  | shared
  deriving DecidableEq, Repr, Inhabited

/-- The class that a core's TLB entry or base register records (R205). -/
inductive SeenClass where
  | unknown | priv | readOnly | shared
  deriving DecidableEq, Repr, Inhabited

/-- A leaf, or the piece of a 2 MiB leaf (`big`), for 64 KiB: the frame's physical address and the attributes of R194. -/
structure Leaf where
  pa : Nat := 0
  big : Bool := false
  w : Bool := false
  x : Bool := false
  cls : Nat := 0
  cnt : Bool := false
  peer : Bool := false
  mt : Nat := 0
  imp : Nat := 0
  ipage : Nat := 0
  deriving DecidableEq, Repr, Inhabited

/-- A TLB entry (R205, R208). -/
structure TlbEntry where
  leaf : Leaf := {}
  seen : SeenClass := .unknown
  deriving DecidableEq, Repr, Inhabited

/-- A base translation register (R206), `pages` the CLS field of each page of its run and whether a 2 MiB leaf maps it; never
filled, it has VBASE 0 and LIMIT 0 (R58, R216). -/
structure BaseReg where
  vbase : Word64 := 0
  frame : Nat := 0
  limit : Nat := 0
  seen : SeenClass := .unknown
  w : Bool := false
  x : Bool := false
  pages : List (Nat × Bool) := []
  cnt : Bool := false
  mt : Nat := 0
  deriving DecidableEq, Repr, Inhabited

/-- A write of a register of a warp. A mask write replaces the bits of `lanes`. -/
inductive RegWrite where
  | s (r : Nat) (v : Word64)
  | v (r lane : Nat) (x : Lane)
  | k (r : Nat) (lanes bits : BitVec 32)
  | b (r : Nat) (x : BaseReg)
  | g (r : Nat) (x : Word32)
  | h (r : Nat) (x : Option (List Word64))
  | spr (n : Nat) (x : Word64)
  deriving DecidableEq, Repr, Inhabited

/-- A write that has been issued and completes in cycle `due` (R95, R97); `lock` marks the result of an interlocked word,
whose register is pending until then (R98). -/
structure Pending where
  due : Nat
  issue : Nat
  pos : Nat
  write : RegWrite
  lock : Bool := false
  deriving DecidableEq, Repr, Inhabited

/-! ### Fragments and warps. -/

/-- Where a waiter is registered with the home of its count word (R340). -/
inductive WaitReg where
  | watch | bcast | unlisted
  deriving DecidableEq, Repr, Inhabited

/-- A hold on an upcall entry (R211, R212): the device and entry, the page as the access names it, the cause that a
failure of the pager gives the access, and its TRAPDATA; `add` marks the count-word add of an engine item, by number. -/
structure Held where
  dev : Nat
  entry : Nat
  page : Nat
  cause : BitVec 10
  data : Word64 := 0
  add : Option Nat := none
  deriving DecidableEq, Repr, Inhabited

/-- Why a fragment issues nothing (R91). -/
inductive Park where
  | none
  | join (since : Nat)                        -- at the join of its innermost token (R104)
  | busy                                      -- its memory instruction has accesses still to make
  | pager (h : Held)                          -- held on an upcall entry (R211, R212)
  | reclass (page : Nat)                      -- held by a class change of the page (R204)
  | logFull (page : Nat)                      -- its accesses find too few side-log entries (R213)
  | count (va pa target d : Nat) (reg : WaitReg) (entry : Bool) (since : Nat)  -- CWWAIT (R342)
  | remoteCount (va target d since : Nat)     -- CWWAIT through a peer window (R339)
  | barrier (d : Nat)                         -- arrived at GBAR, GVOTE or GRED (R348)
  | arriveHeld                                -- its warp's arrival in the open phase must end first (R348)
  | ring (ofs d : Nat)                        -- RWAIT (R237)
  | sleep (t n : Nat)                         -- SLEEP (R375)
  | peer (req : Nat)                          -- waits for another module (R253)
  | host (lane : Nat)                         -- waits for a host completion (R262)
  deriving DecidableEq, Repr, Inhabited

/-- What one access of a memory instruction asks for: its lane (or a number that names it), its address, in scratch or
not, and the operation. `via` is the translation of a base register that covers the address (R207), `told` the address
that a fault reports where it is not `va`, `pg` names its page in the order of R219. -/
structure LaneReq where
  lane : Nat
  va : Nat
  op : MemOp
  via : Option TlbEntry := none
  scr : Bool := false
  told : Option Nat := none
  pg : Nat := 0
  deriving DecidableEq, Repr, Inhabited

/-- How far a tree instruction has come: the next access of the engine, with what it needs (R309, R312 to R317). In
`expFree` a block is freed in three accesses, `k` of them made, and `after` is the trap that follows. -/
inductive TreeStage where
  | bindOwn (rec ctx : Nat)
  | unbindOwn (ctx : Nat)
  | descRoot (slot : Nat)
  | descNode (slot x : Nat)
  | descKids (slot n child nch : Nat)
  | descEntry (slot act : Nat)
  | descWrite (slot act tail : Nat)
  | descTail (slot tail : Nat)
  | descCount (slot : Nat)
  | descFull (slot : Nat)
  | undo (slot j : Nat) (pend : Bool) (cause : BitVec 10) (data : Word64)
  | leafRing
  | leafEntry (head : Nat)
  | leafHead (head e : Nat)
  | expTerm
  | expAlloc
  | expHead (gen head : Nat)
  | expTake (gen blk off v : Nat)
  | expNodes (blk gen i : Nat)
  | expLink (blk : Nat)
  | expFree (blk : Nat) (after : Option (BitVec 10 × Word64)) (k head : Nat)
  | expUndo (j : Nat)
  | expRedo (j : Nat) (cause : BitVec 10) (data : Word64)
  | expPend
  | back
  | rootNode (p : Nat)
  | rootProbe (child nch : Nat)
  | rootSwap (child nch : Nat)
  | rootParent (child nch ob og : Nat)
  deriving DecidableEq, Repr, Inhabited

/-- A memory instruction in progress (R219, R220, R295): its access type, what it keeps over a trap, the accesses still
to make, the values that the made ones returned, and the lanes that are done. `logs` marks accesses that may retire
into the side log, `commits` stores, `single` one access for all lanes, `plain` TRAPDATA without a lane, `free`
accesses that the order of pages does not bind, `old` the register and tag of an ATM's old values, `step` the MP of a
matrix word, `strict` one that has touched a SHARED or unclassified page, `drains` the pages whose class change waits for its
accesses (R204), `tree` the stage of a tree word, `whole` the accesses that all begin again after a pager's hold (R289), `pool` the
writes of an MST behind `reqs` once they are not taken row by row (R300), `fault` a trap that only waits for outstanding answers. -/
structure Flight where
  type : Nat := 0
  keep : Bool := false
  logs : Bool := false
  commits : Bool := false
  single : Bool := false
  plain : Bool := false
  free : Bool := false
  old : Option (Nat × Tag) := none
  step : Option Nat := none
  strict : Bool := false
  drains : List Nat := []
  tree : Option TreeStage := none
  whole : List LaneReq := []
  pool : Option (List LaneReq) := none
  reqs : List LaneReq := []
  got : Tab Nat := []
  done : BitVec 32 := 0
  fault : Option (BitVec 10 × Word64) := none
  deriving DecidableEq, Repr, Inhabited

/-- A fragment (R102), with the packet it is working on. `stopped` names the handler level that stops it, and `again`
marks one whose issued word meets a trap while it is stopped: the word goes on once the fragment may issue again. `waiting` keeps the
registration of a wait on a count word while a re-read of it is held (R342). -/
structure Frag where
  mask : BitVec 32 := 0
  pc : Word64 := 0
  arrived : Word64 := 0
  stamp : Nat := 0
  nextIssue : Nat := 0
  token : Option Nat := none
  decoded : Bool := false
  groups : List (List DWord) := []
  groupNo : Nat := 0
  startGroup : Nat := 0
  target : Option Word64 := none
  words : List DWord := []
  issued : Nat := 0
  flight : Option Flight := none
  brvWait : Bool := false
  failed : Option Held := none
  park : Park := .none
  waiting : Park := .none
  parkedAt : Nat := 0
  stopped : Option Nat := none
  again : Bool := false
  deriving DecidableEq, Repr, Inhabited

/-- A reconvergence token (R103). -/
structure Token where
  addr : Word64 := 0
  expect : BitVec 32 := 0
  outer : Option Nat := none
  deriving DecidableEq, Repr, Inhabited

/-- The hidden state of one handler level (R359). -/
structure Hidden where
  mask : BitVec 32 := 0
  token : Option Nat := none
  group : Nat := 0
  decodeFault : Bool := false
  trapPc : Word64 := 0
  later : Bool := false
  stopped : List Nat := []
  tokens : List Nat := []
  deriving DecidableEq, Repr, Inhabited

/-- Progress kept over a trap: the lanes done (DMASK, R220) or steps done (MP, R295) of the instruction at a packet
address and word position, whether it is an MST, and whether a TRET has resumed at it. -/
structure Progress where
  dmask : BitVec 32 := 0
  mp : Nat := 0
  mst : Bool := false
  pc : Word64 := 0
  pos : Nat := 0
  armed : Bool := false
  deriving DecidableEq, Repr, Inhabited

/-- A region mark (R366): where the warp resumes, with which lanes and saved registers; `none` is placement. -/
structure Mark where
  pc : Word64 := 0
  mask : BitVec 32 := 0
  save : Word64 := 0
  deriving DecidableEq, Repr, Inhabited

/-- A warp in its slot. `memq` are its memory instructions whose answers are still to come (R202): the cycle in which the
answer stands, and whether the instruction touches a SHARED or unclassified page. -/
structure Warp where
  wg : Nat := 0
  warpId : Nat := 0
  sregs : Tab Word64 := []
  vregs : Tab Lane := []
  kregs : Tab (BitVec 32) := []
  bregs : Tab BaseReg := []
  gregs : Tab Word32 := []
  hregs : Tab (Option (List Word64)) := []
  pend : List Pending := []
  trapCause : BitVec 10 := 0
  trapPc : Word64 := 0
  trapData : Word64 := 0
  frags : Tab Frag := []
  tokens : Tab Token := []
  exited : BitVec 32 := 0
  xst : Nat := 0
  hidden : List Hidden := []
  progress : Progress := {}
  mcfg : Option (Word64 × Word64) := none
  mark : Option Mark := none
  committed : Bool := false
  kept : Bool := false
  heldCycles : Nat := 0
  restoring : List (Nat × Nat) := []
  debugParked : Option (BitVec 32) := none
  memq : List (Nat × Bool) := []
  deriving DecidableEq, Repr, Inhabited

/-! ### Groups (R344). -/

/-- What an arrival brings to a phase (R348): GBAR, GVOTE, or GRED with its operation and rounding mode. -/
inductive ArriveKind where
  | bar | vote | red (xm : Nat) (rm : BitVec 2)
  deriving DecidableEq, Repr, Inhabited

/-- A group member: a warp of a unit, which keeps its membership while pre-empted (R347). -/
structure Member where
  task : Nat
  linear : Nat
  warpId : Nat
  deriving DecidableEq, Repr, Inhabited

/-- An arrival at the open phase: the member, the fragment and destination register that wait, and the
contribution. -/
structure Arrival where
  who : Member
  core : Nat
  slot : Nat
  frag : Nat
  d : Nat
  value : Word64
  deriving DecidableEq, Repr, Inhabited

/-- The phase of a group: completed barriers, the kind of the open phase and its arrivals, its first arrival's cycle, whether a
departure has counted as an arrival of it, and whether the watchdog has reported it (R344, R347, R348, R352). -/
structure Phase where
  count : Nat := 0
  kind : Option ArriveKind := none
  arrivals : List Arrival := []
  since : Option Nat := none
  departed : Bool := false
  reported : Bool := false
  deriving DecidableEq, Repr, Inhabited

/-- An entry of the group table (R344). -/
structure Group where
  gen : Nat := 0
  live : Bool := false
  dev : Nat := 0
  shared : Bool := false
  members : List Member := []
  phase : Phase := {}
  faulted : Nat := 0
  deriving DecidableEq, Repr, Inhabited

/-! ### Workgroups and cores. -/

/-- A resident workgroup in its entry (R45, R51); `tileOps` holds the cycle and quadrant of the latest operation on each
tile (R286). -/
structure Workgroup where
  task : Nat := 0
  unit : Nat := 0
  linear : Nat := 0
  wgx : Nat := 0
  wgy : Nat := 0
  wgz : Nat := 0
  rank : Nat := 0
  rplc : Nat := 0
  slots : List Nat := []
  csl : List Nat := []
  scratch : Memory := []
  touched : List Nat := []
  pinned : List Nat := []
  backing : List Nat := []
  tiles : Tab (List Word32) := []
  scales : Tab (List Word32) := []
  keeper : Tab Nat := []
  written : List Nat := []
  tileOps : Tab (Nat × Nat) := []
  preempt : Option Nat := none
  broken : Option (BitVec 10) := none
  deriving DecidableEq, Repr, Inhabited

/-- The geometry record of a copy (R28): BASE, ESIZE, RANK, PAD, PADWORD, extents and strides. -/
structure Shape where
  base : Int := 0
  esize : Nat := 0
  rank : Nat := 0
  pad : Nat := 0
  padWord : Word32 := 0
  ext : List Nat := []
  str : List Int := []
  deriving DecidableEq, Repr, Inhabited

/-- A multicast delivery item (R277, R278): its landing handle, the elements written, and whether it has ended. -/
structure McItem where
  handle : Word64 := 0
  done : List Nat := []
  ended : Bool := false
  deriving DecidableEq, Repr, Inhabited

/-- An occupied copy slot (R264): its own copy of everything that the copy needs, the iteration extents, the values
read and not yet written, the first line pieces of elements read so far (`part`), the elements done (all below `next`, and those of `done`), the one whose
first line piece is written, with the leaf of the second (`half`), and the upcall that holds it. `linear` is the issuing workgroup's index, which a pre-emption does not change. -/
structure Copy where
  src : Shape := {}
  dst : Shape := {}
  origin : List Nat := []
  odst : Bool := false
  srcScr : Bool := false
  dstScr : Bool := false
  cw : Word64 := 0
  it : List Nat := []
  buf : Tab Nat := []
  part : Tab Nat := []
  next : Nat := 0
  done : List Nat := []
  half : Tab Leaf := []
  wg : Option Nat := none
  rplc : Nat := 0
  task : Nat := 0
  linear : Nat := 0
  items : List McItem := []
  held : Option Held := none
  failed : Option (BitVec 10 × Word64) := none
  isTask : Bool := false
  deriving DecidableEq, Repr, Inhabited

/-- A queued shuffle (R281), with the values read and not yet written, the elements done, and the error that ended it. -/
structure Shuffle where
  wg : Nat := 0
  rplc : Nat := 0
  task : Nat := 0
  n : Nat := 0
  e : Nat := 0
  steps : List Word64 := []
  dofs : Nat := 0
  sofs : Nat := 0
  cw : Word64 := 0
  buf : Tab Nat := []
  next : Nat := 0
  done : List Nat := []
  held : Option Held := none
  failed : Option (BitVec 10 × Word64) := none
  deriving DecidableEq, Repr, Inhabited

/-- A logged store or reduction (R213): its task, address and operation; `fresh` marks one that takes an entry of its
own, another lane's store to the same line sharing the entry of the first. -/
structure LogEntry where
  task : Nat
  va : Nat
  op : MemOp
  fresh : Bool
  deriving DecidableEq, Repr, Inhabited

/-- A quadrant (R92, R94). Its rotating pointer starts at slot 0: R92 gives no first place (log 80). -/
structure Quad where
  ptr : Nat := 0
  lastIssue : Option Nat := none
  busy : Tab Nat := []
  splits : Tab Nat := []
  deriving DecidableEq, Repr, Inhabited

/-- A walk on its way (R208, R320): the page, the table whose entry is read next, and the index shifts still to take; `found` is
the leaf that the walk of a party without a TLB has come to. -/
structure WalkJob where
  page : Nat := 0
  table : Nat := 0
  levels : List Nat := []
  found : Option Leaf := none
  deriving DecidableEq, Repr, Inhabited

/-- A core (R51): what is resident on it and its shared structures. `l1` are the lines of which its L1 holds a copy, each
with whether the core owns the line (R192, R203); `walks` are its TLB misses in flight. -/
structure Core where
  wgs : Tab Workgroup := []
  warps : Tab Warp := []
  quads : Tab Quad := []
  tlb : Tab TlbEntry := []
  l1 : Tab Bool := []
  walks : List WalkJob := []
  icache : Tab Word32 := []
  copies : Tab Copy := []
  copyPtr : Nat := 0
  shuffles : List Shuffle := []
  sideLog : List LogEntry := []
  placements : Nat := 0
  wakes : List Nat := []
  retired : Bool := false
  deriving DecidableEq, Repr, Inhabited

/-! ### Tasks and queues. -/

/-- A kernel descriptor (R24). -/
structure Desc where
  code : Nat := 0
  dict : Nat := 0
  trapIdx : Nat := 0xFFFFFFFF
  codeLen : Nat := 0
  frame : Nat := 0
  regs : Nat := 1
  warps : Nat := 1
  scratch : Nat := 0
  tiles : BitVec 4 := 0
  persist : BitVec 4 := 0
  check : Bool := false
  cslots : Nat := 0
  kid : Word64 := 0
  deriving DecidableEq, Repr, Inhabited

/-- How far a task has come: in a held-task slot, eligible, dispatched, or done and waiting to complete. -/
inductive TaskPhase where
  | held | eligible | running | ending
  deriving DecidableEq, Repr, Inhabited

/-- A task from its intake to its retirement (R14, R22). `hold` is the upcall entry on which its dispatch or its SIGNAL add is
held; entry 64 stands for one that has still to be free (R211). `entries` holds the sequence of the latest event-log entry written
for each of its warps, by 32 times the workgroup's linear index plus the warp (R376). -/
structure Task where
  dev : Nat := 0
  queue : Nat := 0
  index : Nat := 0
  era : Nat := 0
  words : List Word64 := []
  seq : Word64 := 0
  status : Nat := 0
  detail : Nat := 0
  phase : TaskPhase := .held
  order : Nat := 0
  since : Nat := 0
  desc : Desc := {}
  descAddr : Nat := 0
  dict : Option (List Word32) := none
  argBase : Word64 := 0
  hold : Option Held := none
  refused : Option Nat := none
  nextUnit : Nat := 0
  units : Nat := 0
  left : Nat := 0
  xst : Nat := 0
  fault : Option (Nat × BitVec 10) := none
  events : Nat := 0
  entries : Tab Nat := []
  kid : Word64 := 0
  alive : Tab (List Nat) := []
  wgPhase : Tab Phase := []
  gangPhase : Tab Phase := []
  deriving DecidableEq, Repr, Inhabited

/-- A held-task slot (R20); `task` is the task it holds. -/
structure HeldSlot where
  gen : Nat := 0
  early : Nat := 0
  failed : Bool := false
  rem : Nat := 0
  task : Option Nat := none
  deriving DecidableEq, Repr, Inhabited

/-- A queue register block (R32), its interrupt register (R380) and the frames fixed when it was enabled (R33). `era` counts the
enables: a slot index belongs to the one in which its packet was taken. -/
structure Queue where
  qbase : Nat := 0
  slog : Nat := 0
  clog : Nat := 0
  en : Bool := false
  src : Bool := false
  qtail : Nat := 0
  qhead : Nat := 0
  qret : Nat := 0
  qnextseq : Nat := 0
  qcbase : Nat := 0
  qctail : Nat := 0
  qchead : Nat := 0
  qcseq : Nat := 0
  ovf : Bool := false
  seqerr : Bool := false
  ign : Bool := false
  cfgerr : Bool := false
  taken : Nat := 0
  era : Nat := 0
  retiredIdx : List Nat := []
  ringFrames : List Nat := []
  recFrames : List Nat := []
  ivec : Nat := 0
  ien : Bool := false
  icoal : Nat := 0
  unsignalled : Nat := 0
  oldest : Nat := 0
  deriving DecidableEq, Repr, Inhabited

/-- A warp of a pre-empted unit: its mark, exited lanes and status (R368, R370). -/
structure SavedWarp where
  warpId : Nat := 0
  mark : Option Mark := none
  exited : BitVec 32 := 0
  xst : Nat := 0
  alive : Bool := true
  deriving DecidableEq, Repr, Inhabited

/-- A workgroup of a pre-empted unit: its place in the grid, its warps, backing and touched pages (R368). -/
structure SavedWg where
  wg : Workgroup := {}
  warps : List SavedWarp := []
  deriving DecidableEq, Repr, Inhabited

/-- A pre-empted unit waiting for its restoration (R55, R368). -/
structure SavedUnit where
  task : Nat := 0
  unit : Nat := 0
  wgs : List SavedWg := []
  deriving DecidableEq, Repr, Inhabited

/-- A reservation of the dispatcher (R56): the unit, its target cores and the cycle from which it waits. -/
structure Reservation where
  task : Nat := 0
  unit : Nat := 0
  cores : List Nat := []
  since : Nat := 0
  deriving DecidableEq, Repr, Inhabited

/-- An entry of the upcall buffer (R211), with the queue, the priority and the descriptor address that its pager's entry gave when
it was taken, and the task and the warp whose access took it (R376). -/
structure Upcall where
  page : Nat := 0
  va : Word64 := 0
  type : Nat := 0
  core : Nat := 0
  pgr : Nat := 0
  owner : Option Nat := none
  queue : Nat := 0
  prio : Nat := 0
  desc : Nat := 0
  task : Option Nat := none
  who : Option Member := none
  posted : Bool := false
  deriving DecidableEq, Repr, Inhabited

/-- Who waits for an answer or for a class change: a lane of a fragment; slot 0 to 31 of a core for its copies, 32 for the
shuffle that runs; slot 1000 + t of core 0 for the add of SIGNAL task t; for a core from 192 on, a reclaim walk of die core − 192 by
its context, a command (slots 0 to 3) or the dispatcher (4 to 7) of a die, at 196, the host's accesses through a function, at 197,
and what another module asks for, at 198. Any other number is that of an item that waits for nothing by name. -/
inductive Waiter where
  | lane (f : FragRef) (lane : Nat)
  | engine (core slot : Nat)
  deriving DecidableEq, Repr, Inhabited

/-- A class change (R204): the parties still to acknowledge, the class that the page takes, whether the reclassification
point has come, and who waits for it, in arrival order. -/
structure Reclass where
  awaiting : List Party := []
  new : PageClass := .shared
  made : Bool := false
  queue : List Waiter := []
  deriving DecidableEq, Repr, Inhabited

/-- The waiters on the count words of one slice (R340): watch list (word, cores and count), broadcast list and unlisted
counter. -/
structure Watch where
  watch : Tab (List Nat × Nat) := []
  bcast : Tab Nat := []
  unlisted : Nat := 0
  deriving DecidableEq, Repr, Inhabited

/-- A bound tree's context on a Spinel engine (R307, R308): the descriptor's address, its snapshot, the reclaim walk
that is running (the nodes to visit and the blocks to free, in order) with how many of the accesses of its next free it has made,
and who allocates, frees or appends, by fragment or, from core 192 on, the walk (R304); a context that is not bound is so kept for
the TSBIND that is to take it. -/
structure TreeCtx where
  gen : Nat := 0
  bound : Bool := false
  addr : Nat := 0
  pool : Nat := 0
  nodes : Nat := 0
  c : Word32 := 0
  vlv : Word32 := 0
  fpu : Word32 := 0
  rlog : Nat := 0
  rbase : Nat := 0
  rcw : Word64 := 0
  walk : Option (List (Nat × Nat × Bool)) := none
  freeing : Option (Nat × Nat) := none
  held : Option Held := none
  task : Nat := 0
  lock : Option (Nat × Nat × Nat) := none
  deriving DecidableEq, Repr, Inhabited

/-- A path slot of a Spinel engine (R311). -/
structure PathSlot where
  gen : Nat := 0
  held : Bool := false
  ctx : Nat := 0
  path : List Nat := []
  status : Nat := 0
  progress : Option Nat := none
  deriving DecidableEq, Repr, Inhabited

/-- A Spinel engine. -/
structure Spinel where
  ctxs : Tab TreeCtx := []
  slots : Tab PathSlot := []
  deriving DecidableEq, Repr, Inhabited

/-- A management or mailbox command as it was started (R392, R394): what the host writes into the argument registers afterwards is
for the next one (log 93). -/
structure Command where
  op : Nat := 0
  va : Nat := 0
  len : Nat := 0
  arg : Nat := 0
  deriving DecidableEq, Repr, Inhabited

/-- A logical device (R2): the registers of its control window and the structures that CT keeps for it. `preq` are the
units, by task and first workgroup, that requests of R371 name and that are neither saved nor over: PGO reads 1 while there
is one. `auto` is the unit of the latest automatic request (R371). `walking` are the walks on their way of the parties without a
TLB. -/
structure Device where
  queues : Tab Queue := []
  rr : Nat := 0
  lastIntake : Option Nat := none
  held : Tab HeldSlot := []
  htsel : Nat := 0
  agesh : Nat := 16
  ageen : Bool := true
  stall : Nat := 0x01000000
  inserv : BitVec 48 := BitVec.allOnes 48
  ndead : Nat := 0
  reserv : Option Reservation := none
  auto : Option (Nat × Nat) := none
  preempted : List SavedUnit := []
  order : Nat := 0
  ptroot : Nat := 0
  pgtbase : Nat := 0
  pgtn : Nat := 0
  sbbase : Nat := 0
  sbpages : Nat := 0
  walks : Nat := 0
  walking : List WalkJob := []
  backingUsed : List Nat := []
  upcalls : Tab Upcall := []
  upcallGen : Tab Nat := []
  watch : Tab Watch := []
  gtmo : Nat := 0x4000
  gnone : Nat := 0
  bcast : Nat := 0
  sleeps : Nat := 0
  apbase : Nat := 0
  indrop : Nat := 0
  quanta : List Nat := [32, 160, 96, 96, 16, 32, 16]
  pdl : Nat := 0x800
  pcore : Nat := 0
  pwg : Nat := 0
  preq : List (Nat × Nat) := []
  perr : Bool := false
  pthr : Nat := 7
  pauto : Bool := false
  pdone : Nat := 0
  pkill : Nat := 0
  dhalt : Bool := false
  haltAt : Nat := 0
  haltCycles : Nat := 0
  dbgen : Bool := false
  dcmd : Word64 := 0
  ddata : Word64 := 0
  derr : Bool := false
  mop : Nat := 0
  mgo : Bool := false
  mst : Nat := 0
  mva : Nat := 0
  mlen : Nat := 0
  marg : Nat := 0
  mcmd : Command := {}
  clockBase : Nat := 0
  spinel : Spinel := {}
  drst : Bool := false
  drstAt : Nat := 0
  deriving DecidableEq, Repr, Inhabited

/-! ### CT and IO. -/

/-- The module block (R381, R393) and the security root (R389, R394). -/
structure Module where
  elbase : Nat := 0
  ellog : Nat := 0
  elen : Bool := false
  elvec : Nat := 0
  elien : Bool := false
  elseq : Nat := 0
  eltail : Nat := 0
  elhead : Nat := 0
  ellost : Nat := 0
  keptEvents : List (List Word64 × Option Nat × Option Member) := []
  plim : Nat := 2100
  clkMhz : Nat := 1400
  throt : Bool := false
  scrubp : Nat := 24
  cethr : Nat := 64
  ready : Bool := false
  recovery : Bool := false
  slot : Bool := false
  rollback : Nat := 0
  fwver : Nat := 0
  mbcmd : Nat := 0
  mbgo : Bool := false
  mbst : Nat := 0
  mbaddr : Nat := 0
  mblen : Nat := 0
  mbrun : Command := {}
  nonce : List Byte := []
  report : List Byte := []
  fatal : Option (BitVec 10) := none
  deriving DecidableEq, Repr, Inhabited

/-- What no reset clears (R386): the fused counter, once raised, and the flash slots, once written. `none` in a slot
is an image that a failed write has lost; a slot not listed holds what the module was shipped with. -/
structure Fuses where
  counter : Option (BitVec 16) := none
  flash : Tab (Option (List Byte)) := []
  deriving DecidableEq, Repr, Inhabited

/-- A packet on its way out of a port (R249): its flits, those that it has sent, and the peer request that it carries. -/
structure OutPacket where
  cls : Nat := 0
  flits : List (BitVec 256) := []
  sent : Nat := 0
  req : Option Nat := none
  deriving DecidableEq, Repr, Inhabited

/-- An Abian port (R249 to R252): `out` are the packets that it has still to send or is sending; `credit` and `owed`, of the
control, urgent and bulk classes, the link flits that it may send and those to return to its partner; `passed` the slots in
which urgent and bulk packets were passed over (R244); `nacked` says that the receiver has asked for the flit that it
expects (R250). -/
structure Port where
  en : Bool := false
  force : Bool := false
  state : Nat := 0
  downev : Bool := false
  peermod : Nat := 0
  peerport : Nat := 0
  crcerr : Nat := 0
  retrains : Nat := 0
  replays : Nat := 0
  longest : Nat := 0
  sendSeq : Nat := 0
  expectSeq : Nat := 0
  nacked : Bool := false
  replay : List LinkFlit := []
  noProgress : Nat := 0
  retrainAt : Nat := 0
  open_ : Tab (List (BitVec 256)) := []
  out : List OutPacket := []
  credit : List Nat := [0, 0, 0]
  owed : List Nat := [0, 0, 0]
  passed : Nat × Nat := (0, 0)
  deriving DecidableEq, Repr, Inhabited

/-- An import entry (R199). -/
structure Import where
  rbase : Nat := 0
  rmod : Nat := 0
  rdev : Nat := 0
  wr : Bool := false
  v : Bool := false
  rlen : Nat := 0
  deriving DecidableEq, Repr, Inhabited

/-- A request to another module (R253): its target, tag, port, and what has come back; `confirmed` marks one of which the target has
said that it never will be performed (R254, R255). -/
structure PeerReq where
  dev : Nat := 0
  rmod : Nat := 0
  rdev : Nat := 0
  va : Nat := 0
  type : Nat := 0
  op : MemOp := .read 1
  host : Bool := false
  tag : Option Nat := none
  port : Option Nat := none
  sent : Nat := 0
  cancelling : Bool := false
  waiter : Waiter := .engine 192 0
  result : Option PeerResult := none
  down : Bool := false
  again : Bool := false
  confirmed : Bool := false
  deriving DecidableEq, Repr, Inhabited

/-- What a target keeps for one source logical device (R254), for each of its own devices: of the 256 latest tags, up to
`latest`, those performed, with whether the request returns a value, and those cancelled. -/
structure Seen where
  latest : Option Nat := none
  performed : List (Nat × Bool) := []
  cancelled : List Nat := []
  deriving DecidableEq, Repr, Inhabited

/-- An inbound write, as the line pieces still to place: whether a piece of it has been refused, and the pages whose class change
waits for it (R259, R260). -/
structure Inbound where
  fn : Nat
  requester : Nat
  pieces : List (Nat × List Byte)
  dropped : Bool := false
  drains : List Nat := []
  deriving DecidableEq, Repr, Inhabited

/-- An inbound read under way (R260): the aperture address and length that name it, the line pieces still to read, and what has
been read. -/
structure Reading where
  fn : Nat
  requester : Nat
  va : Nat
  len : Nat
  pieces : List (Nat × Nat)
  got : List Byte := []
  deriving DecidableEq, Repr, Inhabited

/-- What the module has sent out: an MSI-X message, an AER error, a signal to the management controller or the debug
port, a completion of an inbound read, a cancel, a peer response or a link flit; `failed` reports a packet that a port that went
down had not sent whole to its source, with the peer request that it carries (R251), `byte` is what the debug port has read. -/
inductive Output where
  | msix (fn vec : Nat)
  | aer (fn : Nat)
  | management (cause : BitVec 10)
  | debug (core slot : Nat)
  | readData (fn : Nat) (data : Option (List Byte))
  | readAbort (fn : Nat)
  | cancel (req : Nat)
  | peerAnswer (srcMod srcDev tag : Nat) (r : PeerResult)
  | link (port : Nat) (f : LinkFlit)
  | failed (port cls : Nat) (req : Option Nat)
  | byte (b : Byte)
  deriving DecidableEq, Repr, Inhabited

/-- A packet on its way over the torus (R241): the stops, or CT or IO, that it comes from and goes to, the stop where it is and the
input by which it came there. -/
structure Transit where
  src : Nat := 0
  dst : Nat := 0
  cls : Nat := 0
  flits : List (BitVec 256) := []
  stop : Nat := 0
  input : Nat := 0
  deriving DecidableEq, Repr, Inhabited

/-- IO (R2). `replay` holds, for each source logical device, the results of its latest requests that return a value, by target
device and tag (R254). `record` names the pages that the inbound party has recorded as PRIVATE to it, by 2^41 times the function plus the
virtual page (R259); `lspeed` and `lwidth` are the one host link's (R261). -/
structure Io where
  mymod : Nat := 0
  ptmo : Nat := 0x0AF0
  imports : Tab Import := []
  routes : Tab Nat := []
  ports : Tab Port := []
  reqs : Tab PeerReq := []
  nextReq : Nat := 0
  tags : Tab Nat := []
  seen : Tab Seen := []
  replay : Tab (List (Nat × Nat × Nat)) := []
  inbound : List Inbound := []
  reading : List Reading := []
  record : List (Nat × Nat) := []
  lspeed : Nat := 0
  lwidth : Nat := 0
  heldPeers : List (PeerIn × Nat) := []
  torus : Tab (List (BitVec 256)) := []
  transit : List Transit := []
  arrived : List (Nat × Nat × List (BitVec 256)) := []
  outputs : List Output := []
  deriving DecidableEq, Repr, Inhabited

/-- A slice's error bookkeeping (R385): the errors that each bank has corrected in a scrub period, and whether that period is
over, the banks marked failed, whether the spare is in use, and whether SPARE_EXHAUSTED has been logged. -/
structure Slice where
  closed : Bool := false
  counts : Tab Nat := []
  failed : List Nat := []
  spare : Bool := false
  logged : Bool := false
  deriving DecidableEq, Repr, Inhabited

/-- How the word that `exec` was asked to run ended: its effect is done; it trapped; or it waits and is run again (or
finished by another step) later. -/
inductive WordEnd where
  | done | trapped | waiting
  deriving DecidableEq, Repr, Inhabited

/-- For whom `exec` runs a word: the fragment, the word's position and encoding (R82), the lanes whose accesses may be made now, the
cycle in which its group issued, the cycles by which an interlocked result stands later than it could (R98), and,
afterwards, how it ended and, where its accesses touched pages, whether one was SHARED or unclassified (R202). -/
structure Focus where
  core : Nat := 0
  slot : Nat := 0
  frag : Nat := 0
  pos : Nat := 0
  ord : Nat := 0
  enc : Word64 := 0
  lanes : BitVec 32 := BitVec.allOnes 32
  issue : Nat := 0
  slow : Nat := 0
  out : WordEnd := .done
  touched : Option Bool := none
  deriving DecidableEq, Repr, Inhabited

/-- An error that the move of a quadrant meets (R355, R384): one found by a check, of the kind `kind`, at an access after `skip`
others, one of CT's walker, at a fetch whose translation misses, or one that no check finds, by which results are wrong in the bits of `mask`. -/
inductive Upset where
  | found (kind skip : Nat)
  | walker
  | wrong (mask : Word64)
  deriving DecidableEq, Repr, Inhabited

/-- The state of the module. `upset` is an error that the move under way meets, and `none` between moves; `mapped` names, for each page that has a class, the mappings through which it has been accessed:
logical device and virtual page (R201). -/
structure State where
  now : Nat := 0
  turns : List Turn := []
  turnNo : Nat := 0
  focus : Focus := {}
  upset : Option Upset := none
  mem : Memory := []
  classes : Tab PageClass := []
  mapped : Tab (List (Nat × Nat)) := []
  reclass : Tab Reclass := []
  accessed : List Nat := []
  dirty : List Nat := []
  lost : List Nat := []
  devices : Tab Device := []
  cores : Tab Core := []
  tasks : Tab Task := []
  nextTask : Nat := 0
  groups : Tab Group := []
  slices : Tab Slice := []
  module : Module := {}
  fuses : Fuses := {}
  io : Io := {}
  deriving DecidableEq, Repr, Inhabited

/-- Why the machine stops with a fault: never. Every trap, fault and error of the spec is a state that the machine
reaches, so no step of this model ends in a fault. -/
inductive Fault where
  /-- Raised by nothing; safe. -/
  | none
  deriving DecidableEq, Repr, Inhabited

/-- Why a step has no meaning. -/
inductive Refusal where
  /-- Raised by the arm of an instruction that has no meaning yet, named by its mnemonic; safe: nothing is claimed of
  what the hardware does there. -/
  | notModelled (mnemonic : String)
  deriving DecidableEq, Repr, Inhabited

/-- The module after power-on, before bring-up: every field at its reset value. Nothing is resident. -/
def State.reset : State := {}

end Sys2Proof.Machine
end

