-- ==== Sys2Proof/Machine/Tables.lean ====
section
/-! DEFINITION. Tables, memory bytes and the places of the state: reading and replacing one entry of each. -/

namespace Sys2Proof.Machine

/-! ### Tables. -/

/-- The entry at a key. -/
def Tab.find {α : Type} : Tab α → Nat → Option α
  | [], _ => none
  | (k', v) :: t, k => if k' = k then some v else if k < k' then none else Tab.find t k

/-- The entry at a key, `d` where there is none. -/
def Tab.get {α : Type} (t : Tab α) (d : α) (k : Nat) : α := (Tab.find t k).getD d

/-- The table with one entry replaced or added, in key order. -/
def Tab.set {α : Type} : Tab α → Nat → α → Tab α
  | [], k, v => [(k, v)]
  | (k', v') :: t, k, v =>
    if k < k' then (k, v) :: (k', v') :: t
    else if k' = k then (k, v) :: t
    else (k', v') :: Tab.set t k v

/-- The table without the entry at a key. -/
def Tab.del {α : Type} (t : Tab α) (k : Nat) : Tab α := t.filter (fun e => e.1 != k)

/-- The values of a table, in key order. -/
def Tab.vals {α : Type} (t : Tab α) : List α := t.map (fun e => e.2)

/-- The keys of a table. -/
def Tab.keys {α : Type} (t : Tab α) : List Nat := t.map (fun e => e.1)

/-- A list of numbers with one more member. -/
def addNat (l : List Nat) (x : Nat) : List Nat := if l.contains x then l else x :: l

/-- The first number below `n`, from `k` on, that is not in a list. -/
def firstFree (used : List Nat) (k : Nat) : Nat → Option Nat
  | 0 => none
  | n + 1 => if used.contains k then firstFree used (k + 1) n else some k

/-! ### Memory (R9, R189). -/

/-- What a byte that nothing has written reads as: the zero that bring-up leaves in Guash memory (R388); for host
memory a choice of the model (log 3). -/
def Memory.fill : Byte := 0

/-- The byte at an address. -/
def Memory.get : Memory → Nat → Byte
  | [], _ => Memory.fill
  | (a', b) :: t, a => if a' = a then b else if a < a' then Memory.fill else Memory.get t a

/-- The memory with one byte written. -/
def Memory.put : Memory → Nat → Byte → Memory
  | [], a, b => if b = Memory.fill then [] else [(a, b)]
  | (a', b') :: t, a, b =>
    if a < a' then (if b = Memory.fill then (a', b') :: t else (a, b) :: (a', b') :: t)
    else if a' = a then (if b = Memory.fill then t else (a, b) :: t)
    else (a', b') :: Memory.put t a b

/-- `n` bytes at an address as a number, the least significant byte first (R9). -/
def Memory.read (m : Memory) (a : Nat) : Nat → Nat
  | 0 => 0
  | n + 1 => (m.get a).toNat + 256 * Memory.read m (a + 1) n

/-- The memory with the `n` low bytes of a number written at an address. -/
def Memory.write (m : Memory) (a : Nat) : Nat → Nat → Memory
  | 0, _ => m
  | n + 1, v => Memory.put (Memory.write m (a + 1) n (v / 256)) a (BitVec.ofNat 8 v)

/-- The bytes at an address. -/
def Memory.bytes (m : Memory) (a : Nat) : Nat → List Byte
  | 0 => []
  | n + 1 => m.get a :: Memory.bytes m (a + 1) n

/-- A number made of bytes, the least significant first. -/
def bytesNat : List Byte → Nat
  | [] => 0
  | b :: bs => b.toNat + 256 * bytesNat bs

/-- The `n` low bytes of a number, the least significant first. -/
def natBytes : Nat → Nat → List Byte
  | 0, _ => []
  | n + 1, v => BitVec.ofNat 8 v :: natBytes n (v / 256)

/-- The canonical form: addresses strictly rising and no byte equal to what an unlisted address reads as. -/
def Memory.wf : Memory → Bool
  | [] => true
  | [(_, b)] => b != Memory.fill
  | (a, b) :: (a', b') :: t => b != Memory.fill && Nat.blt a a' && Memory.wf ((a', b') :: t)

/-! ### Cores and dies (R48). -/

/-- The compute die of a core. -/
def dieOf (c : Nat) : Nat := (if c % 16 < 8 then 0 else 1) + (if c / 16 < 6 then 0 else 2)

/-- A core's place in core-number order within its die (R57). -/
def coreIndex (c : Nat) : Nat := c / 16 % 6 * 8 + c % 8

/-- The i-th core of a die in core-number order. -/
def coreAt (d i : Nat) : Nat := 16 * (i / 8 + (if d < 2 then 0 else 6)) + i % 8 + (if d % 2 = 0 then 0 else 8)

/-- The cores of a die in core-number order. -/
def coresOf (d : Nat) : List Nat := (List.range 48).map (coreAt d)

/-! ### Places of the state. -/

def State.core (s : State) (c : Nat) : Core := Tab.get s.cores {} c
def State.setCore (s : State) (c : Nat) (x : Core) : State := { s with cores := Tab.set s.cores c x }

def State.warp (s : State) (c k : Nat) : Warp := Tab.get (s.core c).warps {} k
def State.setWarp (s : State) (c k : Nat) (w : Warp) : State :=
  s.setCore c { s.core c with warps := Tab.set (s.core c).warps k w }

def State.frag (s : State) (c k f : Nat) : Frag := Tab.get (s.warp c k).frags {} f
def State.setFrag (s : State) (c k f : Nat) (x : Frag) : State :=
  s.setWarp c k { s.warp c k with frags := Tab.set (s.warp c k).frags f x }

def State.wg (s : State) (c g : Nat) : Workgroup := Tab.get (s.core c).wgs {} g
def State.setWg (s : State) (c g : Nat) (x : Workgroup) : State :=
  s.setCore c { s.core c with wgs := Tab.set (s.core c).wgs g x }

def State.quad (s : State) (c q : Nat) : Quad := Tab.get (s.core c).quads {} q
def State.setQuad (s : State) (c q : Nat) (x : Quad) : State :=
  s.setCore c { s.core c with quads := Tab.set (s.core c).quads q x }

def State.device (s : State) (d : Nat) : Device := Tab.get s.devices {} d
def State.setDevice (s : State) (d : Nat) (x : Device) : State := { s with devices := Tab.set s.devices d x }

def State.queue (s : State) (d q : Nat) : Queue := Tab.get (s.device d).queues {} q
def State.setQueue (s : State) (d q : Nat) (x : Queue) : State :=
  s.setDevice d { s.device d with queues := Tab.set (s.device d).queues q x }

def State.task (s : State) (t : Nat) : Task := Tab.get s.tasks {} t
def State.setTask (s : State) (t : Nat) (x : Task) : State := { s with tasks := Tab.set s.tasks t x }

def State.group (s : State) (i : Nat) : Group := Tab.get s.groups {} i
def State.setGroup (s : State) (i : Nat) (g : Group) : State := { s with groups := Tab.set s.groups i g }

def State.port (s : State) (p : Nat) : Port := Tab.get s.io.ports {} p
def State.setPort (s : State) (p : Nat) (x : Port) : State :=
  { s with io := { s.io with ports := Tab.set s.io.ports p x } }

/-- Something sent out of the module. -/
def State.send (s : State) (o : Output) : State := { s with io := { s.io with outputs := s.io.outputs ++ [o] } }

/-! ### The word in focus. -/

def State.w (s : State) : Warp := s.warp s.focus.core s.focus.slot
def State.setW (s : State) (w : Warp) : State := s.setWarp s.focus.core s.focus.slot w
def State.f (s : State) : Frag := s.frag s.focus.core s.focus.slot s.focus.frag
def State.setF (s : State) (f : Frag) : State := s.setFrag s.focus.core s.focus.slot s.focus.frag f
def State.g (s : State) : Workgroup := s.wg s.focus.core s.w.wg
def State.setG (s : State) (g : Workgroup) : State := s.setWg s.focus.core s.w.wg g
def State.t (s : State) : Task := s.task s.g.task
def State.die (s : State) : Nat := dieOf s.focus.core

/-- `Active()` (R90): the mask of the fragment in focus. -/
def State.active (s : State) : BitVec 32 := s.f.mask

/-- `Lanes(m)` (R90): the set bits of a mask, ascending. -/
def lanesOf (m : BitVec 32) : List Nat := (List.range 32).filter (fun i => m.getLsbD i)

/-- The lowest lane of a mask. -/
def lowLane (m : BitVec 32) : Nat := (lanesOf m).headD 0

/-- The mask of one lane; a number that names no lane has none. -/
def laneBit (i : Nat) : BitVec 32 := if i < 32 then 1#32 <<< i else 0

/-- The mask of a list of lanes. -/
def maskOf (l : List Nat) : BitVec 32 := l.foldl (fun m i => m ||| laneBit i) 0

/-- CLOCK of a die (R128). -/
def State.clock (s : State) (d : Nat) : Nat := s.now - (s.device d).clockBase

/-- The cycles that a die has counted: its timers stop while it is halted (R373). -/
def State.counted (s : State) (d : Nat) : Nat :=
  let x := s.device d
  s.now - x.haltCycles - if x.dhalt then s.now - x.haltAt else 0

end Sys2Proof.Machine
end

