-- ==== Sys2Proof/Machine/Link.lean ====
section
/-! DEFINITION. Link flits: their header, content and CRC, and those that a port forms (R249). -/

namespace Sys2Proof.Machine

/-- A Boolean as a field. -/
def bit (b : Bool) : Nat := if b then 1 else 0

end Sys2Proof.Machine

namespace Sys2Proof

/-- The header of a link flit, 12 bytes (R249). -/
def LinkFlit.header (f : LinkFlit) : Nat :=
  f.lseq.toNat + f.lack.toNat * 2 ^ 12 + Machine.bit f.ackv * 2 ^ 24 + f.cls.toNat * 2 ^ 25 + f.nslot.toNat * 2 ^ 28 +
  Machine.bit f.sop * 2 ^ 30 + Machine.bit f.eop * 2 ^ 31 + f.type.toNat * 2 ^ 32 + f.cred.toNat * 2 ^ 36

/-- The four slots of a link flit, 128 bytes; unused slots are zero (R249). -/
def LinkFlit.content (f : LinkFlit) : Nat :=
  (f.slots.getD 0 0).toNat + (f.slots.getD 1 0).toNat * 2 ^ 256 + (f.slots.getD 2 0).toNat * 2 ^ 512 +
  (f.slots.getD 3 0).toNat * 2 ^ 768

/-- One bit of a CRC-32C, the least significant bit first. -/
def crcBit (c : Nat) (b : Bool) : Nat := if (c % 2 == 1) != b then (c / 2) ^^^ 0x82F63B78 else c / 2

/-- The CRC-32C of the `n` low bits of a number, the lowest bit first. -/
def crc32c (n v : Nat) : BitVec 32 :=
  BitVec.ofNat 32 ((List.range n).foldl (fun c i => crcBit c (v.testBit i)) 0xFFFFFFFF ^^^ 0xFFFFFFFF)

/-- The CRC-32C of a link flit, over the header and the content (R249). The spec names the code alone: its bit order and its
initial and final inversions are the usual ones (log 87). -/
def LinkFlit.crcOf (f : LinkFlit) : BitVec 32 := crc32c 1120 (f.header + f.content * 2 ^ 96)

/-- Whether the CRC of a link flit holds. -/
def LinkFlit.crcOk (f : LinkFlit) : Bool := f.crc == f.crcOf

end Sys2Proof

namespace Sys2Proof.Machine

/-- A link flit of a port, with what it acknowledges and the credits that it returns, at most 255 of a group. -/
def Port.flit (x : Port) (type seq : Nat) (cls n : Nat) (sop eop : Bool) (slots : List (BitVec 256)) : LinkFlit :=
  let back (g : Nat) : Nat := min 255 (x.owed.getD g 0)
  let f : LinkFlit :=
    { lseq := BitVec.ofNat 12 seq, lack := BitVec.ofNat 12 x.expectSeq, ackv := true, cls := BitVec.ofNat 3 cls,
      nslot := BitVec.ofNat 2 (n - 1), sop := sop, eop := eop, type := BitVec.ofNat 4 type,
      cred := BitVec.ofNat 24 (back 0 + back 1 * 2 ^ 8 + back 2 * 2 ^ 16), slots := slots, crc := 0 }
  { f with crc := f.crcOf }

/-- The credits of a flit have been returned. -/
def Port.paid (x : Port) : Port := { x with owed := x.owed.map (fun n => n - min 255 n) }

/-- The flit by which a receiver asks for the one that it expects, which LACK gives (R250). -/
def Port.nackFlit (x : Port) : LinkFlit := x.flit 2 x.sendSeq 0 1 false false []

/-- The flit by which a port tells its partner that it retrains (R251). -/
def Port.retrainFlit (x : Port) : LinkFlit := x.flit 3 x.sendSeq 0 1 false false []

end Sys2Proof.Machine
end

