-- ==== Sys2Proof/Machine/Ops.lean ====
section
/-! DEFINITION. The named operations over the state: reading and writing a warp's registers with their timing, the
event log, the waiters of count words, group phases, tokens and the ends of lanes and warps, taking a trap and
returning from one. -/

namespace Sys2Proof.Machine

/-! ### Registers of a warp (R95 to R98). -/

/-- A warp's registers after one completed write. -/
def Warp.apply (w : Warp) : RegWrite → Warp
  | .s r v => { w with sregs := Tab.set w.sregs r v }
  | .v r l x => { w with vregs := Tab.set w.vregs (32 * r + l) x }
  | .k r m b => { w with kregs := Tab.set w.kregs r ((Tab.get w.kregs 0 r &&& ~~~m) ||| (b &&& m)) }
  | .b r x => { w with bregs := Tab.set w.bregs r x }
  | .g r x => { w with gregs := Tab.set w.gregs r x }
  | .h r x => { w with hregs := Tab.set w.hregs r x }
  | .spr n x => if n = 0x11 then { w with trapPc := x } else if n = 0x12 then { w with trapData := x } else w

/-- Completion order: by completion cycle, then issue cycle, then position in the group (R97). -/
def Pending.precedes (p q : Pending) : Bool :=
  p.due < q.due || (p.due == q.due && (p.issue < q.issue || (p.issue == q.issue && p.pos ≤ q.pos)))

/-- The pending writes with one more, kept in completion order. -/
def addPending (p : Pending) : List Pending → List Pending
  | [] => [p]
  | q :: qs => if q.precedes p then q :: addPending p qs else p :: q :: qs

/-- What a read in cycle `c` sees: every write that has completed by then (R97). -/
def Warp.at (w : Warp) (c : Nat) : Warp :=
  (w.pend.filter (fun p => p.due ≤ c)).foldl (fun w p => w.apply p.write) w

/-- The warp with every write that has completed by cycle `c` made part of its registers. -/
def Warp.retire (w : Warp) (c : Nat) : Warp :=
  { w.at c with pend := w.pend.filter (fun p => c < p.due) }

/-- The register files; `x` holds the special registers. -/
inductive File where
  | s | v | k | b | g | h | x
  deriving DecidableEq, Repr, Inhabited

abbrev Reg := File × Nat

/-- The register that a pending write changes. -/
def RegWrite.reg : RegWrite → Option (Nat × Nat)
  | .s r _ => some (0, r)
  | .v r _ _ => some (1, r)
  | .k r _ _ => some (2, r)
  | _ => none

/-- The number of a file in TRAPDATA. -/
def File.code : File → Nat
  | .s => 0 | .v => 1 | .k => 2 | _ => 3

/-- The latest completion cycle of the fixed-latency writes of a register that are still to complete. -/
def Warp.pendsUntil (w : Warp) (r : Reg) : Nat :=
  w.pend.foldl (fun m p => if !p.lock && p.write.reg = some (r.1.code, r.2) then max m p.due else m) 0

/-- TRAPDATA of a scoreboard cause (R99). -/
def boardData (r : Reg) (short pos : Nat) : Word64 :=
  BitVec.ofNat 64 (r.2 % 64 + r.1.code * 2 ^ 6 + short % 32 * 2 ^ 8 + pos % 4 * 2 ^ 13)

/-- The cycle by which every fixed-latency write that a warp has issued completes, but not before `c` (R100). -/
def Warp.settled (w : Warp) (c : Nat) : Nat := w.pend.foldl (fun m p => if p.lock then m else max m p.due) c

/-- The warp with the writes of special registers that it has issued completed: a trap writes them anew. -/
def Warp.settleSpr (w : Warp) : Warp :=
  let spr (p : Pending) : Bool := match p.write with | .spr _ _ => true | _ => false
  { (w.pend.filter spr).foldl (fun w p => w.apply p.write) w with pend := w.pend.filter (fun p => !spr p) }

/-- The warp with every write that it has issued completed. -/
def Warp.flush (w : Warp) : Warp :=
  { w.pend.foldl (fun w p => w.apply p.write) w with pend := [] }

/-- The registers that the word in focus reads: those of its group's issue cycle (R93, R97). -/
def State.view (s : State) : Warp := s.w.at s.focus.issue

def State.S (s : State) (r : BitVec 6) : Word64 := Tab.get s.view.sregs 0 r.toNat
def State.V (s : State) (r lane : Nat) : Lane := Tab.get s.view.vregs {} (32 * r + lane)
/-- A mask register; k0 reads `Active()` (R89). -/
def State.K (s : State) (r : Nat) : BitVec 32 := if r = 0 then s.active else Tab.get s.view.kregs 0 r
def State.B (s : State) (r : Nat) : BaseReg := Tab.get s.view.bregs {} r
def State.G (s : State) (r : Nat) : Word32 := Tab.get s.view.gregs 0xFFFFFFFF r
def State.H (s : State) (r : Nat) : Option (List Word64) := Tab.get s.view.hregs none r

/-- Register writes of a group that issued in cycle `issue`, by word `ord` of the group: of fixed latency `lat`, they
complete in `issue + lat`; of interlocked latency (`lat` 0), in a cycle that the turn chooses, no earlier than the one after
the issue (R95, R98). -/
def State.putFor (s : State) (c k issue ord lat : Nat) (xs : List RegWrite) : State :=
  let w := s.warp c k
  let due := if lat = 0 then max (issue + 1) s.now + s.focus.slow else issue + lat
  s.setWarp c k { w with pend := xs.foldl (fun p x => addPending ⟨due, issue, ord, x, lat == 0⟩ p) w.pend }

/-- Register writes of the word in focus. -/
def State.putAll (s : State) (lat : Nat) (xs : List RegWrite) : State :=
  s.putFor s.focus.core s.focus.slot s.focus.issue s.focus.ord lat xs

/-- A register write of the word in focus. -/
def State.put (s : State) (lat : Nat) (x : RegWrite) : State := s.putAll lat [x]

def State.putS (s : State) (lat : Nat) (r : BitVec 6) (v : Word64) : State := s.put lat (.s r.toNat v)

/-- The values `f i`, tagged `t`, written to the lanes of `m` of a vector register. -/
def State.putLanes (s : State) (lat r : Nat) (m : BitVec 32) (f : Nat → Lane) : State :=
  s.putAll lat ((lanesOf m).map (fun i => .v r i (f i)))

/-! ### How a word ends. -/

/-- How a word ends: its effect is done; it traps with a cause and TRAPDATA, the state holding what its entry keeps
(R90); or it waits. -/
inductive Res where
  | done (s : State)
  | trap (s : State) (cause : BitVec 10) (data : Word64)
  | wait (s : State) (p : Park)
  deriving Inhabited

/-- What follows a result. -/
def Res.bind (r : Res) (f : State → Res) : Res :=
  match r with
  | .done s => f s
  | .trap s c d => .trap s c d
  | .wait s p => .wait s p

/-! ### The event log (R381, R382). -/

/-- The physical address of host memory (R189). -/
def hostBase : Nat := 2 ^ 56

/-- The member that a warp is. -/
def State.memberOf (s : State) (c k : Nat) : Member :=
  let w := s.warp c k
  let g := s.wg c w.wg
  ⟨g.task, g.linear, w.warpId⟩

/-- The entry of event sequence `seq` has been written for a warp (R376). -/
def State.noteEntry (s : State) (m : Member) (seq : Nat) : State :=
  s.setTask m.task { s.task m.task with entries := Tab.set (s.task m.task).entries (32 * m.linear + m.warpId) seq }

/-- One event-log entry as eight words, written to the ring, lost, or kept while the log is off (R382). When it is written,
the task that it counts for has one more entry, and it is the latest one of the warp that it is written for (R376). The entry
reaches the ring in the step of the event itself, though R332 leaves open when it does (log 74). -/
def State.writeEvent (s : State) (e : List Word64) (task : Option Nat) (who : Option Member) : State :=
  let m := s.module
  if m.elen then
    if m.eltail - m.elhead = 2 ^ m.ellog then { s with module := { m with ellost := m.ellost + 1 } }
    else
      let a := hostBase + m.elbase + 64 * (m.eltail % 2 ^ m.ellog)
      let mem := Memory.write s.mem a 64 (bytesNat (e.flatMap (fun x => natBytes 8 x.toNat)))
      let s := { s with mem := mem, module := { m with eltail := m.eltail + 1 } }
      let s := match task with
        | some t => s.setTask t { s.task t with events := (s.task t).events + 1 }
        | none => s
      let s := match who with
        | some x => s.noteEntry x (e.headD 0).toNat
        | none => s
      if m.elien then s.send (.msix 0 m.elvec) else s
  else if m.keptEvents.length < 256 then
    { s with module := { m with keptEvents := m.keptEvents ++ [(e, task, who)] } }
  else { s with module := { m with ellost := m.ellost + 1 } }

/-- What an event reports (R382); `counts` marks one that counts for its task, `who` is the warp that it is written for
(R376). -/
structure Event where
  cause : BitVec 10
  src : Nat := 4
  core : Nat := 0
  warpId : Nat := 0
  item : Nat := 0
  pc : Word64 := 0
  addr : Word64 := 0
  task : Option Nat := none
  counts : Bool := true
  aux : Word64 := 0
  who : Option Member := none

/-- An event takes the next sequence number and is written, kept or lost (R382). -/
def State.logEvent (s : State) (e : Event) : State :=
  let t := match e.task with | some t => s.task t | none => {}
  let word : Word64 := BitVec.ofNat 64
    (e.cause.toNat + e.src * 2 ^ 10 + e.core * 2 ^ 13 + e.warpId * 2 ^ 21 + e.item * 2 ^ 32)
  let clock : Word64 := if e.src < 4 then BitVec.ofNat 64 (s.clock e.src) else 0
  let entry := [BitVec.ofNat 64 s.module.elseq, word, e.pc, e.addr,
    if e.task.isSome then t.kid else 0, if e.task.isSome then t.seq else 0, e.aux, clock]
  { s with module := { s.module with elseq := s.module.elseq + 1 } }.writeEvent entry
    (if e.counts then e.task else none) e.who

/-- An event of a warp (R376). -/
def State.logWarp (s : State) (c k : Nat) (e : Event) : State :=
  let w := s.warp c k
  s.logEvent { e with src := dieOf c, core := c, warpId := w.warpId, task := some (s.wg c w.wg).task, who := some (s.memberOf c k) }

/-! ### Waiters on count words (R340, R343). -/

/-- The die and slice that home a Guash address (R190). -/
def homeDie (pa : Nat) : Nat := pa / 2 ^ 38 % 4
def homeSlice (pa : Nat) : Nat := pa % 2 ^ 38 / 128 % 48

def State.watch (s : State) (pa : Nat) : Watch := Tab.get (s.device (homeDie pa)).watch {} (homeSlice pa)
def State.setWatch (s : State) (pa : Nat) (x : Watch) : State :=
  let d := s.device (homeDie pa)
  s.setDevice (homeDie pa) { d with watch := Tab.set d.watch (homeSlice pa) x }

/-- Registers a waiter of core `c` with the home, in the first structure that has room (R340). -/
def State.register (s : State) (pa c : Nat) : State × WaitReg :=
  let x := s.watch pa
  let d := s.device (homeDie pa)
  let becomes := (s.setDevice (homeDie pa) { d with bcast := min (d.bcast + 1) (2 ^ 32 - 1) })
  match Tab.find x.watch pa with
  | some (cs, n) =>
    if n < 65535 then (s.setWatch pa { x with watch := Tab.set x.watch pa (addNat cs c, n + 1) }, .watch)
    else (s.setWatch pa { x with unlisted := x.unlisted + 1 }, .unlisted)
  | none =>
    if x.watch.length < 32 then (s.setWatch pa { x with watch := Tab.set x.watch pa ([c], 1) }, .watch)
    else match Tab.find x.bcast pa with
      | some n => (s.setWatch pa { x with bcast := Tab.set x.bcast pa (n + 1) }, .bcast)
      | none =>
        if x.bcast.length < 8 then (becomes.setWatch pa { x with bcast := Tab.set x.bcast pa 1 }, .bcast)
        else (becomes.setWatch pa { x with unlisted := x.unlisted + 1 }, .unlisted)

/-- Withdraws a waiter; a list entry frees when its count reaches zero (R342, R343). -/
def State.deregister (s : State) (pa : Nat) (r : WaitReg) : State :=
  let x := s.watch pa
  match r with
  | .watch => match Tab.find x.watch pa with
    | some (cs, n) =>
      let t := if n ≤ 1 then Tab.del x.watch pa else Tab.set x.watch pa (cs, n - 1)
      s.setWatch pa { x with watch := t }
    | none => s
  | .bcast => match Tab.find x.bcast pa with
    | some n =>
      let t := if n ≤ 1 then Tab.del x.bcast pa else Tab.set x.bcast pa (n - 1)
      s.setWatch pa { x with bcast := t }
    | none => s
  | .unlisted => s.setWatch pa { x with unlisted := x.unlisted - 1 }

/-- Whether a count word has registered waiters (R341). -/
def State.hasWaiters (s : State) (pa : Nat) : Bool :=
  let x := s.watch pa
  match Tab.find x.watch pa, Tab.find x.bcast pa with
  | none, none => x.unlisted != 0
  | _, _ => true

/-- Sends the wakes of an add (R343): to each core in the word's mask, or to all cores of the home die. -/
def State.wakeWord (s : State) (pa : Nat) : State :=
  let x := s.watch pa
  let all := (Tab.find x.bcast pa).isSome || x.unlisted != 0
  let cores := match Tab.find x.watch pa with
    | some (cs, _) => if all then coresOf (homeDie pa) else cs
    | none => if all then coresOf (homeDie pa) else []
  cores.foldl (fun s c => s.setCore c { s.core c with wakes := addNat (s.core c).wakes pa }) s

/-! ### Group phases (R346 to R350). -/

/-- A group: an entry of the group table, or the implicit group of a workgroup or a gang (R47). -/
inductive GroupRef where
  | named (i : Nat)
  | wg (task linear : Nat)
  | gang (task unit : Nat)
  deriving DecidableEq, Repr, Inhabited

/-- A 64-bit word of a task's packet. -/
def Task.word (t : Task) (i : Nat) : Nat := (t.words.getD i 0).toNat

/-- Where the kind payload starts, in 64-bit words (R13). -/
def Task.payload (t : Task) : Nat := 2 + 2 * ((bitsOf (t.word 0) 15 12 + 3) / 4)

/-- The grid extents and the gang size of a KERNEL task (R16, R17). -/
def Task.gridX (t : Task) : Nat := bitsOf (t.word (t.payload + 1)) 15 0
def Task.gridY (t : Task) : Nat := bitsOf (t.word (t.payload + 1)) 31 16
def Task.gridZ (t : Task) : Nat := bitsOf (t.word (t.payload + 1)) 47 32
def Task.gang (t : Task) : Nat :=
  match bitsOf (t.word (t.payload + 1)) 49 48 with | 0 => 1 | 1 => 2 | _ => 4

/-- The workgroups of a unit, by linear index (R17): the unit is named by its rank-0 workgroup. -/
def Task.unitWgs (t : Task) (unit : Nat) : List Nat := List.range' unit t.gang

/-- The members of a group in ascending rank (R47, R346). -/
def State.members (s : State) : GroupRef → List Member
  | .named i => (s.group i).members
  | .wg t l => (Tab.get (s.task t).alive [] l).map (fun w => ⟨t, l, w⟩)
  | .gang t u => ((s.task t).unitWgs u).flatMap
      (fun l => (Tab.get (s.task t).alive [] l).map (fun w => ⟨t, l, w⟩))

def State.phase (s : State) : GroupRef → Phase
  | .named i => (s.group i).phase
  | .wg t l => Tab.get (s.task t).wgPhase {} l
  | .gang t u => Tab.get (s.task t).gangPhase {} u

def State.setPhase (s : State) (r : GroupRef) (p : Phase) : State :=
  match r with
  | .named i => s.setGroup i { s.group i with phase := p }
  | .wg t l => s.setTask t { s.task t with wgPhase := Tab.set (s.task t).wgPhase l p }
  | .gang t u => s.setTask t { s.task t with gangPhase := Tab.set (s.task t).gangPhase u p }

/-- One step of a GRED fold (R350). -/
def gredStep (xm : Nat) (rm : Rm) (acc x : Word64) : Word64 :=
  let f64 (a : Word64) := Fmt.f64.val a.toNat
  let f32 (a : Word64) := Fmt.f32.val (a.toNat % 2 ^ 32)
  match xm with
  | 0 => acc + x
  | 1 => BitVec.ofNat 64 (Fmt.f64.round (FVal.sum [f64 acc, f64 x] rm) rm false)
  | 2 => BitVec.ofNat 64 (Fmt.f32.round (FVal.sum [f32 acc, f32 x] rm) rm false)
  | 3 => if x.toInt < acc.toInt then x else acc
  | 4 => if x.toNat < acc.toNat then x else acc
  | 5 => if acc.toInt < x.toInt then x else acc
  | 6 => if acc.toNat < x.toNat then x else acc
  | 7 => BitVec.ofNat 64 (Fmt.f64.minMax false acc.toNat x.toNat)
  | 8 => BitVec.ofNat 64 (Fmt.f64.minMax true acc.toNat x.toNat)
  | 9 => acc &&& x
  | 10 => acc ||| x
  | _ => acc ^^^ x

/-- The first contribution of a GRED; an f32 is its low 32 bits (R350). -/
def gredFirst (xm : Nat) (x : Word64) : Word64 := if xm = 2 then BitVec.ofNat 64 (x.toNat % 2 ^ 32) else x

/-- The result of a phase from the contributions in ascending rank (R350). -/
def phaseResult (kind : ArriveKind) (count : Nat) (xs : List Word64) : Word64 :=
  match kind with
  | .bar => BitVec.ofNat 64 count
  | .vote =>
    let n := (xs.filter (fun x => x != 0)).length
    BitVec.ofNat 64 (n + (if n = xs.length then 2 ^ 32 else 0) + if 0 < n then 2 ^ 33 else 0)
  | .red xm rm => match xs with
    | [] => 0
    | x :: rest => rest.foldl (gredStep xm (Rm.ofBits rm)) (gredFirst xm x)

/-- A fragment whose current group has issued all its words: at the next group, or at the next packet (R64). -/
def Frag.advance (f : Frag) : Frag :=
  if f.groups.isEmpty then
    { f with pc := f.target.getD (f.pc + 12), arrived := f.pc, decoded := false, groupNo := 0, startGroup := 0,
             target := none }
  else { f with groupNo := f.groupNo + 1 }

/-- The word that a fragment waited in has ended: the next word of its group, or its next group, follows. -/
def Frag.finishWord (f : Frag) : Frag :=
  let f := { f with words := f.words.tail, park := .none, flight := none, failed := none }
  if f.words.isEmpty then f.advance else f

/-- The state with a fragment, and the word that it waits in, in focus. -/
def State.focusOn (s : State) (c k f : Nat) : State :=
  let x := s.frag c k f
  let w := x.words.head?
  { s with focus := { core := c, slot := k, frag := f, pos := (w.map (fun d => d.pos)).getD 0,
                      ord := (w.map (fun d => d.pos)).getD 0, enc := (w.map (fun d => d.enc)).getD 0,
                      issue := x.issued } }

/-- Ends the word that a fragment waits in, with a result for a scalar register. -/
def State.finishWith (s : State) (c k f d : Nat) (v : Word64) : State :=
  let x := s.frag c k f
  let s := s.putFor c k x.issued 0 0 [.s d v]
  s.setFrag c k f (s.frag c k f).finishWord

/-- The arrival of a member at a phase. -/
def Phase.of (p : Phase) (m : Member) : Option Arrival := p.arrivals.find? (fun a => a.who == m)

/-- Completes the open phase if every member has arrived (R348): one point that forms the result, advances PHASE and
releases every arrived member. Each arrival then commits its warp (R367). -/
def State.completePhase (s : State) (r : GroupRef) : State :=
  let p := s.phase r
  let ms := s.members r
  if p.arrivals.isEmpty || !ms.all (fun m => (p.of m).isSome) then s
  else
    let arrived := ms.filterMap p.of
    let count := (p.count + 1) % 2 ^ 32
    let v := phaseResult (p.kind.getD .bar) count (arrived.map (fun a => a.value))
    let s := s.setPhase r { count := count }
    arrived.foldl (fun s a =>
      let s := s.finishWith a.core a.slot a.frag a.d v
      let w := s.warp a.core a.slot
      let frags := w.frags.map (fun e => (e.1, if e.2.park = .arriveHeld then { e.2 with park := .none } else e.2))
      s.setWarp a.core a.slot { w with committed := true, frags := frags }) s

/-- The phase without some of its arrivals; with none left, its kind is open again, and its first arrival is none, unless a
departure has counted as one (R347, R352). -/
def Phase.drop (p : Phase) (gone : Arrival → Bool) : Phase :=
  let left := p.arrivals.filter (fun a => !gone a)
  { p with arrivals := left, kind := if left.isEmpty then none else p.kind,
           since := if left.isEmpty && !p.departed then none else p.since }

/-- A member's departure from one group (R347): its arrival is withdrawn, and the departure counts as an arrival. -/
def State.departFrom (s : State) (r : GroupRef) (m : Member) (fault : Bool) : State :=
  let p := s.phase r
  let s := s.setPhase r (p.drop (fun a => a.who = m))
  let s := match r with
    | .named i =>
      let g := s.group i
      s.setGroup i { g with members := g.members.filter (fun x => x != m),
                            phase := { g.phase with since := some (p.since.getD s.now), departed := true }
                            faulted := if fault then min (g.faulted + 1) (2 ^ 32 - 1) else g.faulted }
    | _ => s
  s.completePhase r

/-- The named groups that a warp is a member of. -/
def State.groupsOf (s : State) (m : Member) : List Nat :=
  (s.groups.filter (fun e => e.2.members.contains m)).map (fun e => e.1)

/-- A warp departs from all its groups (R47, R133, R347). -/
def State.departAll (s : State) (m : Member) (unit : Nat) (fault : Bool) : State :=
  let t := s.task m.task
  let left := (Tab.get t.alive [] m.linear).filter (fun w => w != m.warpId)
  let s := s.setTask m.task { t with alive := Tab.set t.alive m.linear left }
  let s := (s.groupsOf m).foldl (fun s i => s.departFrom (.named i) m fault) s
  (s.departFrom (.wg m.task m.linear) m fault).departFrom (.gang m.task unit) m fault

/-! ### Split entries, tokens and joins (R102 to R105). -/

/-- Frees a split entry; it is reserved for the lowest fragment slot whose BRV waits for one (R102). -/
def State.freeSplit (s : State) (c q key : Nat) : State :=
  if key < 32 then s
  else
    let x := s.quad c q
    let held := x.splits.filter (fun e => e.2 != 0) |>.map (fun e => e.2 - 1)
    let waiting := (s.core c).warps.flatMap (fun e =>
      if e.1 / 32 = q then (e.2.frags.filter (fun g => g.2.brvWait && !held.contains g.1)).map (fun g => g.1) else [])
    let x := match waiting with
      | [] => { x with splits := Tab.del x.splits key }
      | r :: rs => { x with splits := Tab.set x.splits key (rs.foldl min r + 1) }
    s.setQuad c q x

/-- The entry that a BRV of fragment slot `f` may take: the one reserved for it, else the lowest free one. -/
def State.splitFor (s : State) (c q f : Nat) : Option Nat :=
  let x := s.quad c q
  match x.splits.find? (fun e => e.2 = f + 1) with
  | some e => some e.1
  | none => firstFree x.splits.keys 32 64

/-- Merges the fragments parked at a token when, with the exited lanes, they cover its mask, or when `release` frees
them (R104, R105). The merged fragment arrived from where that of the lowest slot did, which the rules leave open (log 53). -/
def State.mergeAt (s : State) (c k tok : Nat) (release : Bool) : State :=
  let w := s.warp c k
  match Tab.find w.tokens tok with
  | none => s
  | some t =>
    let at_ := w.frags.filter (fun e =>
      e.2.token = some tok && match e.2.park with | .join _ => true | _ => false)
    let cover := at_.foldl (fun m e => m ||| e.2.mask) 0
    let left := t.expect &&& ~~~w.exited &&& ~~~cover
    match at_ with
    | [] => s
    | (key, f) :: others =>
      if left != 0 && !release then s
      else
        let merged := { f with
          mask := cover
          stamp := others.foldl (fun m e => min m e.2.stamp) f.stamp
          nextIssue := others.foldl (fun m e => max m e.2.nextIssue) f.nextIssue
          token := t.outer
          park := .none }
        let tokens := if left = 0 then Tab.del w.tokens tok
          else Tab.set w.tokens tok { t with expect := t.expect &&& ~~~cover }
        let frags := others.foldl (fun fs e => Tab.del fs e.1) (Tab.set w.frags key merged)
        let s := s.setWarp c k { w with frags := frags, tokens := tokens }
        others.foldl (fun s e => s.freeSplit c (k / 32) e.1) s

/-- Every join of a warp that the exit of lanes may have completed (R104, R131); a token whose lanes have all exited
is freed. -/
def State.mergeAll (s : State) (c k : Nat) : State :=
  let w := s.warp c k
  let s := s.setWarp c k { w with tokens := w.tokens.filter (fun e => e.2.expect &&& ~~~w.exited != 0) }
  (s.warp c k).tokens.foldl (fun s e => s.mergeAt c k e.1 false) s

/-! ### The ends of lanes and warps (R131, R133, R361). -/

/-- Ends the registration that a CWWAIT keeps while its re-read is held (R342). -/
def State.endWaiting (s : State) (c k f : Nat) : State :=
  match (s.frag c k f).waiting with
  | .count _ pa _ _ reg _ _ =>
    let s := s.deregister pa reg
    s.setFrag c k f { s.frag c k f with waiting := .none }
  | _ => s

/-- The registration of the fragment in focus ends, if a held re-read has kept it. -/
def State.stopWaiting (s : State) : State := s.endWaiting s.focus.core s.focus.slot s.focus.frag

/-- Withdraws what a parked fragment has registered (R342), or its arrival (R348): sibling fragments that the arrival
holds arrive again. -/
def State.withdraw (s : State) (c k f : Nat) : State :=
  let s := s.endWaiting c k f
  match (s.frag c k f).park with
  | .count _ pa _ _ reg _ _ => s.deregister pa reg
  | .barrier _ =>
    let m := s.memberOf c k
    let g := s.wg c (s.warp c k).wg
    let refs := GroupRef.wg m.task m.linear :: .gang m.task g.unit :: (s.groupsOf m).map .named
    let s := refs.foldl (fun s r =>
      let p := s.phase r
      if p.arrivals.any (fun a => a.who = m && a.frag = f) then
        s.setPhase r (p.drop (fun a => a.who = m && a.frag = f)) else s) s
    let w := s.warp c k
    s.setWarp c k { w with frags := w.frags.map (fun e =>
      (e.1, if e.2.park = .arriveHeld then { e.2 with park := .none } else e.2)) }
  | _ => s

/-- Whether a peer request waits for a warp. -/
def PeerReq.forWarp (r : PeerReq) (c k : Nat) : Bool :=
  match r.waiter with
  | .lane f _ => f.core.val = c && f.slot.val = k
  | .engine _ _ => false

/-- Whether a peer request waits for the fragment in focus. -/
def PeerReq.forFocus (r : PeerReq) (x : Focus) : Bool :=
  match r.waiter with
  | .lane f _ => f.core.val = x.core && f.slot.val = x.slot && f.frag.val = x.frag
  | .engine _ _ => false

/-- Abandons the requests of the instruction whose progress a warp gives up, those that failed and those whose answers it has not
taken, or all its requests when it ends (R253). -/
def State.dropReqs (s : State) (c k : Nat) (all : Bool) : State :=
  let reqs := s.io.reqs.filter (fun e =>
    !(e.2.forWarp c k && (all || e.2.again || (e.2.result.isSome && e.2.forFocus s.focus))))
  { s with io := { s.io with reqs := reqs } }

/-- A context whose reclaim walk has ended, with no free under way and the tree's lock given up (R304, R317). -/
def TreeCtx.endWalk (x : TreeCtx) (d i : Nat) : TreeCtx :=
  { x with walk := none, held := none, freeing := none, lock := if x.lock = some (192, d, i) then none else x.lock }

/-- Clears DMASK and MP (R220, R295). -/
def State.clearProgress (s : State) (c k : Nat) : State :=
  let w := s.warp c k
  (s.setWarp c k { w with progress := {} }).dropReqs c k false

/-- A warp ends (R133): it departs from its groups, its slot is freed, and the tiles that it kept have no keeper
(R296). -/
def State.endWarp (s : State) (c k : Nat) (fault : Bool) : State :=
  let w := s.warp c k
  let g := s.wg c w.wg
  let s := w.frags.foldl (fun s e => s.withdraw c k e.1) s
  let s := s.dropReqs c k true
  let s := s.departAll (s.memberOf c k) g.unit fault
  let s := w.frags.foldl (fun s e => s.freeSplit c (k / 32) e.1) s
  let t := s.task g.task
  let s := s.setTask g.task { t with xst := max t.xst w.xst }
  let g := s.wg c w.wg
  let kept := (g.keeper.filter (fun e => e.2 = w.warpId)).map (fun e => e.1)
  let s := s.setWg c w.wg { g with slots := g.slots.filter (fun x => x != k),
                                   keeper := g.keeper.filter (fun e => e.2 != w.warpId),
                                   written := g.written.filter (fun t => !kept.contains t) }
  s.setCore c { s.core c with warps := Tab.del (s.core c).warps k }

/-- The statuses of a task one of whose warps was ended by a fault (R361). -/
def faultStatus (cause : BitVec 10) : Nat :=
  if cause = 0x303 then 0x61 else if cause = 0x30B then 0x63 else 0x60

/-- A task's first fault status stands (R361). -/
def State.taskFault (s : State) (t status : Nat) (cause : BitVec 10) : State :=
  let x := s.task t
  match x.fault with
  | some _ => s
  | none => s.setTask t { x with fault := some (status, cause) }

/-- A warp ended by fault (R361): the event, the status of its task, and the end of the warp. -/
def State.faultWarp (s : State) (c k : Nat) (cause : BitVec 10) (pc data aux : Word64) : State :=
  let w := s.warp c k
  let s := s.setWarp c k { w with trapCause := cause }
  let s := s.logWarp c k { cause := cause, pc := pc, addr := data, aux := aux }
  let s := s.taskFault (s.wg c w.wg).task (faultStatus cause) cause
  s.endWarp c k true

/-- Ends the handler levels whose lanes have all exited (R131). -/
def endLevels (exited : BitVec 32) (w : Warp) : List Hidden → Warp
  | [] => { w with hidden := [] }
  | h :: hs =>
    if h.mask &&& ~~~exited = 0 then
      endLevels exited { w with
        tokens := w.tokens.filter (fun e => h.tokens.contains e.1)
        frags := w.frags.map (fun e => (e.1,
          if e.2.stopped = some (hs.length + 1) then { e.2 with stopped := none, again := false } else e.2))
        progress := {} } hs
    else { w with hidden := h :: hs }

/-- The lanes of a fragment exit with a status (R131). -/
def State.exitLanes (s : State) (c k key st : Nat) : State :=
  let w := s.warp c k
  let f := s.frag c k key
  let exited := w.exited ||| f.mask
  let levels := w.hidden.length
  let w := { w with exited := exited, xst := max w.xst st, frags := Tab.del w.frags key }
  let w := endLevels exited w w.hidden
  let s := s.setWarp c k w
  let s := if w.hidden.length < levels then s.dropReqs c k false else s
  let s := s.freeSplit c (k / 32) key
  if w.frags.isEmpty then s.endWarp c k false else s.mergeAll c k

/-! ### Taking a trap, and returning from one (R358 to R364). -/

/-- The packet address of the trap handler (R359). -/
def Desc.handler (d : Desc) : Word64 := BitVec.ofNat 64 (d.code + 12 * d.trapIdx)

/-- Handler entry (R359): the trapping fragment goes on at the handler, once every fixed-latency write of the warp has
completed (R100), every other one stops at its next group boundary, and the hidden state is pushed. -/
def State.enterHandler (s : State) (decodeFault : Bool) : State :=
  let w := s.w
  let f := s.f
  let level := w.hidden.length + 1
  let stopped := (w.frags.filter (fun e => e.1 != s.focus.frag && e.2.stopped.isNone)).map (fun e => e.1)
  let h : Hidden := { mask := f.mask, token := f.token, group := if decodeFault then 0 else f.groupNo,
                      decodeFault := decodeFault, trapPc := w.trapPc, later := !f.groups.isEmpty,
                      stopped := stopped, tokens := w.tokens.keys }
  let f' := { f with pc := (s.t.desc).handler, arrived := f.pc, decoded := false, groups := [], groupNo := 0,
                     startGroup := 0, target := none, words := [], flight := none, park := .none, brvWait := false, failed := none
                     nextIssue := w.settled f.nextIssue }
  let frags := w.frags.map (fun e =>
    (e.1, if stopped.contains e.1 then { e.2 with stopped := some level } else e.2))
  s.setW { w with hidden := h :: w.hidden, frags := Tab.set frags s.focus.frag f' }

/-- A class 13 trap with DBGEN = 1 parks the warp for the debugger (R364). -/
def State.debugPark (s : State) : State :=
  let f := s.f
  let s := s.setF { f with decoded := false, groups := [], words := [], target := none, flight := none,
                           park := .none, startGroup := f.groupNo }
  (s.setW { s.w with debugParked := some f.mask }).send (.debug s.focus.core s.focus.slot)

/-- DMASK and MP describe the instruction that trapped most recently (R220, R295, R360): those of another one are gone, and those
of this one wait for a TRET. -/
def State.ownProgress (s : State) (decodeFault : Bool) : Progress :=
  let p := s.w.progress
  if decodeFault || p.pc != s.f.pc || p.pos != s.focus.pos then {} else { p with armed := false }

/-- Taking a trap (R90, R358): the cause, the packet address and the data are recorded, and the trap is disposed of. A fragment that is stopped itself takes it once
it may issue again. `decodeFault` marks a fault under R72 or R64. -/
def State.takeTrap (s : State) (cause : BitVec 10) (data : Word64) (decodeFault : Bool) : State :=
  if s.f.stopped.isSome || s.w.debugParked.isSome then
    { s.setF { s.f with park := .busy, again := true } with focus := { s.focus with out := .waiting } }
  else
  let pc := s.f.pc
  let own := s.ownProgress decodeFault
  let s := s.setW { s.w.settleSpr with trapCause := cause, trapPc := pc, trapData := data, progress := own }
  let s := { s with focus := { s.focus with out := .trapped } }
  if (0x340 ≤ cause && cause < 0x380) && (s.device s.die).dbgen then s.debugPark
  else if cause = 0x303 || cause = 0x304 || cause = 0x30B || s.t.desc.trapIdx = 0xFFFFFFFF then
    s.faultWarp s.focus.core s.focus.slot cause pc data 0
  else if 2 ≤ s.w.hidden.length then
    s.faultWarp s.focus.core s.focus.slot 0x304 pc data (BitVec.ofNat 64 cause.toNat)
  else s.enterHandler decodeFault

/-- The four ways of waiting that make a warp count as parked (R56): on a count word, at a group barrier, in RWAIT, in
SLEEP. -/
def Park.waits : Park → Bool
  | .count _ _ _ _ _ _ _ => true
  | .remoteCount _ _ _ _ => true
  | .barrier _ => true
  | .arriveHeld => true
  | .ring _ _ => true
  | .sleep _ _ => true
  | _ => false

/-- The outcome of a word's result: always a next state. -/
def Res.out : Res → Host.Outcome State Fault Refusal
  | .done s => .next { s with focus := { s.focus with out := .done } }
  | .trap s c d => .next (s.takeTrap c d false)
  | .wait s p =>
    let f := s.f
    let at_ := if p.waits && f.park.waits then f.parkedAt else s.counted s.die
    .next (({ s with focus := { s.focus with out := .waiting } }).setF { f with park := p, parkedAt := at_ })

/-- The fragments that the end of the innermost handler level lets issue again (R363). -/
def Warp.release (w : Warp) (level : Nat) : Tab Frag :=
  w.frags.map (fun e => (e.1, if e.2.stopped = some level then { e.2 with stopped := none, again := false } else e.2))

/-- Return from a trap (R363): the fragment in focus resumes at the trapped group, the next one, or a moved TRAPPC. -/
def State.returnFromTrap (s : State) (next : Bool) : Res :=
  let w := s.w.settleSpr
  match w.hidden with
  | [] => .trap s 0x30A 0
  | h :: hs =>
    let rest := h.mask &&& ~~~w.exited
    if rest &&& ~~~s.active != 0 then .trap s 0x30A 0
    else
      let same := w.trapPc = h.trapPc
      let resume : Word64 × Nat :=
        if !same then (w.trapPc, 0)
        else if !next then (w.trapPc, h.group)
        else if h.decodeFault || !h.later then (w.trapPc + 12, 0)
        else (w.trapPc, h.group + 1)
      let kept := resume = (h.trapPc, h.group)
      let f := s.f
      let f := { f with mask := rest, pc := resume.1, arrived := f.pc, token := h.token, decoded := false,
                        groups := [], groupNo := 0, startGroup := resume.2, target := none, words := [] }
      let w := { w with hidden := hs, tokens := w.tokens.filter (fun e => h.tokens.contains e.1)
                        progress := { w.progress with armed := true } }
      let w := { w with frags := w.release (hs.length + 1) }
      let s := s.setW { w with frags := Tab.set w.frags s.focus.frag f }
      .done (if kept then s else s.clearProgress s.focus.core s.focus.slot)

end Sys2Proof.Machine
end

