-- ==== Sys2Proof/Machine/Translate.lean ====
section
/-! DEFINITION. Page classes, page tables, the TLB, base registers and import entries (R189 to R208). -/

namespace Sys2Proof.Machine

/-! ### Physical regions (R189). -/

def guashSize : Nat := 0x2400000000
def windowBase : Nat := 2 ^ 55

/-- An address in the Guash memory of some die, of a control window, of host memory. -/
def isGuash (pa : Nat) : Bool := pa < 2 ^ 40 && pa % 2 ^ 38 < guashSize
def isWindow (pa : Nat) : Bool := windowBase ≤ pa && pa < windowBase + 2 ^ 32
def isHost (pa : Nat) : Bool := hostBase ≤ pa && pa < 2 ^ 57

/-! ### Page classes (R201 to R205). -/

/-- From this number on, a page is named as a 2 MiB page. -/
def bigPages : Nat := 2 ^ 45

/-- The page that a leaf maps: its 64 KiB frame, or the number of its 2 MiB frame from `bigPages` on. -/
def Leaf.key (l : Leaf) : Nat := if l.big then bigPages + l.pa / 2 ^ 21 else l.pa / 65536

/-- The first and the last 64 KiB frame of a page. -/
def keyFirst (key : Nat) : Nat := if bigPages ≤ key then 32 * (key - bigPages) else key
def keyLast (key : Nat) : Nat := if bigPages ≤ key then 32 * (key - bigPages) + 31 else key

/-- The page of a 64 KiB frame that CT reaches by its physical address. -/
def State.keyAt (s : State) (pfn : Nat) : Nat :=
  if (Tab.find s.classes (bigPages + pfn / 32)).isSome then bigPages + pfn / 32 else pfn

/-- The class recorded for a page. -/
def State.classOf (s : State) (key : Nat) : PageClass := Tab.get s.classes .untouched key

/-- The class after an access by a party (R203). -/
def PageClass.after (c : PageClass) (p : Party) (write : Bool) : PageClass :=
  match c with
  | .untouched => .priv p
  | .priv q => if p = q then c else if write then .shared else .readOnly [q, p]
  | .readOnly ps => if write then .shared else if ps.contains p then c else .readOnly (ps ++ [p])
  | .shared => .shared

/-- The parties that hold a page under a class (R204 step 1). -/
def PageClass.holders : PageClass → List Party
  | .priv p => [p]
  | .readOnly ps => ps
  | _ => []

/-- What a core records of a class (R205). -/
def PageClass.seenBy (c : PageClass) (core : Nat) : SeenClass :=
  match c with
  | .untouched => .unknown
  | .priv p => if p = .core core then .priv else .unknown
  | .readOnly _ => .readOnly
  | .shared => .shared

/-- Whether a base register's run meets a page (R206). -/
def BaseReg.covers (b : BaseReg) (key : Nat) : Bool :=
  0 < b.limit && b.frame / 65536 ≤ keyLast key && keyFirst key ≤ (b.frame + b.limit - 1) / 65536

/-- The warp with every base register that meets a page made invalid (R207). -/
def Warp.dropBase (w : Warp) (key : Nat) : Warp :=
  let fix (b : BaseReg) : BaseReg := if b.covers key then { b with limit := 0 } else b
  { w with
    bregs := w.bregs.map (fun e => (e.1, fix e.2))
    pend := w.pend.map (fun p => match p.write with
      | .b r x => { p with write := .b r (fix x) }
      | _ => p) }

/-- A class change reaches a core: its TLB entries of the page take the class, and its base registers over it are
invalidated (R204, R205, R207). -/
def State.tellCore (s : State) (c key : Nat) (seen : SeenClass) : State :=
  let x := s.core c
  s.setCore c { x with
    tlb := x.tlb.map (fun e => (e.1,
      if e.2.leaf.key = key && !e.2.leaf.peer && e.2.leaf.mt = 0 then { e.2 with seen := seen } else e.2))
    warps := x.warps.map (fun e => (e.1, e.2.dropBase key)) }

/-- The pages that the inbound party records at most (R259). -/
def recordLimit : Nat := 512

/-- The number by which the inbound party's record names a page of a function's address space. -/
def recordKey (fn page : Nat) : Nat := fn * 2 ^ 41 + page

/-- The response to an inbound access carries the page's class into the record, as far as it is PRIVATE (R205, R259). -/
def State.recordPage (s : State) (fn page key : Nat) : State :=
  let t := Tab.del s.io.record (recordKey fn page)
  let t := if s.classOf key = .priv .inbound then t.drop (t.length + 1 - recordLimit) ++ [(recordKey fn page, key)] else t
  { s with io := { s.io with record := t } }

/-- The inbound party learns that a page is PRIVATE to it no longer. -/
def State.unrecord (s : State) (key : Nat) : State :=
  { s with io := { s.io with record := s.io.record.filter (fun e => e.2 != key) } }

/-- The reclassification point (R204): the home records the new class, and every holder learns it. -/
def State.reclassify (s : State) (key : Nat) (c : PageClass) : State :=
  let old := s.classOf key
  let s := { s with classes := Tab.set s.classes key c }
  old.holders.foldl (fun s p => match p with
    | .core n => s.tellCore n key (c.seenBy n)
    | .inbound => s.unrecord key
    | _ => s) s

/-! ### L1 copies of lines (R192, R203). The bytes of a copy are those of memory: a SHARED line is written only by its owner,
a PRIVATE page only by its core, and a class change writes dirty lines back before another party sees them. -/

/-- The lines that a core's L1 holds at most. -/
def l1Lines : Nat := 2048

/-- The directory's map of a line's copies: the cores whose L1 holds one (R192). -/
def State.copiesOf (s : State) (line : Nat) : List Nat :=
  (s.cores.filter (fun e => (Tab.find e.2.l1 line).isSome)).map (fun e => e.1)

/-- The state with the L1 copies changed of every core that holds any. -/
def State.mapL1 (s : State) (f : Tab Bool → Tab Bool) : State :=
  { s with cores := s.cores.map (fun e => (e.1, { e.2 with l1 := f e.2.l1 })) }

/-- The copies of the lines from `a` to `b` are invalidated. -/
def State.dropLines (s : State) (a b : Nat) : State := s.mapL1 (fun t => t.filter (fun e => e.1 < a || b < e.1))

/-- The copies of the lines of a page are invalidated. -/
def State.dropPage (s : State) (key : Nat) : State := s.dropLines (512 * keyFirst key) (512 * keyLast key + 511)

/-- Nobody owns a line any more: its owner has written it back. -/
def State.shareLine (s : State) (line : Nat) : State :=
  s.mapL1 (fun t => t.map (fun e => (e.1, e.2 && e.1 != line)))

/-- A core's L1 takes a line; a full one gives up the line that its replacement names. -/
def State.fillLine (s : State) (c line : Nat) (owned : Bool) : State :=
  let x := s.core c
  let t := if x.l1.length < l1Lines then x.l1
    else x.l1.eraseIdx (Config.l1Victim line % x.l1.length)
  s.setCore c { x with l1 := Tab.set t line owned }

/-- The bits that HARVEST reads of a frame are set (R214). -/
def State.markUsed (s : State) (pfn : Nat) (accessed dirty : Bool) : State :=
  { s with accessed := if accessed then addNat s.accessed pfn else s.accessed,
           dirty := if dirty then addNat s.dirty pfn else s.dirty }

/-- Whether an access of a party is served by L1 alone: a read of a line that the core holds, or a write of one that it owns
or that lies in a PRIVATE page (R202, R203). `mine` marks a page that is PRIVATE to the core. -/
def State.l1Hit (s : State) (core : Option Nat) (mine write : Bool) (pa : Nat) : Bool :=
  match core with
  | none => false
  | some c => match Tab.find (s.core c).l1 (pa / 128) with
    | none => false
    | some owned => !write || owned || mine

/-- What the caches and the directory do at an access (R192, R203, R214). A hit asks the home for nothing, but for the notice
of an owner's first write to a PRIVATE page. A read or write of a core is an L1 fill or an ownership grant; any other access
is performed at the home slice, after an owner's line is written back and, if it writes, the copies are invalidated. -/
def State.cacheAccess (s : State) (core : Option Nat) (mine write : Bool) (pa : Nat) : State :=
  let line := pa / 128
  let pfn := pa / 65536
  if s.l1Hit core mine write pa then if write && mine then s.markUsed pfn false true else s
  else
    let s := s.markUsed pfn true write
    match core with
    | none => if write then s.dropLines line line else s.shareLine line
    | some c =>
      if mine then s.fillLine c line false
      else if write then (s.dropLines line line).fillLine c line true
      else (s.shareLine line).fillLine c line false

/-- The TLB entry that translates an address: a 2 MiB leaf has one entry, at its first 64 KiB (R208). -/
def Core.tlbAt (x : Core) (va : Nat) : Option TlbEntry :=
  match Tab.find x.tlb (va / 2 ^ 21 * 32) with
  | some e =>
    if e.leaf.big then some { e with leaf := { e.leaf with pa := e.leaf.pa + va / 65536 % 32 * 65536 } }
    else Tab.find x.tlb (va / 65536)
  | none => Tab.find x.tlb (va / 65536)

/-- The place of a leaf's entry in a TLB. -/
def Leaf.tlbKey (l : Leaf) (va : Nat) : Nat := if l.big then va / 2 ^ 21 * 32 else va / 65536

/-- Whether an access is to a page, as a core translates it. -/
def Core.reqOf (x : Core) (key : Nat) (r : LaneReq) : Bool :=
  !r.scr && match r.via, x.tlbAt r.va with
    | some e, _ => e.leaf.key == key
    | none, some e => e.leaf.key == key
    | none, none => false

/-- Whether an instruction in progress is making its accesses to a page: those of the page that it has come to (R219), not
one that waits for a class change or, its fragment stopped, is deferred. -/
def Frag.atPage (f : Frag) (x : Core) (key : Nat) : Bool :=
  !f.again && (match f.park with | .reclass _ => false | _ => true) && match f.flight with
    | some fl => if fl.free then fl.reqs.any (x.reqOf key) else (fl.reqs.head?.map (x.reqOf key)).getD false
    | none => false

/-- The page that the inbound party has recorded for a page of a function's address space; the record stands in the order of its
use, not of its keys. -/
def State.recorded (s : State) (fn page : Nat) : Option Nat :=
  (s.io.record.find? (fun e => e.1 == recordKey fn page)).map (fun e => e.2)

/-- Whether a piece of an inbound write lies in a page that its party has recorded as PRIVATE: such pieces are on their way
(R259). -/
def State.pieceIn (s : State) (fn key va : Nat) : Bool := s.recorded fn (va / 65536) == some key

/-- Whether a party has accesses to a page under way (R204 step 1). -/
def State.outstanding (s : State) (p : Party) (key : Nat) : Bool :=
  match p with
  | .core n => (s.core n).warps.any (fun e => e.2.frags.any (fun g => g.2.atPage (s.core n) key))
  | .inbound => s.io.inbound.any (fun w => w.pieces.any (fun e => s.pieceIn w.fn key e.1))
  | _ => false

/-- Whether a party asked to drain still has accesses under the old class to make. -/
def State.draining (s : State) (p : Party) (key : Nat) : Bool :=
  match p with
  | .core n => (s.core n).warps.any (fun e => e.2.frags.any (fun g => !g.2.again && match g.2.flight with
      | some fl => fl.drains.contains key && fl.reqs.any ((s.core n).reqOf key)
      | none => false))
  | .inbound => s.io.inbound.any (fun w => w.drains.contains key && w.pieces.any (fun e => s.pieceIn w.fn key e.1))
  | _ => false

/-- The change is sent to the holders that have accesses under way (R204 step 1): those accesses, and no others, go on under
the old class. -/
def State.askDrain (s : State) (key : Nat) (r : Reclass) : State :=
  r.awaiting.foldl (fun s p => match p with
    | .core n =>
      let x := s.core n
      s.setCore n { x with warps := x.warps.map (fun e => (e.1, { e.2 with frags := e.2.frags.map (fun g =>
        (g.1, if g.2.atPage x key then
          { g.2 with flight := g.2.flight.map (fun fl => { fl with drains := key :: fl.drains }) } else g.2)) })) }
    | .inbound => { s with io := { s.io with inbound := s.io.inbound.map (fun w =>
        if w.pieces.any (fun e => s.pieceIn w.fn key e.1) then { w with drains := key :: w.drains } else w) } }
    | _ => s) { s with reclass := Tab.set s.reclass key r }

/-! ### Walks (R193 to R196). -/

/-- What a walk ends in (R208). -/
inductive Walk where
  | leaf (l : Leaf)
  | absent (pgr : Nat)
  | error
  | lost (pa : Nat)      -- an entry whose line holds an error that its code cannot correct (R191)
  | host                 -- an entry in host memory whose completion carries an error (R262)
  | full                 -- a miss of a core that has as many on their way as it may (R208)
  deriving DecidableEq, Repr, Inhabited

/-- The 64 KiB leaf of an entry with V = 1, at level 1 (`large`) or in a 32-entry table, for index `i` of 32 (R194,
R196). -/
def leafOf (dev : Nat) (large : Bool) (i e : Nat) : Walk :=
  let cls := bitsOf e 5 4
  let mt := bitsOf e 9 8
  let pa := bitsOf e 56 16 * 65536 + if large then i * 65536 else 0
  let w := bitOf e 2
  let cnt := bitOf e 6
  if bitsOf e 15 10 != 0 || bitsOf e 63 57 != 0 || cls = 3 || mt = 3 || (w && cls = 1) then .error
  else if bitOf e 7 then
    if large || cls != 0 || cnt || mt != 0 then .error
    else .leaf { w := w, x := bitOf e 3, peer := true, imp := bitsOf e 31 16, ipage := bitsOf e 56 32 }
  else if large && bitsOf e 20 16 != 0 then .error
  else if (mt = 0 && !(isGuash pa && pa / 2 ^ 38 = dev)) || (mt = 1 && !isHost pa) || (mt = 2 && !isWindow pa) then
    .error
  else .leaf { pa := pa, big := large, w := w, x := bitOf e 3, cls := cls, cnt := cnt, mt := mt }

/-- Whether a table may stand at an address (R196). -/
def tableAt (pa align : Nat) : Bool := pa % align = 0 && (isGuash pa || isHost pa)

/-- Whether a line that an access touches holds an error that its code cannot correct (R191, R355). -/
def State.lineLost (s : State) (pa n : Nat) : Bool :=
  s.lost.contains (pa / 128) || s.lost.contains ((pa + n - 1) / 128)

/-- What an entry of a table says: the walk ends, or goes on in the table at an address. `shift` is its index shift: 48 for
level 4 down to 21 for level 1, 16 in a table of 32 leaves. -/
inductive WalkStep where
  | ends (w : Walk)
  | next (pa : Nat)
  deriving DecidableEq, Repr, Inhabited

def walkStep (dev va shift e : Nat) : WalkStep :=
  if !bitOf e 0 then .ends (.absent (bitsOf e 15 8))
  else if shift = 16 then .ends (if bitOf e 1 then leafOf dev false (va / 65536 % 32) e else .error)
  else if bitOf e 1 then .ends (if shift = 21 then leafOf dev true (va / 65536 % 32) e else .error)
  else if bitsOf e 7 2 != 0 || bitsOf e 63 57 != 0 then .ends .error
  else
    let next := bitsOf e 56 8 * 256
    if tableAt next (if shift = 21 then 256 else 4096) then .next next else .ends .error

/-- The leaves of a page table that map a 64 KiB frame, each with the page of its TLB entry: those below the table at `pa`, which
maps the addresses from `va` on. -/
def State.leavesAt (s : State) (dev pfn va pa : Nat) : List Nat → List (Nat × Leaf)
  | [] => []
  | shift :: rest =>
    (s.mem.filter (fun c => pa ≤ c.1 && c.1 < pa + 8 * (if shift = 16 then 32 else 512) && (c.1 - pa) % 8 = 0 && c.2.getLsbD 0)).flatMap
      (fun c =>
        let va := va + (c.1 - pa) / 8 * 2 ^ shift
        match walkStep dev va shift (Memory.read s.mem c.1 8) with
        | .next pa => s.leavesAt dev pfn va pa rest
        | .ends (.leaf l) =>
          if !l.peer && l.mt = 0 && keyFirst l.key ≤ pfn && pfn ≤ keyLast l.key then [(va / 65536, l)] else []
        | .ends _ => [])

/-- The index shifts of a whole walk. -/
def walkLevels : List Nat := [48, 39, 30, 21, 16]

/-- The mappings of a frame of Guash, by the page table of the logical device whose memory it lies in (R194). -/
def State.mappingsOf (s : State) (pfn : Nat) : List (Nat × Leaf) :=
  let dev := homeDie (65536 * pfn)
  let root := (s.device dev).ptroot
  if root = 0 || !tableAt root 4096 then [] else s.leavesAt dev pfn 0 root walkLevels

/-- The page that CT reaches by the physical address of a frame, with its mappings named: it is UNTOUCHED where it is mapped and no
access has come to it (R201). -/
def State.ctPage (s : State) (pfn : Nat) : Nat × State :=
  let key := s.keyAt pfn
  if (Tab.find s.mapped key).isSome then (key, s)
  else match s.mappingsOf pfn with
    | [] => (key, s)
    | (page, l) :: others =>
      let names := (page, l) :: others.filter (fun e => e.2.key = l.key)
      (l.key, { s with classes := Tab.del s.classes l.key
                       mapped := Tab.set s.mapped l.key (names.map (fun e => (homeDie l.pa, e.1))) })

/-- CT's access to a frame of Guash by its physical address (R201). It waits for no class change (log 45): it is performed
now, and a change that it causes takes place with it. -/
def State.ctAccess (s : State) (pa : Nat) (write : Bool) : State :=
  let (key, s) := s.ctPage (pa / 65536)
  let s := match Tab.find s.reclass key with
    | some r => if r.made then s else { s with reclass := Tab.set s.reclass key { r with new := r.new.after .ct write } }
    | none => s
  let c := s.classOf key
  let c' := c.after .ct write
  let changes := c' != c && ((Tab.find s.reclass key).map (fun r => r.made)).getD true
  let s := if !changes then s
    else match c, c' with
      | .readOnly _, .readOnly _ => { s with classes := Tab.set s.classes key c' }
      | .readOnly _, _ => (s.dropPage key).reclassify key c'
      | _, _ => s.reclassify key c'
  s.cacheAccess none false write pa

/-- A read of host memory that a step makes for itself ends, well or with an error (R262). -/
def State.hostEnds (s : State) : Bool × State :=
  (!Config.hostFails s.io.nextReq, { s with io := { s.io with nextReq := s.io.nextReq + 1 } })

/-- The address of the entry that a walk reads in the table at `pa`. -/
def entryAt (va shift pa : Nat) : Nat := pa + 8 * (va / 2 ^ shift % if shift = 16 then 32 else 512)

/-- One entry of a walk, read by CT as one 8-byte operation of the interleaving (R193, R201, R320). -/
def State.walkEntry (s : State) (dev va shift pa : Nat) : WalkStep × State :=
  let at_ := entryAt va shift pa
  if isGuash at_ then
    (if s.lineLost at_ 8 then .ends (.lost at_) else walkStep dev va shift (Memory.read s.mem at_ 8), s.ctAccess at_ false)
  else
    let (ok, s) := s.hostEnds
    (if ok then walkStep dev va shift (Memory.read s.mem at_ 8) else .ends .host, s)

/-- The rest of a walk from the table at `pa` (R193 to R196): `levels` are the index shifts still to take. -/
def State.walkFrom (s : State) (dev va pa : Nat) : List Nat → Walk × State
  | [] => (.error, s)
  | shift :: rest => match s.walkEntry dev va shift pa with
    | (.ends w, s) => (w, s)
    | (.next pa, s) => s.walkFrom dev va pa rest

/-- A walk has been completed (R200). -/
def State.countWalk (s : State) (dev : Nat) : State :=
  let d := s.device dev
  s.setDevice dev { d with walks := (d.walks + 1) % 2 ^ 32 }

/-- A whole walk of the page table of a logical device (R193, R200). -/
def State.walkTable (s : State) (dev va : Nat) : Walk × State :=
  let d := s.device dev
  let s := s.countWalk dev
  if d.ptroot = 0 then (.absent 0, s)
  else if !tableAt d.ptroot 4096 then (.error, s)
  else s.walkFrom dev va d.ptroot walkLevels

/-- The walk of a party without a TLB: one that has begun for the page goes on where it is (R320). -/
def State.walkOn (s : State) (dev va : Nat) : Walk × State :=
  let d := s.device dev
  match d.walking.find? (fun j => j.page = va / 65536) with
  | none => s.walkTable dev va
  | some j =>
    let s := s.setDevice dev { d with walking := d.walking.filter (fun i => i.page != j.page) }
    match j.found with
    | some l => (.leaf l, s)
    | none => (s.countWalk dev).walkFrom dev va j.table j.levels

/-- A walk of a party without a TLB begins, or reads its next entry, one operation of the interleaving (R320). What is not a leaf the
access that needs it finds itself. -/
def State.walkAhead (s : State) (dev page : Nat) : State :=
  let d := s.device dev
  let others := d.walking.filter (fun i => i.page != page)
  let put (s : State) (l : List WalkJob) : State := s.setDevice dev { s.device dev with walking := l }
  match d.walking.find? (fun j => j.page = page) with
  | none =>
    if d.ptroot = 0 || !tableAt d.ptroot 4096 || 2 ^ 41 ≤ page then s
    else put s (others ++ [{ page := page, table := d.ptroot, levels := walkLevels }])
  | some j => match j.found, j.levels with
    | none, shift :: rest => match s.walkEntry dev (65536 * page) shift j.table with
      | (.ends (.leaf l), s) => put (s.countWalk dev) (others ++ [{ j with levels := [], found := some l }])
      | (.ends _, s) => put s others
      | (.next pa, s) => put s (others ++ [{ j with table := pa, levels := rest }])
    | _, _ => s

/-- The upcall entry of a page, if it has one. -/
def Device.upcallOf (x : Device) (page : Nat) : Option Nat :=
  (x.upcalls.find? (fun e => e.2.page = page)).map (fun e => e.1)

/-- The pager of a page that has an upcall entry: the page is not present to any party until PGSUPPLY, whatever its leaf
says by then (R212, R324). -/
def State.shut (s : State) (dev va : Nat) : Option Nat :=
  ((s.device dev).upcallOf (va / 65536)).map (fun i => (Tab.get (s.device dev).upcalls {} i).pgr)

/-- The translation of an address for a party without a TLB. -/
def State.walk (s : State) (dev va : Nat) : Walk × State :=
  match s.shut dev va with
  | some pgr => (.absent pgr, s)
  | none => s.walkOn dev va

/-- The class that a leaf fixes, if it does (R201, R333). -/
def Leaf.fixed (l : Leaf) : Option SeenClass :=
  if l.peer || l.mt != 0 || l.cnt || l.cls = 2 then some .shared
  else if l.cls = 1 then some .readOnly else none

/-- The result of a walk reaches a core: a leaf enters the TLB, with its class unknown unless CLS fixes it (R205, R208). -/
def State.enterTlb (s : State) (c va : Nat) (w : Walk) : State :=
  match w with
  | .leaf l =>
    let x := s.core c
    let t := if x.tlb.length < 2048 then x.tlb else x.tlb.tail
    let first := { l with pa := if l.big then l.pa / 2 ^ 21 * 2 ^ 21 else l.pa }
    s.setCore c { x with tlb := Tab.set t (l.tlbKey va) ⟨first, l.fixed.getD .unknown⟩ }
  | _ => s

/-- The misses that a core keeps in flight at most (R208). -/
def missLimit : Nat := 8

/-- The page by whose number a miss that waits for another one is held. -/
def missPage : Nat := 2 ^ 46

/-- Whether an access of a core to a page would be a ninth miss (R208). -/
def State.missFull (s : State) (c va : Nat) : Bool :=
  let x := s.core c
  missLimit ≤ x.walks.length && (s.shut (dieOf c) va).isNone && (x.tlbAt va).isNone && x.walks.all (fun j => j.page != va / 65536)

/-- The walk of a core's miss: one that is on its way goes on where it is, and a ninth one waits (R208). -/
def State.missWalk (s : State) (c va : Nat) : Walk × State :=
  let x := s.core c
  let l := x.walks
  match l.find? (fun j => j.page = va / 65536) with
  | some j => ((s.setCore c { x with walks := l.filter (fun i => i.page != j.page) }).countWalk (dieOf c)).walkFrom
      (dieOf c) va j.table j.levels
  | none => if missLimit ≤ l.length then (.full, s) else s.walkTable (dieOf c) va

/-- A translation through a core's TLB; a miss is walked (R208). -/
def State.tlbWalk (s : State) (c va : Nat) : Walk × State :=
  match s.shut (dieOf c) va, (s.core c).tlbAt va with
  | some pgr, _ => (.absent pgr, s)
  | none, some e => (.leaf e.leaf, s)
  | none, none =>
    let (w, s) := s.missWalk c va
    (w, s.enterTlb c va w)

/-- A miss in flight reads its next entry; a leaf enters the TLB, and of any other result the access that needs it learns when
it is made (R208, R320). -/
def State.stepWalk (s : State) (c : Nat) (j : WalkJob) : State :=
  let others := (s.core c).walks.filter (fun i => i.page != j.page)
  let put (s : State) (l : List WalkJob) : State := s.setCore c { s.core c with walks := l }
  match j.levels with
  | [] => put s others
  | shift :: rest => match s.walkEntry (dieOf c) (65536 * j.page) shift j.table with
    | (.ends w, s) => (put s others).countWalk (dieOf c) |>.enterTlb c (65536 * j.page) w
    | (.next pa, s) => put s (others ++ [{ j with table := pa, levels := rest }])

/-- The response to an access carries the page's class into the core's TLB entry (R205). -/
def State.learn (s : State) (c va : Nat) (l : Leaf) : State :=
  let x := s.core c
  match Tab.find x.tlb (l.tlbKey va) with
  | some e =>
    if e.leaf.fixed.isSome then s
    else s.setCore c { x with tlb := Tab.set x.tlb (l.tlbKey va) { e with seen := (s.classOf l.key).seenBy c } }
  | none => s

/-- A base register whose run meets `n` pages from `page` on is invalidated (R207). -/
def BaseReg.inval (b : BaseReg) (page n : Nat) : BaseReg :=
  if b.vbase.toNat < (page + n) * 65536 && page * 65536 < b.vbase.toNat + b.limit then { b with limit := 0 } else b

/-- An access that has not been made yet takes its translation anew. -/
def Flight.inval (fl : Flight) (page n : Nat) : Flight :=
  { fl with reqs := fl.reqs.map (fun r =>
      if page ≤ r.va / 65536 && r.va / 65536 < page + n then { r with via := none } else r) }

/-- A warp without the translations of `n` pages. -/
def Warp.inval (w : Warp) (page n : Nat) : Warp :=
  { w with
    bregs := w.bregs.map (fun b => (b.1, b.2.inval page n))
    pend := w.pend.map (fun p => match p.write with
      | .b r b => { p with write := .b r (b.inval page n) }
      | _ => p)
    frags := w.frags.map (fun f => (f.1, { f.2 with flight := f.2.flight.map (fun fl => fl.inval page n) })) }

/-- Removes every translation of `n` pages of a logical device from the cores of its die, and the code words cached under
them (R197, R207). -/
def State.invalRange (s : State) (dev page n : Nat) : State :=
  let out (p : Nat) : Bool := p < page || page + n ≤ p
  let meets (e : Nat × TlbEntry) : Bool := e.1 < page + n && page < e.1 + if e.2.leaf.big then 32 else 1
  let d := s.device dev
  { s.setDevice dev { d with walking := d.walking.filter (fun j => out j.page) } with
    io := { s.io with record := s.io.record.filter (fun e => e.1 / 2 ^ 41 != dev || out (e.1 % 2 ^ 41)) }
    cores := s.cores.map (fun c =>
      if dieOf c.1 = dev then (c.1, { c.2 with
        tlb := c.2.tlb.filter (fun e => !meets e)
        walks := c.2.walks.filter (fun j => out j.page)
        icache := c.2.icache.filter (fun e => out (e.1 / 65536))
        warps := c.2.warps.map (fun w => (w.1, w.2.inval page n)) })
      else c) }

/-! ### Who waits for a class change (R204). -/

/-- Who waits, by fragment or engine item. -/
def Waiter.item : Waiter → Waiter
  | .lane f _ => .lane f 0
  | w => w

/-- An item of the device that a class change does not hold: a backing page, a logged store, the end of an item without its core. -/
def Waiter.unnamed : Waiter → Bool
  | .lane _ _ => false
  | .engine c k => c < 192 && 33 ≤ k && k < 1000

/-- Whether a task's hold still stands. -/
def State.stillHeld (s : State) (x : Task) : Bool :=
  match x.hold with
  | some h => if h.entry = 64 then 64 ≤ (s.device h.dev).upcalls.length else (Tab.find (s.device h.dev).upcalls h.entry).isSome
  | none => false

/-- Whether an address of a logical device lies in a page. -/
def State.inPage (s : State) (dev va key : Nat) : Bool :=
  match (s.walkTable dev va).1 with
  | .leaf l => l.key == key
  | _ => false

/-- The number by which a request of another module is named as a waiter. -/
def PeerIn.code (r : PeerIn) : Nat :=
  ((r.srcMod.toNat * 4 + r.srcDev.val) * 4 + r.dev.val) * 2 ^ 17 + (r.tag.map (fun t => t.toNat)).getD (2 ^ 16)

/-- Whether a fragment or an item still waits for the change of a page's class that has held it. -/
def State.stillWaits (s : State) (key : Nat) : Waiter → Bool
  | .lane f _ => match Tab.find (s.warp f.core f.slot).frags f.frag with
    | some x => match x.park with
      | .reclass p => p = key || (x.flight.map (fun fl => fl.reqs.any ((s.core f.core).reqOf key))).getD false
      | _ => false
    | none => false
  | .engine c k =>
    if c < 192 then
      if k < 32 then match Tab.find (s.core c).copies k with
        | some x => x.failed.isNone && x.held.isNone
        | none => false
      else if k = 32 then !(s.core c).shuffles.isEmpty
      else 1000 ≤ k && match Tab.find s.tasks (k - 1000) with
        | some x => bitsOf (x.word 0) 5 4 = 2 && x.phase = .running && x.hold.isNone
        | none => false
    else if c < 196 then
      let x := Tab.get (s.device (c - 192)).spinel.ctxs {} k
      x.walk.isSome && x.held.isNone
    else if c = 196 then
      if k < 4 then (s.device k).mgo && (s.device k).mcmd.op = 2
      else s.tasks.any (fun t => t.2.dev = k - 4 && t.2.phase = .eligible && !s.stillHeld t.2)
    else if c = 197 then
      s.io.inbound.any (fun w => w.fn = k && w.pieces.any (fun e => s.inPage k e.1 key)) ||
      s.io.reading.any (fun r => r.fn = k && r.pieces.any (fun e => s.inPage k e.1 key))
    else s.io.heldPeers.any (fun e => PeerIn.code e.1 = k && s.inPage e.1.dev.val e.1.va.toNat key)

/-- An access takes its place behind those that wait for the page. -/
def Reclass.join (r : Reclass) (w : Waiter) : Reclass :=
  if w.unnamed || r.queue.contains w.item then r else { r with queue := r.queue ++ [w.item] }

/-- Whether a class change of a page is under way, or accesses that it has held are still to come (R204). -/
def State.changing (s : State) (key : Nat) : Bool :=
  match Tab.find s.reclass key with
  | some r => !r.made || r.queue.any (s.stillWaits key)
  | none => false

/-- An access that nothing goes before (R203): a read of a READONLY page joins its set; a change that finds every holder
drained happens at once; otherwise it stays under way, and the access waits. A write to a READONLY page comes after every copy
of its lines is gone. `queue` waits behind it. -/
def State.classNow (s : State) (p : Party) (w : Waiter) (key : Nat) (write : Bool) (queue : List Waiter) : Bool × State :=
  let c := s.classOf key
  let c' := c.after p write
  let s := { s with reclass := if queue.isEmpty then Tab.del s.reclass key
                               else Tab.set s.reclass key { new := c, made := true, queue := queue } }
  if c' = c then (true, s)
  else match c, c' with
    | .readOnly _, .readOnly _ => (true, { s with classes := Tab.set s.classes key c' })
    | _, _ =>
      let waits := c.holders.filter (fun q => q != p && s.outstanding q key)
      if !waits.isEmpty then (false, s.askDrain key { awaiting := waits, new := c', queue := w.item :: queue })
      else
        let s := match c with | .readOnly _ => s.dropPage key | _ => s
        (true, s.reclassify key c')

/-- An access of a party to a classified page (R203, R204): `true` when it may be performed now. While a change is under way
only the accesses that it drains are performed; after its point, the accesses that it has held come first, the one that
caused it before the others. `drains` are the pages that the access's instruction drains. -/
def State.classAccess (s : State) (p : Party) (w : Waiter) (drains : List Nat) (key : Nat) (write : Bool) : Bool × State :=
  match Tab.find s.reclass key with
  | none => s.classNow p w key write []
  | some r =>
    if !r.made then (if drains.contains key then (true, s) else (false, { s with reclass := Tab.set s.reclass key (r.join w) }))
    else
      let q := r.queue.filter (fun x => x == w.item || s.stillWaits key x)
      match q with
      | [] => s.classNow p w key write []
      | x :: rest =>
        if x == w.item then s.classNow p w key write rest
        else (false, { s with reclass := Tab.set s.reclass key ({ r with queue := q }.join w) })

/-- A page that no mapping has a class under is UNTOUCHED when it is accessed through a new one (R201). -/
def State.nameMapping (s : State) (key dev page : Nat) : State :=
  match Tab.find s.mapped key with
  | none => { s with classes := Tab.del s.classes key, mapped := Tab.set s.mapped key [(dev, page)] }.dropPage key
  | some l => if l.contains (dev, page) then s else { s with mapped := Tab.set s.mapped key (l ++ [(dev, page)]) }

/-- The import entry of a peer leaf, when it is valid and the page lies in it (R198, R199). -/
def State.importOf (s : State) (dev : Nat) (l : Leaf) : Option Import :=
  if 1024 ≤ l.imp then none
  else
    let e := Tab.get s.io.imports {} (dev * 1024 + l.imp)
    if !e.v || e.rlen ≤ l.ipage then none else some e

/-- Whether a virtual address leaves the 57-bit space (R186). -/
def nonCanon (va : Nat) : Bool := 2 ^ 57 ≤ va

end Sys2Proof.Machine
end

