-- ==== Sys2Proof/Machine/Registers.lean ====
section
/-! DEFINITION. The control windows (R393): what a read of each register returns, and what a write does. -/

namespace Sys2Proof.Machine

/-- The 32-bit counters that stop at their greatest value. -/
def bump32 (n : Nat) : Nat := min (n + 1) (2 ^ 32 - 1)

/-! ### Values that are computed from other state. -/

/-- The priority of a task's packet (R13). -/
def Task.prio (t : Task) : Nat := bitsOf (t.words.getD 0 0).toNat 10 8

/-- The effective priority of a task (R55). -/
def State.effPrio (s : State) (d t : Nat) : Nat :=
  let x := s.device d
  let k := s.task t
  if x.ageen then min 7 (k.prio + (s.now - k.since) / 2 ^ x.agesh) else k.prio

/-- The records and tasks that fill a completion ring (R36); its counts are free-running, of 32 bits (R32). -/
def Queue.room (q : Queue) : Nat := q.taken + (q.qctail + 2 ^ 32 - q.qchead) % 2 ^ 32

/-- Whether a park is a wait that a halt finds at rest: one whose accesses are all made, or held on an upcall entry. -/
def Park.atRest : Park → Bool
  | .none => false
  | .join _ => true
  | .busy => false
  | .pager _ => true
  | .reclass _ => false
  | .logFull _ => false
  | .count _ _ _ _ _ _ _ => true
  | .remoteCount _ _ _ _ => true
  | .barrier _ => true
  | .arriveHeld => true
  | .ring _ _ => true
  | .sleep _ _ => true
  | .peer _ => false
  | .host _ => false

/-- Whether a warp has stopped in a halt: each fragment stands at a group boundary or waits, and every write that it has issued
has completed (R100, R373). -/
def Warp.stopped (w : Warp) (now : Nat) : Bool :=
  w.pend.all (fun p => p.due ≤ now) && w.memq.all (fun e => e.1 ≤ now) &&
  w.frags.all (fun g => g.2.words.isEmpty || g.2.park.atRest)

/-- Whether every core of a halted die has stopped (R373). -/
def State.halted (s : State) (d : Nat) : Bool :=
  (s.device d).dhalt && (coresOf d).all (fun c => (s.core c).warps.all (fun e => e.2.stopped s.now))

/-! ### Reading (R393). -/

/-- The queue register block (R32). -/
def Queue.readReg (q : Queue) (o : Nat) : Nat :=
  match o with
  | 0x00 => q.qbase
  | 0x08 => q.slog + q.clog * 16 + bit q.en * 256 + bit q.src * 512
  | 0x10 => q.qtail
  | 0x18 => q.qhead
  | 0x20 => q.qret
  | 0x28 => q.qnextseq
  | 0x30 => q.qcbase
  | 0x38 => q.qctail
  | 0x40 => q.qchead
  | 0x48 => q.qcseq
  | 0x50 => bit q.ovf + bit q.seqerr * 2 + bit q.ign * 4 +
      bit (q.en && q.qhead != q.qtail && 2 ^ q.clog ≤ q.room) * 8 + bit q.cfgerr * 16
  | _ => 0

/-- A held-task slot as HTSLOT shows it (R43). -/
def HeldSlot.read (h : HeldSlot) : Nat :=
  h.gen + h.early * 2 ^ 16 + (if h.task.isSome then h.rem else 0) * 2 ^ 32 + bit h.task.isSome * 2 ^ 48 +
    bit h.failed * 2 ^ 49

/-- An import entry (R199). -/
def Import.readReg (e : Import) (o : Nat) : Nat :=
  match o with
  | 0x00 => e.rbase
  | 0x08 => e.rmod + e.rdev * 2 ^ 16 + bit e.wr * 2 ^ 18 + bit e.v * 2 ^ 19
  | 0x10 => e.rlen
  | _ => 0

/-- An Abian port's registers (R252). -/
def Port.readReg (p : Port) (o : Nat) : Nat :=
  match o with
  | 0x00 => bit p.en + bit p.force * 2 + p.state * 4 + bit p.downev * 16
  | 0x08 => p.peermod + p.peerport * 2 ^ 16
  | 0x10 => p.crcerr + p.retrains * 2 ^ 32
  | 0x18 => p.replays + p.longest * 2 ^ 32
  | _ => 0

/-- The module block and the mailbox (R381, R393, R394). -/
def State.readModule (s : State) (o : Nat) : Nat :=
  let m := s.module
  if 0x1040 ≤ o && o < 0x1060 then bytesNat ((m.nonce.drop (o - 0x1040)).take 8)
  else if 0x1100 ≤ o && o < 0x1200 then bytesNat ((m.report.drop (o - 0x1100)).take 8)
  else match o with
  | 0x00 => m.elbase
  | 0x08 => m.ellog + bit m.elen * 32 + m.elvec * 64 + bit m.elien * 2 ^ 17
  | 0x10 => m.elseq
  | 0x18 => m.eltail
  | 0x20 => m.elhead
  | 0x28 => m.ellost
  | 0x30 => bit (s.device 0).drst + bit (s.device 1).drst * 2 + bit (s.device 2).drst * 4 + bit (s.device 3).drst * 8
  | 0x38 => m.plim + m.clkMhz * 2 ^ 16 + bit m.throt * 2 ^ 28
  | 0x40 => m.scrubp + m.cethr * 2 ^ 8
  | 0x48 => bit m.ready + bit m.recovery * 2 + bit m.slot * 4 + m.rollback * 2 ^ 16 + m.fwver * 2 ^ 32
  | 0x1000 => m.mbcmd + bit m.mbgo * 16 + m.mbst * 256
  | 0x1008 => m.mbaddr
  | 0x1010 => m.mblen
  | _ => 0

/-- The registers of IO and the module block, which stand in the window of CD0 alone (R393). -/
def State.readIo (s : State) (o : Nat) : Nat :=
  if 0x40000 ≤ o && o < 0x60000 then
    (Tab.get s.io.imports {} ((o - 0x40000) / 0x20)).readReg (o % 0x20)
  else if 0x30000 ≤ o && o < 0x32000 then s.readModule (o - 0x30000)
  else if 0x21000 ≤ o && o < 0x30000 then
    let m := (o - 0x21000) / 4
    Tab.get s.io.routes 0 m + Tab.get s.io.routes 0 (m + 1) * 2 ^ 32
  else if o = 0x20800 then s.io.mymod
  else if o = 0x20400 then s.io.ptmo
  else if 0x20000 ≤ o && o < 0x20400 then (s.port ((o - 0x20000) / 0x40)).readReg (o % 0x40)
  else 0

/-- The 64-bit register at an 8-byte aligned offset of a device's control window; what is not listed reads zero
(R393). -/
def State.readReg (s : State) (d o : Nat) : Nat :=
  let x := s.device d
  if 0x20000 ≤ o then (if d = 0 then s.readIo o else 0)
  else if 0x10000 ≤ o && o < 0x11000 then (s.queue d ((o - 0x10000) / 0x80)).readReg (o % 0x80)
  else if 0x8000 ≤ o && o < 0x8100 then
    let q := s.queue d ((o - 0x8000) / 8)
    q.ivec + bit q.ien * 2 ^ 11 + q.icoal * 2 ^ 12
  else match o with
  | 0x8800 => x.mop + bit x.mgo * 16 + x.mst * 32
  | 0x8808 => x.mva
  | 0x8810 => x.mlen
  | 0x8818 => x.marg
  | 0x9000 => x.pdl
  | 0x9008 => x.pcore + x.pwg * 256 + bit (!x.preq.isEmpty) * 2 ^ 13 + bit x.perr * 2 ^ 14
  | 0x9010 => x.pthr + bit x.pauto * 8
  | 0x9018 => x.pdone + x.pkill * 2 ^ 32
  | 0x9100 => bit x.dhalt + bit (s.halted d) * 2 + bit x.dbgen * 4
  | 0x9108 => x.dcmd.toNat
  | 0x9110 => x.ddata.toNat
  | 0x9118 => bit x.derr
  | 0xA000 => x.gtmo
  | 0xA008 => (4096 - (s.groups.filter (fun e => e.2.live)).length) +
      (32768 - (s.groups.map (fun e => e.2.members.length)).foldl (· + ·) 0) * 2 ^ 16 + x.gnone * 2 ^ 32
  | 0xA010 => x.bcast + x.sleeps * 2 ^ 32
  | 0xB000 => x.apbase
  | 0xB008 => x.indrop
  | 0xB010 => s.io.lspeed + s.io.lwidth * 8
  | 0xC000 => x.quanta.foldr (fun q acc => q + 256 * acc) 0
  | 0xD000 => x.ptroot
  | 0xD008 => x.pgtbase
  | 0xD010 => x.pgtn
  | 0xD018 => x.sbbase
  | 0xD020 => x.sbpages
  | 0xD028 => x.walks
  | 0xE000 => x.agesh + bit x.ageen * 32
  | 0xE008 => x.stall
  | 0xE010 => x.inserv.toNat
  | 0xE018 => match x.reserv with
    | some r => 1 + r.cores.headD 0 * 2 + s.effPrio d r.task * 2 ^ 9
    | none => 0
  | 0xE020 => x.ndead
  | 0xF000 => x.htsel
  | 0xF008 => (Tab.get x.held {} x.htsel).read
  | _ => 0

/-- A read of 4 or 8 bytes. -/
def State.ctlRead (s : State) (d o n : Nat) : Nat :=
  if n = 8 then s.readReg d o
  else if o % 8 = 0 then s.readReg d o % 2 ^ 32 else s.readReg d (o - 4) / 2 ^ 32

/-! ### Writes with an effect of their own. -/

/-- The frames of the 64 KiB pages that a ring of `n` bytes at `base` touches, when every page translates to a
writable leaf of plain Guash memory (R33). -/
def State.ringPages (s : State) (d : Nat) : List Nat → Option (List Nat) × State
  | [] => (some [], s)
  | page :: rest =>
    match s.walk d (page * 65536) with
    | (.leaf l, s) =>
      if l.w && !l.peer && l.mt = 0 && !l.cnt then
        match s.ringPages d rest with
        | (some fs, s) => (some (l.pa :: fs), s)
        | (none, s) => (none, s)
      else (none, s)
    | (_, s) => (none, s)

/-- The frames of the pages of a ring, where all translate (R33). -/
def State.ringFrames (s : State) (d base n : Nat) : Option (List Nat) × State :=
  if 2 ^ 57 < base + n then (none, s)
  else s.ringPages d (List.range' (base / 65536) ((base + n - 1) / 65536 + 1 - base / 65536))

/-- Setting EN from 0 to 1 (R33). -/
def State.enableQueue (s : State) (d q : Nat) : State :=
  let x := s.queue d q
  let fail (s : State) : State := s.setQueue d q { s.queue d q with cfgerr := true }
  if x.slog < 4 || 12 < x.slog || x.clog < 4 || 12 < x.clog then fail s
  else match s.ringFrames d x.qbase (256 * 2 ^ x.slog) with
    | (none, s) => fail s
    | (some f, s) => match s.ringFrames d x.qcbase (32 * 2 ^ x.clog) with
      | (none, s) => fail s
      | (some g, s) => s.setQueue d q { s.queue d q with
          en := true, ringFrames := f, recFrames := g, qhead := x.qtail, qret := x.qtail, qctail := x.qtail,
          qchead := x.qtail, retiredIdx := [], era := x.era + 1 }

/-- Clearing EN (R33). -/
def State.disableQueue (s : State) (d q : Nat) : State := s.setQueue d q { s.queue d q with en := false }

/-- A host write of QTAIL (R34). -/
def State.writeQtail (s : State) (d q v : Nat) : State :=
  let x := s.queue d q
  let diff (a b : Nat) : Nat := (a + 2 ^ 32 - b) % 2 ^ 32
  if x.src then s.setQueue d q { x with ign := true }
  else if 2 ^ x.slog < diff v x.qtail || 2 ^ x.slog < diff v x.qret then
    (s.setQueue d q { x with ovf := true }).logEvent { cause := 0x007 }
  else s.setQueue d q { x with qtail := v }

/-- A write of QCHEAD (R37). -/
def State.writeQchead (s : State) (d q v : Nat) : State :=
  let x := s.queue d q
  let diff (a b : Nat) : Nat := (a + 2 ^ 32 - b) % 2 ^ 32
  if diff v x.qchead ≤ diff x.qctail x.qchead then s.setQueue d q { x with qchead := v } else s

/-- Setting ELEN (R381, R382): the kept events are written first. -/
def State.enableLog (s : State) : State :=
  let m := s.module
  if m.elen || m.ellog < 6 || 20 < m.ellog then s
  else
    let s := { s with module := { m with elen := true, elhead := m.eltail, keptEvents := [] } }
    m.keptEvents.foldl (fun s e => s.writeEvent e.1 e.2.1 e.2.2) s

/-- A write of ELHEAD (R381). -/
def State.writeElhead (s : State) (v : Nat) : State :=
  if s.module.elhead ≤ v && v ≤ s.module.eltail then { s with module := { s.module with elhead := v } } else s

/-- Lets a fragment that waits for a peer request or a host completion try again. -/
def State.unparkWaiter (s : State) (w : Waiter) : State :=
  match w with
  | .lane f _ =>
    match Tab.find (s.warp f.core f.slot).frags f.frag with
    | some x => match x.park with
      | .peer _ => s.setFrag f.core f.slot f.frag { x with park := .none }
      | _ => s
    | none => s
  | .engine _ _ => s

/-- Lets a fragment or an engine item that an upcall of another logical device of this module holds try again (R255). -/
def State.wakeWaiter (s : State) (w : Waiter) : State :=
  match w with
  | .lane f _ =>
    match Tab.find (s.warp f.core f.slot).frags f.frag with
    | some x => match x.park with
      | .pager _ => s.setFrag f.core f.slot f.frag { x with park := .none }
      | _ => s
    | none => s
  | .engine c k =>
    if 1000 ≤ k then s.setTask (k - 1000) { s.task (k - 1000) with hold := none }
    else if c = 196 then { s with tasks := s.tasks.map (fun t => (t.1,
      if t.2.dev + 4 = k && t.2.phase = .eligible then { t.2 with hold := none } else t.2)) }
    else if 192 ≤ c then
      let d := s.device (c - 192)
      let x := d.spinel
      s.setDevice (c - 192) { d with spinel := { x with ctxs := x.ctxs.map (fun e =>
        (e.1, if e.1 = k then { e.2 with held := none } else e.2)) } }
    else
    let x := s.core c
    s.setCore c { x with
      copies := x.copies.map (fun e => if e.1 = k then (e.1, { e.2 with held := none }) else e)
      shuffles := if k = 32 then x.shuffles.map (fun y => { y with held := none }) else x.shuffles }

/-- The ports to a module that are up, by the route table (R253). -/
def State.upPorts (s : State) (rmod : Nat) : List Nat :=
  (List.range 16).filter (fun p => bitOf (Tab.get s.io.routes 0 rmod) p && (s.port p).state == 2)

/-- The port that carries a request: the one at the selector's place among the ports that are up (R253). -/
def State.portFor (s : State) (r : PeerReq) : Option Nat :=
  let up := s.upPorts r.rmod
  let sel := match r.tag with | some t => t | none => bitsOf r.va 17 7
  if up.isEmpty then none else up[sel % up.length]?

/-- The duration of a retrain, for LONGEST. -/
def State.noteRetrain (s : State) (p : Nat) : State :=
  let x := s.port p
  s.setPort p { x with longest := max x.longest (min ((s.now - x.retrainAt) / 1024) (2 ^ 32 - 1)) }

/-- A request loses the port that carried it (R253, R257): it goes out over another port, or ends in LINK_DOWN. -/
def State.reroute (s : State) (i : Nat) (r : PeerReq) : State :=
  let put (r : PeerReq) : State := { s with io := { s.io with reqs := Tab.set s.io.reqs i r } }
  match s.portFor r with
  | some q => put { r with port := some q, sent := s.now }
  | none => (put { r with port := none, down := true }).unparkWaiter r.waiter

/-- A port goes down (R251, R257): unacknowledged flits are discarded, each packet that it had not sent whole is reported failed to
its source, by the request that it carries, and each request that waits for a response over it is sent over another port, or ends in LINK_DOWN. -/
def State.linkDown (s : State) (p : Nat) : State :=
  let s := if (s.port p).state = 3 then s.noteRetrain p else s
  let x := s.port p
  let s := s.setPort p { x with state := 0, downev := true, replay := [], open_ := [], out := [], noProgress := 0 }
  let s := s.logEvent { cause := 0x00A, src := 5, aux := BitVec.ofNat 64 p }
  let s := x.out.foldl (fun s e => s.send (.failed p e.cls e.req)) s
  s.io.reqs.foldl (fun s e => if e.2.port = some p && e.2.result.isNone then s.reroute e.1 e.2 else s) s

/-- A retrain begins (R250): only a port that is up retrains, and tells its partner the number that it expects (R251). -/
def State.startRetrain (s : State) (p : Nat) : State :=
  let x := s.port p
  if x.state = 2 then
    ((s.setPort p { x.paid with state := 3, force := false, retrains := bump32 x.retrains, retrainAt := s.now,
                                noProgress := 0 }).send (.link p x.retrainFlit)).logEvent { cause := 0x009, src := 5, aux := BitVec.ofNat 64 p }
  else s

/-- FORCE is written 1: it reads 1 until a retrain begins, which only a port that is up can (R252). -/
def State.forceRetrain (s : State) (p : Nat) : State := (s.setPort p { s.port p with force := true }).startRetrain p

/-- A write of EN of a port (R252). -/
def State.writePortEn (s : State) (p : Nat) (en : Bool) : State :=
  let x := s.port p
  if en && !x.en then s.setPort p { x with en := true, state := 1 }
  else if !en && x.en then
    let s := s.setPort p { x with en := false }
    if x.state = 0 then s else s.linkDown p
  else s

/-- Whether a management command's arguments are legal (R392). -/
def Device.argsOk (x : Device) : Bool :=
  (x.mop = 1 || x.mop = 2 || x.mop = 3) && x.mva % 65536 = 0 && 1 ≤ x.mlen && x.mlen ≤ 2 ^ 20 &&
  (x.mop != 2 || x.marg % 8 = 0) &&
  (x.mop != 3 || (x.mlen = 1 && x.marg % 65536 = 0 && isGuash x.marg))

/-- Writing 1 to MGO (R392): the command waits to be carried out with the arguments as they stand, or ends at once with BAD_ARG. -/
def State.startCommand (s : State) (d : Nat) : State :=
  let x := s.device d
  if x.mgo then s
  else if x.argsOk then s.setDevice d { x with mgo := true, mcmd := ⟨x.mop, x.mva, x.mlen, x.marg⟩ }
  else s.setDevice d { x with mst := 2 }

/-- The end of a mailbox command (R394). -/
def State.endMailbox (s : State) (st : Nat) : State :=
  let s := { s with module := { s.module with mbgo := false, mbst := st } }
  if s.module.elien then s.send (.msix 0 s.module.elvec) else s

/-- Writing 1 to MBGO (R394): the command waits to be carried out with the arguments as they stand, or ends with BAD_CMD. -/
def State.startMailbox (s : State) : State :=
  let m := s.module
  if m.mbgo then s
  else if 1 ≤ m.mbcmd && m.mbcmd ≤ 3 then
    { s with module := { m with mbgo := true, mbrun := { op := m.mbcmd, va := m.mbaddr, len := m.mblen } } }
  else s.endMailbox 1

/-- Writing 1 to PGO (R371): a request that names no resident workgroup of the device sets PERR. -/
def State.startPreempt (s : State) (d : Nat) : State :=
  let x := s.device d
  match Tab.find (s.core x.pcore).wgs x.pwg with
  | some g =>
    if dieOf x.pcore != d || 192 ≤ x.pcore then s.setDevice d { x with perr := true }
    else if x.preq.contains (g.task, g.unit) then s
    else s.setDevice d { x with preq := x.preq ++ [(g.task, g.unit)] }
  | none => s.setDevice d { x with perr := true }

/-- A write of DHALT (R354, R373). -/
def State.writeHalt (s : State) (d : Nat) (on : Bool) : State :=
  let x := s.device d
  if on && !x.dhalt then
    (s.setDevice d { x with dhalt := true, haltAt := s.now }).logEvent { cause := 0x00D, src := d }
  else if !on && x.dhalt then
    (s.setDevice d { x with dhalt := false, haltCycles := x.haltCycles + (s.now - x.haltAt) }).logEvent
      { cause := 0x00E, src := d }
  else s

/-! ### Writing (R12, R393). -/

/-- The part of a 64-bit register that a write of 8 or 4 bytes carries (R12). -/
inductive Part where
  | whole
  | low
  | high
  deriving DecidableEq, Repr

/-- The bits of a value that a write carries, in their places. -/
def Part.carried (m : Part) (v : Nat) : Nat :=
  match m with
  | .whole => v % 2 ^ 64
  | .low => v % 2 ^ 32
  | .high => v / 2 ^ 32 % 2 ^ 32 * 2 ^ 32

/-- What a register holds that read as `cur`, with the bits that a write carries in their places. -/
def Part.merge (m : Part) (cur v : Nat) : Nat :=
  match m with
  | .whole => v % 2 ^ 64
  | .low => cur / 2 ^ 32 * 2 ^ 32 + v % 2 ^ 32
  | .high => v / 2 ^ 32 % 2 ^ 32 * 2 ^ 32 + cur % 2 ^ 32

/-- A write of a queue register (R32, R33). `m` says which part of it the write carries. -/
def State.writeQueueReg (s : State) (d q o v : Nat) (m : Part) : State :=
  let x := s.queue d q
  let cur := x.readReg o
  let n := m.merge cur v
  if o = 0x00 then (if x.en then s else s.setQueue d q { x with qbase := n % 2 ^ 57 / 4096 * 4096 })
  else if o = 0x08 then
    if x.en then (if bitOf n 8 then s else s.disableQueue d q)
    else
      let s := s.setQueue d q { x with slog := bitsOf n 3 0, clog := bitsOf n 7 4, src := bitOf n 9 }
      if bitOf n 8 then s.enableQueue d q else s
  else if o = 0x10 then (if m = .high then s else s.writeQtail d q (n % 2 ^ 32))
  else if o = 0x28 then (if x.en then s else s.setQueue d q { x with qnextseq := n % 2 ^ 64 })
  else if o = 0x30 then (if x.en then s else s.setQueue d q { x with qcbase := n % 2 ^ 57 / 4096 * 4096 })
  else if o = 0x40 then s.writeQchead d q (n % 2 ^ 32)
  else if o = 0x50 then
    let c := m.carried v
    s.setQueue d q { x with ovf := x.ovf && !bitOf c 0, seqerr := x.seqerr && !bitOf c 1, ign := x.ign && !bitOf c 2,
                            cfgerr := x.cfgerr && !bitOf c 4 }
  else s

/-- A write of an import entry (R199). -/
def Import.writeReg (e : Import) (o n : Nat) : Import :=
  match o with
  | 0x00 => { e with rbase := n % 2 ^ 57 / 65536 * 65536 }
  | 0x08 => { e with rmod := bitsOf n 15 0, rdev := bitsOf n 17 16, wr := bitOf n 18, v := bitOf n 19 }
  | 0x10 => { e with rlen := n % 2 ^ 25 }
  | _ => e

/-- A byte string with `n` bytes of a number placed at an offset. -/
def placeBytes (bs : List Byte) (size o : Nat) (v : Nat) : List Byte :=
  let full := bs ++ List.replicate (size - bs.length) 0
  full.take o ++ natBytes 8 v ++ full.drop (o + 8)

/-- The part of a memory that is the host's. -/
def hostPart (m : Memory) : Memory := m.filter (fun e => hostBase ≤ e.1)

/-- The four devices in their reset state, their clocks starting now. -/
def freshDevices (now : Nat) : Tab Device := (List.range 4).map (fun d => (d, { clockBase := now }))

/-- The module reset (R386): everything but the fuses, the flash and what is not the module's: time, the host's memory, what it
has sent, the host link, and the order in which the agents move. -/
def State.resetModule (s : State) : State :=
  { State.reset with
    now := s.now, turns := s.turns, turnNo := s.turnNo, mem := hostPart s.mem, fuses := s.fuses
    devices := freshDevices s.now, io := { outputs := s.io.outputs, lspeed := s.io.lspeed, lwidth := s.io.lwidth } }

/-- The first step of a logical-device reset (R387): the device stops, and the accesses of other parties that wait on its upcall
entries are answered with REMOTE_GONE, whose cause lies 0x28 above that of REMOTE_FAULT. -/
def State.startReset (s : State) (d : Nat) : State :=
  let goneH (h : Held) : Held := { h with cause := h.cause + 0x28 }
  let wakeF (c : Nat) (f : Frag) : Frag :=
    match f.park with
    | .pager h => if h.dev = d && dieOf c != d then { f with park := .none, failed := some (goneH h) } else f
    | _ => f
  let wakeC (c : Nat) (x : Copy) : Copy :=
    match x.held with
    | some h =>
      if h.dev = d && dieOf c != d then
        { x with held := none, failed := if h.add.isSome then x.failed else some ((goneH h).cause, h.data) } else x
    | none => x
  let wakeS (c : Nat) (x : Shuffle) : Shuffle :=
    if (x.held.map (fun h => h.dev)) = some d && dieOf c != d then { x with held := none } else x
  let cores := s.cores.map (fun c => (c.1, { c.2 with
    warps := c.2.warps.map (fun w => (w.1, { w.2 with frags := w.2.frags.map (fun f => (f.1, wakeF c.1 f.2)) }))
    copies := c.2.copies.map (fun k => (k.1, wakeC c.1 k.2))
    shuffles := c.2.shuffles.map (wakeS c.1) }))
  let tasks := s.tasks.map (fun t => (t.1, if (t.2.hold.map (fun h => h.dev)) = some d && t.2.dev != d then { t.2 with hold := none } else t.2))
  let devices := s.devices.map (fun v => (v.1, if v.1 = d then v.2 else { v.2 with spinel := { v.2.spinel with
    ctxs := v.2.spinel.ctxs.map (fun k => (k.1, if (k.2.held.map (fun h => h.dev)) = some d then { k.2 with held := none } else k.2)) } }))
  let s := { s with cores := cores, tasks := tasks, devices := devices }
  s.setDevice d { s.device d with drst := true, drstAt := s.now }

/-- A write of the module block or the mailbox (R381, R393, R394). -/
def State.writeModule (s : State) (o v : Nat) (mask : Part) : State :=
  let m := s.module
  let cur := s.readModule o
  let n := mask.merge cur v
  if 0x1040 ≤ o && o < 0x1060 then { s with module := { m with nonce := placeBytes m.nonce 32 (o - 0x1040) n } }
  else if o = 0x00 then (if m.elen then s else { s with module := { m with elbase := n % 2 ^ 56 / 4096 * 4096 } })
  else if o = 0x08 then
    let m' := { m with ellog := if m.elen then m.ellog else bitsOf n 4 0, elvec := bitsOf n 16 6, elien := bitOf n 17 }
    if bitOf n 5 then { s with module := m' }.enableLog else { s with module := { m' with elen := false } }
  else if o = 0x20 then s.writeElhead (n % 2 ^ 64)
  else if o = 0x30 then
    let s := [0, 1, 2, 3].foldl (fun s d =>
      if bitOf (mask.carried v) d && !(s.device d).drst then s.startReset d else s) s
    if bitsOf (mask.carried v) 63 32 = 0x4D525354 then s.resetModule else s
  else if o = 0x38 then
    if 800 ≤ n % 4096 && n % 4096 ≤ 2400 then { s with module := { m with plim := n % 4096 } } else s
  else if o = 0x40 then
    let m := { m with cethr := bitsOf n 23 8 }
    { s with module := if n % 256 = 0 then m else { m with scrubp := n % 256 } }
  else if o = 0x1000 then
    let s := { s with module := { m with mbcmd := n % 16 } }
    if bitOf (mask.carried v) 4 then s.startMailbox else s
  else if o = 0x1008 then { s with module := { m with mbaddr := n % 2 ^ 56 } }
  else if o = 0x1010 then { s with module := { m with mblen := n % 2 ^ 32 } }
  else s

/-- A write of a register of IO or of the module block (R199, R252, R253, R255). -/
def State.writeIo (s : State) (o v : Nat) (m : Part) : State :=
  let cur := s.readIo o
  let n := m.merge cur v
  let io := s.io
  if 0x40000 ≤ o && o < 0x60000 then
    let i := (o - 0x40000) / 0x20
    { s with io := { io with imports := Tab.set io.imports i ((Tab.get io.imports {} i).writeReg (o % 0x20) n) } }
  else if 0x30000 ≤ o && o < 0x32000 then s.writeModule (o - 0x30000) v m
  else if 0x21000 ≤ o && o < 0x30000 then
    let i := (o - 0x21000) / 4
    let t := Tab.set (Tab.set io.routes i (n % 2 ^ 16)) (i + 1) (n / 2 ^ 32 % 2 ^ 16)
    { s with io := { io with routes := t } }
  else if o = 0x20800 then { s with io := { io with mymod := n % 2 ^ 16 } }
  else if o = 0x20400 then (if n % 2 ^ 16 = 0 then s else { s with io := { io with ptmo := n % 2 ^ 16 } })
  else if 0x20000 ≤ o && o < 0x20400 && o % 0x40 = 0 then
    let p := (o - 0x20000) / 0x40
    let s := s.setPort p { s.port p with downev := (s.port p).downev && !bitOf (m.carried v) 4 }
    let s := s.writePortEn p (bitOf n 0)
    if bitOf (m.carried v) 1 then s.forceRetrain p else s
  else s

/-- A write of the DOP word (R374): an operation that the debugger names waits for its step; 0, 6 and 7 do nothing. -/
def Device.writeDcmd (x : Device) (n : Nat) : Device :=
  let op := bitsOf n 36 34
  let n := n % 2 ^ 37
  { x with dcmd := BitVec.ofNat 64 (if op = 6 || op = 7 then n % 2 ^ 34 else n) }

/-- A write of a device's own registers. -/
def State.writeDev (s : State) (d o v : Nat) (m : Part) : State :=
  let x := s.device d
  let cur := s.readReg d o
  let n := m.merge cur v
  let one := m.carried v
  match o with
  | 0x8800 =>
    let s := s.setDevice d { x with mop := n % 16 }
    if bitOf one 4 then s.startCommand d else s
  | 0x8808 => s.setDevice d { x with mva := n % 2 ^ 57 }
  | 0x8810 => s.setDevice d { x with mlen := n % 2 ^ 32 }
  | 0x8818 => s.setDevice d { x with marg := n % 2 ^ 57 }
  | 0x9000 => if n % 2 ^ 32 = 0 then s else s.setDevice d { x with pdl := n % 2 ^ 32 }
  | 0x9008 =>
    let s := s.setDevice d { x with pcore := n % 256, pwg := bitsOf n 12 8, perr := x.perr && !bitOf one 14 }
    if bitOf one 13 then s.startPreempt d else s
  | 0x9010 => s.setDevice d { x with pthr := n % 8, pauto := bitOf n 3 }
  | 0x9100 => (s.setDevice d { x with dbgen := bitOf n 2 }).writeHalt d (bitOf n 0)
  | 0x9108 => s.setDevice d (x.writeDcmd n)
  | 0x9110 => s.setDevice d { x with ddata := BitVec.ofNat 64 n }
  | 0x9118 => s.setDevice d { x with derr := x.derr && !bitOf one 0 }
  | 0xA000 => s.setDevice d { x with gtmo := n % 2 ^ 32 }
  | 0xB000 => s.setDevice d { x with apbase := n % 2 ^ 57 / 65536 * 65536 }
  | 0xC000 =>
    let q := (List.range 7).map (fun i => bitsOf n (8 * i + 7) (8 * i))
    if q.any (fun y => y = 0) then s else s.setDevice d { x with quanta := q }
  | 0xD000 => s.setDevice d { x with ptroot := n % 2 ^ 57 / 4096 * 4096 }
  | 0xD008 => s.setDevice d { x with pgtbase := n % 2 ^ 57 / 4096 * 4096 }
  | 0xD010 => s.setDevice d { x with pgtn := n % 256 }
  | 0xD018 => s.setDevice d { x with sbbase := n % 2 ^ 57 / 65536 * 65536 }
  | 0xD020 => s.setDevice d { x with sbpages := n % 2 ^ 32 }
  | 0xE000 =>
    let sh := n % 32
    s.setDevice d { x with agesh := if 10 ≤ sh && sh ≤ 24 then sh else x.agesh, ageen := bitOf n 5 }
  | 0xE008 => s.setDevice d { x with stall := n % 2 ^ 32 }
  | 0xF000 => s.setDevice d { x with htsel := n % 2 ^ 14 }
  | _ => s

/-- A write of the part `m` of the 64-bit register at an 8-byte aligned offset (R12, R393). -/
def State.writeReg (s : State) (d o v : Nat) (m : Part) : State :=
  if 0x20000 ≤ o then (if d = 0 then s.writeIo o v m else s)
  else if 0x10000 ≤ o && o < 0x11000 then s.writeQueueReg d ((o - 0x10000) / 0x80) (o % 0x80) v m
  else if 0x8000 ≤ o && o < 0x8100 then
    let i := (o - 0x8000) / 8
    let cur := s.readReg d o
    let n := m.merge cur v
    s.setQueue d i { s.queue d i with ivec := n % 2 ^ 11, ien := bitOf n 11, icoal := bitsOf n 19 12 }
  else s.writeDev d o v m

/-- Whether a function is enabled: all four are from the end of bring-up on (R388); in recovery only the module block of
function 0 works (R389). -/
def State.enabled (s : State) (d o : Nat) : Bool :=
  s.module.ready || (s.module.recovery && d = 0 && 0x30000 ≤ o && o < 0x32000)

/-- A host write of a register. -/
def State.hostWrite (s : State) (d o : Nat) (t : State) : State := if s.enabled d o then t else s

/-- A write of 4 or 8 bytes. -/
def State.ctlWrite (s : State) (d o n v : Nat) : State :=
  s.hostWrite d o <|
  if n = 8 then s.writeReg d o v .whole
  else if o % 8 = 0 then s.writeReg d o (v % 2 ^ 32) .low
  else s.writeReg d (o - 4) (v % 2 ^ 32 * 2 ^ 32) .high

/-- Whether the ordering point on IO holds a write of a stream (R259): a later write of it, to a control window too (R34, R330),
comes after. -/
def State.streamHeld (s : State) (x : Stream) : Bool :=
  s.io.inbound.any (fun w => w.fn = x.fn.val && w.requester = x.requester.toNat)

/-- A host read of a control window completes with the bytes of its register, or, where it is not 4 or 8 bytes aligned to its
width, with Unsupported Request (R393); a function that is not enabled answers nothing. -/
def State.windowRead (s : State) (d o n : Nat) : State :=
  s.hostWrite d o <| s.send <| .readData d <|
    if (n = 4 || n = 8) && o % n = 0 then some (natBytes n (s.ctlRead d o n)) else none

/-- A register access of a requester takes effect once every earlier write of its stream has; until then it is not made. -/
def State.inOrder (s : State) (x : Stream) (t : State) : State := if s.streamHeld x then s else t

end Sys2Proof.Machine
end

