-- ==== Sys2Proof/Machine/Access.lean ====
section
/-! DEFINITION. One memory access: what is performed at the home of an address (R90, R190, R225, R338), the checks
made before it (R186, R209, R334), pagers and their upcalls (R210 to R213), and peer windows (R198, R253 to R257). -/

namespace Sys2Proof.Machine

/-! ### What is performed at the home. -/

/-- The elements of a packed value: `n` of them, `w` bits each, the lowest first. -/
def elems (w : Nat) : Nat → Nat → List Nat
  | 0, _ => []
  | n + 1, v => v % 2 ^ w :: elems w n (v / 2 ^ w)

/-- The packed value of a list of elements. -/
def pack (w : Nat) (es : List Nat) : Nat := es.foldr (fun e acc => e % 2 ^ w + 2 ^ w * acc) 0

/-- The float formats that an atomic's tag names, with the elements of its word (R225). -/
def atmFmt (tag : Nat) : Option (Fmt × Nat) :=
  match tag with
  | 3 => some (.f32, 1) | 4 => some (.f64, 1) | 6 => some (.bf16, 2) | 7 => some (.h16, 2) | _ => none

/-- The width of an atomic's word in bytes (R225). -/
def atmWidth (tag : BitVec 4) : Nat := if tag = 4 then 8 else 4

/-- The new value at memory of an atomic (R225). -/
def atmNew (op : BitVec 3) (tag : BitVec 4) (old x y : Nat) : Nat :=
  let perElem (f : Fmt → Nat → Nat → Nat) (int : Nat) : Nat :=
    match atmFmt tag.toNat with
    | some (fmt, n) => pack fmt.width (List.zipWith (f fmt) (elems fmt.width n old) (elems fmt.width n x))
    | none => int
  let less : Bool := if tag = 1 then signedOf 32 old < signedOf 32 x else old < x
  match op.toNat with
  | 0 => perElem (fun f a b => f.round (FVal.sum [f.val a, f.val b] .rn) .rn false) ((old + x) % 2 ^ 32)
  | 1 => perElem (fun f a b => f.minMax false a b) (if less then old else x)
  | 2 => perElem (fun f a b => f.minMax true a b) (if less then x else old)
  | 3 => old &&& x
  | 4 => old ||| x
  | 5 => old ^^^ x
  | 6 => x
  | _ => if old = x then y else old

/-- XADD on the 64 bytes of a line (R152, R153). -/
def xaddLine (line : Nat) (x : Word32) : Nat :=
  let sum := signedOf 384 (line % 2 ^ 384)
  let count := line / 2 ^ 384 % 2 ^ 64
  let flags := line / 2 ^ 448 % 16
  let out (sum : Int) (flags : Nat) : Nat :=
    (sum % 2 ^ 384).toNat + min (count + 1) (2 ^ 64 - 1) * 2 ^ 384 + flags * 2 ^ 448
  match Fmt.f32.val x.toNat with
  | .nan => out sum (flags ||| 4)
  | .inf neg => out sum (flags ||| if neg then 2 else 1)
  | .fin neg m e =>
    let v : Int := m * 2 ^ (e + 149).toNat
    let r := sum + if neg then -v else v
    if 2 ^ 383 ≤ r.natAbs then out sum (flags ||| 8) else out r flags

/-- XRD of a line (R153). -/
def xrdLine (line : Nat) (rm : Rm) (f : Fmt) : Nat :=
  let sum := signedOf 384 (line % 2 ^ 384)
  let flags := line / 2 ^ 448 % 16
  if bitOf flags 2 || bitOf flags 3 || (bitOf flags 0 && bitOf flags 1) then f.nan
  else if bitOf flags 0 then f.round (.inf false) rm false
  else if bitOf flags 1 then f.round (.inf true) rm false
  else if sum = 0 then f.signBit (rm = .rd)
  else f.round (.fin (sum < 0) sum.natAbs (-149)) rm false

/-- A field of `w` bits at bit `lo` of a number replaced. -/
def setBits (v lo w x : Nat) : Nat := v - v / 2 ^ lo % 2 ^ w * 2 ^ lo + x % 2 ^ w * 2 ^ lo

end Sys2Proof.Machine

namespace Sys2Proof

/-- The bytes that a change of a node or a descriptor touches. -/
def NodeOp.size : NodeOp → Nat
  | .own _ => 8
  | .free => 8
  | .swap _ _ _ => 128
  | _ => 64

end Sys2Proof

namespace Sys2Proof.Machine

/-- A node, or the named part of a descriptor, after a Perform of the Spinel engine (R305, R307). -/
def nodeNew (op : NodeOp) (v : Nat) : Nat :=
  let vl := bitsOf v 47 32
  let exp := bitOf v 56
  let idle := !exp && !bitOf v 57 && !bitOf v 58
  let down (v : Nat) : Nat := setBits v 32 16 (vl + 2 ^ 16 - 1)
  let calm (v : Nat) : Nat := setBits v 58 1 0
  match op with
  | .visit mark =>
    let v' := setBits v 32 16 (vl + 1)
    if mark && idle then setBits v' 58 1 1 else v'
  | .leave clear => if clear then calm (down v) else down v
  | .unpend => calm v
  | .backup x count clear =>
    let v' := down v
    let v' := if count then setBits (setBits v' 0 32 (v % 2 ^ 32 + 1)) 64 64 (v / 2 ^ 64 % 2 ^ 64 + x.toNat) else v'
    if clear && !exp then calm v' else v'
  | .link blk n => if exp || bitOf v 57 then v else calm (setBits (setBits (setBits v 192 32 blk) 48 8 n) 56 1 1)
  | .term => if exp then v else calm (setBits v 57 1 1)
  | .orphan => setBits v 224 32 (2 ^ 32 - 1)
  | .own d => if v % 8 = 0 then setBits v 0 3 d else v
  | .free => setBits v 0 3 0
  | .swap root blk g =>
    let v' := setBits (setBits v 96 32 root) 224 4 (v / 2 ^ 224 % 16 + 1)
    setBits (setBits v' 480 32 blk) 776 4 g

/-- How an access ended. -/
inductive Acc where
  | ok (v : Nat)
  | fault (cause : BitVec 10)
  | pager (h : Held)          -- held on an upcall entry (R212)
  | stall (page : Nat)        -- held by a class change (R204) or a full upcall buffer (R211)
  | remote (req : Nat)        -- waits for another module, or for the host
  deriving DecidableEq, Repr, Inhabited

end Sys2Proof.Machine

namespace Sys2Proof

/-- The bytes that an operation touches. -/
def MemOp.size : MemOp → Nat
  | .read n => n
  | .write n _ => n
  | .atm _ tag _ _ => if tag = 4 then 8 else 4
  | .atms _ tag _ => if tag = 4 then 8 else 4
  | .xadd _ => 64
  | .xrd _ _ => 64
  | .xclr => 64
  | .cwAdd _ _ => 8
  | .cwSet _ => 8
  | .cwRead => 8
  | .node op => op.size

/-- Whether an operation writes, for classes and write rights (R199, R203, R209). -/
def MemOp.writes : MemOp → Bool
  | .read _ => false
  | .xrd _ _ => false
  | .cwRead => false
  | _ => true

/-- An atomic or exact-sum operation (R209). -/
def MemOp.atomic : MemOp → Bool
  | .read _ => false
  | .write _ _ => false
  | .atm _ _ _ _ => true
  | .atms _ _ _ => true
  | .xadd _ => true
  | .xrd _ _ => true
  | .xclr => true
  | .cwAdd _ _ => false
  | .cwSet _ => false
  | .cwRead => false
  | .node _ => false

/-- A count-word operation (R333). -/
def MemOp.count : MemOp → Bool
  | .read _ => false
  | .write _ _ => false
  | .atm _ _ _ _ => false
  | .atms _ _ _ => false
  | .xadd _ => false
  | .xrd _ _ => false
  | .xclr => false
  | .cwAdd _ _ => true
  | .cwSet _ => true
  | .cwRead => true
  | .node _ => false

end Sys2Proof

namespace Sys2Proof.Machine

/-- The old values that the lanes of an ATM at one address receive in turn, 64 bits each, and the value that is left (R226). -/
def atmFold (op : BitVec 3) (tag : BitVec 4) : List (Nat × Nat) → Nat → Nat × Nat
  | [], v => (0, v)
  | x :: xs, v =>
    let r := atmFold op tag xs (atmNew op tag v x.1 x.2)
    (v + 2 ^ 64 * r.1, r.2)

/-- One Perform at the home of a physical address of Guash or host memory (R90): the value it returns, or a cause of
class 6. An add that passes the limit saturates, when `sat` says so (R335). -/
def State.perform (s : State) (pa type : Nat) (op : MemOp) : Acc × State :=
  let rd (n : Nat) : Nat := Memory.read s.mem pa n
  let wr (s : State) (n v : Nat) : State := { s with mem := Memory.write s.mem pa n v }
  match op with
  | .read n => (.ok (rd n), s)
  | .write n v => (.ok 0, wr s n v)
  | .atm o tag x y =>
    let n := atmWidth tag
    (.ok (rd n), wr s n (atmNew o tag (rd n) x y))
  | .atms o tag xs =>
    let n := atmWidth tag
    let r := atmFold o tag xs (rd n)
    (.ok r.1, wr s n r.2)
  | .xadd x => (.ok 0, wr s 64 (xaddLine (rd 64) x))
  | .xrd rm f64 => (.ok (xrdLine (rd 64) (Rm.ofBits rm) (if f64 then .f64 else .f32)), s)
  | .xclr => (.ok 0, wr s 64 0)
  | .cwAdd v sat =>
    let old := rd 8
    if old + v.toNat < 2 ^ 64 then (.ok old, (wr s 8 (old + v.toNat)).wakeWord pa)
    else if sat then (.ok old, (wr s 8 (2 ^ 64 - 1)).wakeWord pa)
    else (.fault (BitVec.ofNat 10 (0x1A0 + type)), s)
  | .cwSet v => if s.hasWaiters pa then (.ok (2 ^ 64 - 1), s) else (.ok 0, wr s 8 v.toNat)
  | .cwRead => (.ok (rd 8), s)
  | .node op =>
    let old := rd op.size
    (.ok old, wr s op.size (nodeNew op old))

/-! ### Who makes an access. -/

/-- Who makes an access: the party and logical device, the accessing task, the access type (R209), and who waits for
an answer from outside or for a class change; `drains` are the pages that the access's instruction drains (R204). -/
structure Actor where
  party : Party
  dev : Nat
  task : Option Nat := none
  type : Nat
  waiter : Waiter := .engine 192 0
  drains : List Nat := []

/-- The core of an actor, if it is one. -/
def Actor.core (a : Actor) : Option Nat := match a.party with | .core n => some n | _ => none

/-- The descriptor address of the accessing task, for PAGER_LOOP (R211). -/
def State.descOf (s : State) (a : Actor) : Option Nat :=
  match a.task with
  | some t => if (s.task t).descAddr = 0 then none else some (s.task t).descAddr
  | none => none

/-- The warp that an actor's access belongs to, if it is a warp's. -/
def State.memberFor (s : State) (a : Actor) : Option Member :=
  match a.waiter with
  | .lane f _ => some (s.memberOf f.core f.slot)
  | .engine _ _ => none

/-! ### Pagers (R210 to R213). -/

/-- An entry of the pager table: DESC, QUEUE, PRIO, EN, and whether its reserved bits are zero (R210). -/
structure PagerEntry where
  desc : Nat
  queue : Nat
  prio : Nat
  en : Bool
  clean : Bool

/-- Entry `i` of a device's pager table (R210). -/
def State.pagerEntry (s : State) (dev i : Nat) : PagerEntry :=
  let e := Memory.read s.mem ((s.device dev).pgtbase + 32 * i) 32
  { desc := e % 2 ^ 57, queue := e / 2 ^ 64 % 32, prio := e / 2 ^ 69 % 8, en := bitOf e 72,
    clean := e / 2 ^ 57 % 2 ^ 7 = 0 && e / 2 ^ 73 = 0 }

/-- Whether an index names no entry of the pager table that a fault can read (R210): there is none to read. -/
def Device.noPager (x : Device) (pgr : Nat) : Bool := pgr = 0 || x.pgtn < pgr

/-- CT's read of an entry of the pager table, a slice read (R214) or one of host memory, or the cause by which it fails (R191,
R262), for an access of a type. -/
def State.readPager (s : State) (dev i type : Nat) : Except (BitVec 10) PagerEntry × State :=
  let pa := (s.device dev).pgtbase + 32 * i
  if isGuash pa then
    (if s.lineLost pa 32 then .error (BitVec.ofNat 10 (0x2C0 + type)) else .ok (s.pagerEntry dev i), s.ctAccess pa false)
  else
    let (ok, s) := s.hostEnds
    (if ok then .ok (s.pagerEntry dev i) else .error (BitVec.ofNat 10 (0x2B0 + type)), s)

/-- CT's read of a pager's entry fails for an actor: an error that cannot be corrected is logged (R191, R376). -/
def State.pagerLost (s : State) (a : Actor) (dev i va : Nat) (c : BitVec 10) : Acc × State :=
  (.fault c, if c < 0x2C0 then s else s.logEvent
    { cause := c, src := homeDie ((s.device dev).pgtbase + 32 * i), addr := BitVec.ofNat 64 va, task := a.task, who := s.memberFor a })

/-- A not-present result of a walk: the causes of R209 and R210, or the page's upcall entry, joined or taken (R211,
R212). `here` marks an access that the logical device's own task or core makes. -/
def State.notPresent (s : State) (dev pgr va : Nat) (a : Actor) (here : Bool) : Acc × State :=
  let type := a.type
  let core := if here then a.core else none
  let fault (s : State) (base : Nat) : Acc × State := (.fault (BitVec.ofNat 10 (base + type)), s)
  if (s.device dev).noPager pgr then fault s 0x100
  else match s.readPager dev pgr type with
  | (.error c, s) => s.pagerLost a dev pgr va c
  | (.ok e, s) =>
    let x := s.device dev
    if !e.en then fault s 0x100
    else if !e.clean then fault s 0x138
    else if !(s.queue dev e.queue).src || !(s.queue dev e.queue).en then fault s 0x130
    else if here && s.descOf a = some e.desc then fault s 0x128
    else
      let page := va / 65536
      let held (i : Nat) : Held := { dev := dev, entry := i, page := page, cause := BitVec.ofNat 10 (0x100 + type) }
      match x.upcallOf page with
      | some i =>
        let u := Tab.get x.upcalls {} i
        let u := if u.owner = core then u else { u with owner := none }
        (.pager (held i), s.setDevice dev { x with upcalls := Tab.set x.upcalls i u })
      | none =>
        match firstFree x.upcalls.keys 0 64 with
        | none => (.stall page, s)
        | some i =>
          let u : Upcall := { page := page, va := BitVec.ofNat 64 va, type := type, core := core.getD 0, pgr := pgr,
                              owner := core, queue := e.queue, prio := e.prio, desc := e.desc, task := a.task,
                              who := s.memberFor a }
          (.pager (held i), s.setDevice dev { x with upcalls := Tab.set x.upcalls i u })

/-- The upcall that an access of a page's lanes has just posted reports the address of the lowest of them, `va` (R212, R219);
`before` is the state in which the access was made. -/
def State.reportFirst (s before : State) (h : Held) (va : Nat) : State :=
  let x := s.device h.dev
  if ((before.device h.dev).upcallOf h.page).isSome then s
  else
    let u := Tab.get x.upcalls {} h.entry
    s.setDevice h.dev { x with upcalls := Tab.set x.upcalls h.entry { u with va := BitVec.ofNat 64 (65536 * h.page + va % 65536) } }

/-- The entries of a core's side log that are in use (R213). -/
def Core.logUsed (x : Core) : Nat := (x.sideLog.filter (fun e => e.fresh)).length

/-- Whether a core has logged entries for a page (R213). -/
def Core.logHas (x : Core) (page : Nat) : Bool := x.sideLog.any (fun e => e.va / 65536 = page)

/-- Whether a core's store or reduction to a page retires into its side log: its upcall entry names the core as owner
(R212, R213). -/
def State.mayLog (s : State) (c va : Nat) : Bool :=
  let x := s.device (dieOf c)
  match x.upcallOf (va / 65536) with
  | some i => (Tab.get x.upcalls {} i).owner = some c
  | none => false

/-! ### Checks and the access itself. -/

/-- The protection cause of an access through a leaf (R209, R334), the lowest kind of class 5 first. -/
def protection (l : Leaf) (va type : Nat) (op : MemOp) : Option (BitVec 10) :=
  let c (base : Nat) : Option (BitVec 10) := some (BitVec.ofNat 10 (base + type))
  let xrd := match op with | .xrd _ _ => true | _ => false
  if (op.writes || xrd) && !l.w then c 0x140
  else if type = 3 && (!l.x || l.mt != 0) then c 0x148
  else if op.atomic && l.mt != 0 then c 0x150
  else if l.mt = 2 && !((op.size = 4 || op.size = 8) && va % op.size = 0) then c 0x158
  else if l.peer then none
  else if op.count && !l.cnt then c 0x198
  else if l.cnt && op.atomic then c 0x190
  else if l.cnt && op.writes && !op.count then c 0x188
  else none

/-- The request of an actor at an address that is still open, if there is one. -/
def State.findReq (s : State) (w : Waiter) (va : Nat) (op : MemOp) : Option (Nat × PeerReq) :=
  s.io.reqs.find? (fun e => !e.2.host && e.2.waiter == w && e.2.va == va && e.2.op == op)

/-- The read of host memory that an actor has sent, if there is one. -/
def State.findHost (s : State) (w : Waiter) (pa : Nat) (op : MemOp) : Option (Nat × PeerReq) :=
  s.io.reqs.find? (fun e => e.2.host && e.2.waiter == w && e.2.va == pa && e.2.op == op)

/-- A request to another module or to the host is given up: no answer of it is taken. -/
def State.dropReq (s : State) (i : Nat) : State := { s with io := { s.io with reqs := Tab.del s.io.reqs i } }

/-- A load from host memory: it is performed when its completion returns, or raises HOST_ERROR (R262). -/
def State.hostLoad (s : State) (a : Actor) (pa : Nat) (op : MemOp) : Acc × State :=
  match s.findHost a.waiter pa op with
  | some (i, r) =>
    match r.result with
    | some (.value v) => (.ok v, s.dropReq i)
    | some _ => (.fault (BitVec.ofNat 10 (0x2B0 + a.type)), s.dropReq i)
    | none => (.remote i, s)
  | none =>
    let r : PeerReq := { dev := a.dev % 4, host := true, va := pa, type := a.type, op := op, waiter := a.waiter, sent := s.now }
    (.remote s.io.nextReq, { s with io := { s.io with reqs := Tab.set s.io.reqs s.io.nextReq r, nextReq := s.io.nextReq + 1 } })

/-- The Perform of an access; an add that saturates is logged (R335, R382). -/
def State.performFor (s : State) (a : Actor) (pa va : Nat) (op : MemOp) : Acc × State :=
  match op, s.perform pa a.type op with
  | .cwAdd v true, (.ok old, s) =>
    if old + v.toNat < 2 ^ 64 then (.ok old, s)
    else (.ok old, s.logEvent { cause := 0x008, src := if a.party = .ct then 4 else a.dev, core := a.core.getD 0,
                                addr := BitVec.ofNat 64 va, task := a.task, aux := BitVec.ofNat 64 va })
  | _, r => r

/-- An item whose reads of host memory end in the step that makes them (log 15): CT's commands and dispatch, and backing pages. -/
def Waiter.inStep : Waiter → Bool
  | .lane _ _ => false
  | .engine c k => c = 196 || (c < 192 && 33 ≤ k)

/-- A load from host memory that is over in its step (R262). -/
def State.hostNow (s : State) (a : Actor) (pa va : Nat) (op : MemOp) : Acc × State :=
  match s.hostEnds with
  | (true, s) => s.performFor a pa va op
  | (false, s) => (.fault (BitVec.ofNat 10 (0x2B0 + a.type)), s)

/-- The class that a page has for an access (R201 to R205): a page that its leaf fixes has no other. -/
def State.classFor (s : State) (a : Actor) (l : Leaf) (va : Nat) (write : Bool) : Bool × State :=
  if l.fixed.isSome then (true, s)
  else (s.nameMapping l.key (homeDie l.pa) (l.tlbKey va)).classAccess a.party a.waiter a.drains l.key write

/-- The core whose L1 serves an access (R192): one that makes a read or a write, to no count-word page. -/
def Actor.cached (a : Actor) (l : Leaf) (op : MemOp) : Option Nat :=
  match op with
  | .read _ => if l.cnt then none else a.core
  | .write _ _ => if l.cnt then none else a.core
  | _ => none

/-- Whether a page is PRIVATE to an actor. -/
def State.owns (s : State) (a : Actor) (l : Leaf) : Bool := l.fixed.isNone && s.classOf l.key == .priv a.party

/-- An error that its code cannot correct ends an access (R191, R355). -/
def State.unreadable (s : State) (a : Actor) (pa va : Nat) : Acc × State :=
  let c := BitVec.ofNat 10 (0x2C0 + a.type)
  (.fault c, s.logEvent { cause := c, src := if isGuash pa then homeDie pa else 5, addr := BitVec.ofNat 64 va, task := a.task,
                          who := s.memberFor a })

/-- Whether an actor accesses another logical device than its own. -/
def Actor.atPeer (a : Actor) : Bool := match a.party with | .peer _ => true | _ => false

/-- Whether an access of a warp meets the error of the move under way (R355): one of L1 where it hits there, as every access of
scratch does (R383), another one where it does not. -/
def State.meet (s : State) (a : Actor) (hit : Bool) : Option Nat × State :=
  match s.upset, a.waiter with
  | some (.found k n), .lane _ _ =>
    if a.atPeer || 3 ≤ k then (none, s)
    else if n = 0 && (k = 2) = hit then (some k, { s with upset := none }) else (none, { s with upset := some (.found k (n - 1)) })
  | _, _ => (none, s)

/-- A read of HTSLOT finds an error of the held-task table (R355). -/
def State.badSlot (s : State) (o : Nat) : Bool :=
  match s.upset with
  | some (.found k _) => k = 7 && o / 8 * 8 = 0xF008
  | _ => false

/-- An access through a leaf that names a frame of this module or host memory: the class rules, then the Perform. -/
def State.homeAccessAt (s : State) (a : Actor) (l : Leaf) (va : Nat) (op : MemOp) : Acc × State :=
  let pa := l.pa + va % 65536
  if l.mt = 2 then
    match op with
    | .read n =>
      if s.badSlot (pa % 2 ^ 30) then (.fault 0x2F9, { s with upset := none })
      else (.ok (s.ctlRead ((pa - windowBase) / 2 ^ 30 % 4) (pa % 2 ^ 30) n), s)
    | .write n v => (.ok 0, s.ctlWrite ((pa - windowBase) / 2 ^ 30 % 4) (pa % 2 ^ 30) n v)
    | _ => (.ok 0, s)
  else if l.mt = 1 then
    match op with
    | .read _ => if a.waiter.inStep then s.hostNow a pa va op else s.hostLoad a pa op
    | _ => s.performFor a pa va op
  else match s.classFor a l va op.writes with
    | (false, s) => (.stall l.key, s)
    | (true, s) =>
      let hit := s.l1Hit (a.cached l op) (s.owns a l) op.writes pa
      let (found, s) := s.meet a hit
      if !hit && s.lineLost pa op.size || found = some 0 then s.unreadable a pa va
      else if found.isSome then (.fault (BitVec.ofNat 10 (0x2C0 + 8 * found.getD 0 + a.type)), s)
      else
        let (r, s) := (s.cacheAccess (a.cached l op) (s.owns a l) op.writes pa).performFor a pa va op
        match a.party with
        | .core n => (r, s.learn n va l)
        | _ => (r, s)

/-- An access to Guash memory that no class change holds: one that the device makes to a backing page (R59), or the replay of
a logged store (R213). -/
def State.performNow (s : State) (a : Actor) (l : Leaf) (va : Nat) (op : MemOp) : Acc × State :=
  let pa := l.pa + va % 65536
  if s.lineLost pa op.size then s.unreadable a pa va
  else (s.cacheAccess (a.cached l op) (s.owns a l) op.writes pa).performFor a pa va op

/-- How a peer access fails at another logical device of this module: its fault is logged there, as one that the accessing warp's
operation causes (R376), and reaches the source as REMOTE_FAULT, but for a class 6 cause (R255, R339). -/
def State.targetFault (s : State) (dev : Nat) (a : Actor) (va : Nat) (c : BitVec 10) : Acc × State :=
  let s := s.logEvent { cause := c, src := dev, addr := BitVec.ofNat 64 va, task := a.task, who := s.memberFor a }
  if 0x180 ≤ c && c < 0x1C0 then (.fault c, s) else (.fault (BitVec.ofNat 10 (0x280 + a.type)), s)

/-- The leaf of another logical device of this module that an access comes to, or how it ends there (R198, R254, R255). -/
def State.targetLeaf (s : State) (dev : Nat) (a : Actor) (va : Nat) (op : MemOp) : Except Acc Leaf × State :=
  let fail (s : State) (c : BitVec 10) : Except Acc Leaf × State :=
    let r := s.targetFault dev a va c
    (.error r.1, r.2)
  if (s.device dev).drst then (.error (.fault (BitVec.ofNat 10 (0x2A8 + a.type))), s)
  else if nonCanon va then fail s (BitVec.ofNat 10 (0x110 + a.type))
  else match s.walk dev va with
    | (.error, s) => fail s (BitVec.ofNat 10 (0x108 + a.type))
    | (.lost pa, s) =>
      (.error (.fault (BitVec.ofNat 10 (0x2A0 + a.type))), (s.unreadable a pa va).2)
    | (.host, s) => fail s (BitVec.ofNat 10 (0x2B0 + a.type))
    | (.full, s) => (.error (.stall missPage), s)
    | (.absent pgr, s) => match s.notPresent dev pgr va a false with
      | (.fault c, s) => fail s c
      | (.pager h, s) => (.error (.pager { h with cause := BitVec.ofNat 10 (0x280 + a.type) }), s)
      | (r, s) => (.error r, s)
    | (.leaf l, s) =>
      if l.peer then fail s (BitVec.ofNat 10 (0x108 + a.type))
      else match protection l va a.type op with
        | some c => fail s c
        | none => (.ok l, s)

/-- A peer access performed at another logical device of this module (R198, R254, R255). -/
def State.targetAccess (s : State) (dev : Nat) (a : Actor) (va : Nat) (op : MemOp) : Acc × State :=
  match s.targetLeaf dev a va op with
  | (.error r, s) => (r, s)
  | (.ok l, s) =>
    match s.homeAccessAt { a with party := .peer a.dev, drains := [] } l va op with
    | (.fault c, s) =>
      if 0x2C0 ≤ c && c < 0x300 then (.fault (BitVec.ofNat 10 (0x2A0 + a.type)), s)
      else s.targetFault dev a va c
    | r => r

end Sys2Proof.Machine

namespace Sys2Proof

/-- The cause that an answer of another module raises at the access, if it raises one (R254 to R256, R339). -/
def PeerResult.cause (r : PeerResult) (type : Nat) : Option (BitVec 10) :=
  let c (base : Nat) : Option (BitVec 10) := some (BitVec.ofNat 10 (base + type))
  match r with
  | .value _ => none
  | .done => none
  | .appliedUnknown => c 0x298
  | .cancelled => c 0x288
  | .fault _ => c 0x280
  | .countWord k => c (0x180 + 8 * k.toNat)
  | .integrity => c 0x2A0
  | .gone => c 0x2A8

end Sys2Proof

namespace Sys2Proof.Machine

/-- Which pair of logical devices a request belongs to (R253). -/
def pairKey (src rmod rdev : Nat) : Nat := (src * 2 ^ 16 + rmod) * 4 + rdev

/-- A request to another module: sent once, or its answer taken when it has come (R253 to R257). A tagged request
waits at IO for its tag. -/
def State.remoteAccess (s : State) (a : Actor) (e : Import) (va : Nat) (op : MemOp) : Acc × State :=
  match s.findReq a.waiter va op with
  | some (i, r) =>
    let put (r : PeerReq) : State := { s with io := { s.io with reqs := Tab.set s.io.reqs i r } }
    -- a failed request of a lane that carries a tag keeps it, so that a resumption sends it again (R253, R254)
    let resumes : Bool := match a.waiter with | .lane _ _ => r.tag.isSome | .engine _ _ => false
    let failed : State :=
      if resumes then put { r with down := false, result := none, again := true, cancelling := false, port := none }
      else s.dropReq i
    if r.down then (.fault (BitVec.ofNat 10 (0x290 + a.type)), failed)
    else if r.again then
      match s.portFor r with
      | some p => (.remote i, put { r with again := false, port := some p, sent := s.now })
      | none => (.fault (BitVec.ofNat 10 (0x290 + a.type)), s)
    else match r.result with
      | none => (.remote i, s)
      | some res => match res.cause a.type with
        | some c => (.fault c, if res = .appliedUnknown then s.dropReq i else failed)
        | none => match res with
          | .value v => (.ok v, s.dropReq i)
          | _ => (.ok 0, s.dropReq i)
  | none =>
    let r : PeerReq := { dev := a.dev, rmod := e.rmod, rdev := e.rdev, va := va, type := a.type, op := op,
                         waiter := a.waiter, sent := s.now }
    let i := s.io.nextReq
    let put (r : PeerReq) : State := { s with io := { s.io with reqs := Tab.set s.io.reqs i r, nextReq := i + 1 } }
    if op.writes || op.atomic then (.remote i, put r)
    else match s.portFor r with
      | some p => (.remote i, put { r with port := some p })
      | none => (.fault (BitVec.ofNat 10 (0x290 + a.type)), s)

/-- A request inside the module (R253): performed over the torus, or held at the target under IO's timer (R255). One that a
cancel has confirmed ends in PEER_TIMEOUT. -/
def State.nearAccess (s : State) (a : Actor) (e : Import) (page va : Nat) (op : MemOp) : Acc × State :=
  let old := s.findReq a.waiter va op
  let give (s : State) : State := match old with | some (i, _) => s.dropReq i | none => s
  match old.bind (fun e => e.2.result) with
  | some _ => (.fault (BitVec.ofNat 10 (0x288 + a.type)), give s)
  | none =>
    let r : PeerReq := { dev := a.dev, rmod := e.rmod, rdev := e.rdev, va := va, type := a.type, op := op, waiter := a.waiter,
                         sent := s.now }
    let wait (s : State) : State :=
      if a.waiter.unnamed || old.isSome then s
      else { s with io := { s.io with reqs := Tab.set s.io.reqs s.io.nextReq r, nextReq := s.io.nextReq + 1 } }
    match s.targetAccess e.rdev a va op with
    | (.pager h, s) => (.pager { h with page := page }, wait s)
    | (.stall p, s) => (.stall p, wait s)
    | (r, s) => (r, give s)

/-- An access through a peer leaf (R198, R199). -/
def State.peerAccess (s : State) (a : Actor) (l : Leaf) (va : Nat) (op : MemOp) : Acc × State :=
  match s.importOf a.dev l with
  | none => (.fault (BitVec.ofNat 10 (0x118 + a.type)), s)
  | some e =>
    if (op.writes || op.atomic || op.count) && !e.wr then (.fault (BitVec.ofNat 10 (0x160 + a.type)), s)
    else
      let va' := e.rbase + 65536 * l.ipage + va % 65536
      if e.rmod = s.io.mymod then s.nearAccess a e (va / 65536) va' op else s.remoteAccess a e va' op

/-- An access through a leaf. -/
def State.accessLeaf (s : State) (a : Actor) (l : Leaf) (va : Nat) (op : MemOp) : Acc × State :=
  match protection l va a.type op with
  | some c => (.fault c, s)
  | none => if l.peer then s.peerAccess a l va op else s.homeAccessAt a l va op

/-- A translation for an actor: a core's through its TLB, another party's by a walk (R208). -/
def State.translate (s : State) (a : Actor) (va : Nat) : Walk × State :=
  match a.party with
  | .core n => s.tlbWalk n va
  | _ => s.walk a.dev va

/-- What a failed pager raises at an access that it held (R365): taken once. -/
def State.takeFailed (s : State) (a : Actor) (va : Nat) : Option (BitVec 10) × State :=
  match a.waiter with
  | .lane f _ =>
    match Tab.find (s.warp f.core f.slot).frags f.frag with
    | some x => match x.failed with
      | some h =>
        if h.page = va / 65536 then (some h.cause, s.setFrag f.core f.slot f.frag { x with failed := none }) else (none, s)
      | none => (none, s)
    | none => (none, s)
  | .engine _ _ => (none, s)

/-- The requests of a waiter whose work is over are given up (R253). -/
def State.dropWaiter (s : State) (w : Waiter) : State :=
  { s with io := { s.io with reqs := s.io.reqs.filter (fun e => !(e.2.waiter == w)) } }

/-- The requests of a waiter that are held inside the module are given up (R365). -/
def State.dropNear (s : State) (w : Waiter) : State :=
  { s with io := { s.io with reqs := s.io.reqs.filter (fun e => !(e.2.waiter == w && !e.2.host && e.2.rmod == s.io.mymod)) } }

/-- One access of up to one line to global memory or through a peer window (R90, R186, R209): `via` is the leaf of a
base register that covers it (R207). -/
def State.access (s : State) (a : Actor) (via : Option Leaf) (va : Int) (op : MemOp) : Acc × State :=
  if va < 0 || 2 ^ 57 ≤ va then (.fault (BitVec.ofNat 10 (0x110 + a.type)), s)
  else
    let va := va.toNat
    match (if (s.shut a.dev va).isSome then none else via), s.takeFailed a va with
    | some l, _ => s.accessLeaf a l va op
    | none, (some c, s) => (.fault c, s.dropNear a.waiter)
    | none, (none, s) =>
      match s.translate a va with
      | (.error, s) => (.fault (BitVec.ofNat 10 (0x108 + a.type)), s)
      | (.lost pa, s) => s.unreadable a pa va
      | (.host, s) => (.fault (BitVec.ofNat 10 (0x2B0 + a.type)), s)
      | (.full, s) => (.stall missPage, s)
      | (.leaf l, s) => s.accessLeaf a l va op
      | (.absent pgr, s) => s.notPresent a.dev pgr va a true

/-- The pieces of an access that lie in one line each, in ascending order: offset and length (R90). -/
def linePieces (va : Nat) : Nat → Nat → List (Nat × Nat)
  | 0, _ => []
  | fuel + 1, n =>
    if n = 0 then []
    else
      let k := min n (128 - va % 128)
      (va, k) :: linePieces (va + k) fuel (n - k)

/-- A read of `n` bytes, one operation per line touched (R90): its value, or the first piece that did not end. -/
def State.readPieces (s : State) (a : Actor) : List (Nat × Nat) → Nat → Nat → Acc × State
  | [], _, acc => (.ok acc, s)
  | (va, k) :: rest, sh, acc =>
    match s.access a none va (.read k) with
    | (.ok v, s) => s.readPieces a rest (sh + 8 * k) (acc + v * 2 ^ sh)
    | r => r

/-- `Read(addr, n)` (R90). -/
def State.readBytes (s : State) (a : Actor) (va : Int) (n : Nat) : Acc × State :=
  if va < 0 || 2 ^ 57 ≤ va then (.fault (BitVec.ofNat 10 (0x110 + a.type)), s)
  else s.readPieces a (linePieces va.toNat (n / 128 + 2) n) 0 0

/-- The lines of a write, in ascending order (R90). -/
def State.writePieces (s : State) (a : Actor) : List (Nat × Nat) → Nat → Acc × State
  | [], _ => (.ok 0, s)
  | (va, k) :: rest, v =>
    match s.access a none va (.write k (v % 2 ^ (8 * k))) with
    | (.ok _, s) => s.writePieces a rest (v / 2 ^ (8 * k))
    | r => r

/-- `Write(addr, v)` of `n` bytes (R90). -/
def State.writeBytes (s : State) (a : Actor) (va : Int) (n v : Nat) : Acc × State :=
  if va < 0 || 2 ^ 57 ≤ va then (.fault (BitVec.ofNat 10 (0x110 + a.type)), s)
  else s.writePieces a (linePieces va.toNat (n / 128 + 2) n) v

/-! ### Accesses of the word in focus. -/

/-- The fragment in focus by name. -/
def State.focusRef (s : State) : FragRef :=
  { core := Fin.ofNat 192 s.focus.core, slot := Fin.ofNat 128 s.focus.slot, frag := Fin.ofNat 96 s.focus.frag }

/-- The actor of a lane of the fragment in focus, for an access of a type. -/
def State.laneActor (s : State) (type lane : Nat) : Actor :=
  { party := .core s.focus.core, dev := s.die, task := some s.g.task, type := type,
    waiter := .lane s.focusRef lane }

/-- How a word goes on when an access did not end: it traps through Fault with the given TRAPDATA, or waits (R90,
R212). -/
def Acc.stop (r : Acc) (s : State) (data : Word64) : Res :=
  match r with
  | .ok _ => .done s
  | .fault c => .trap s c data
  | .pager h => .wait s (.pager { h with data := data })
  | .stall p => .wait s (.reclass p)
  | .remote i => .wait s (.peer i)

/-- The TRAPDATA of a lane's access (R219): the address in [56:0], the lane in [61:57]. -/
def laneData (va : Int) (lane : Nat) : Word64 := BitVec.ofNat 64 ((va % 2 ^ 57).toNat + lane * 2 ^ 57)

end Sys2Proof.Machine
end

