-- ==== Sys2Proof/Machine/Flags.lean ====
section
/-! DEFINITION. Conditions. The machine has no flags register: a condition is tested on a register value (R69, R122),
a scalar comparison writes −1, 0 or +1 (R112), and a vector comparison writes a mask register (R174). -/

namespace Sys2Proof

/-- The tests of BRC (R69): EQZ, NEZ, LTZ, GEZ, GTZ, LEZ. -/
def branchTest (cc : BitVec 3) (x : Word64) : Bool :=
  match cc.toNat with
  | 0 => x == 0
  | 1 => x != 0
  | 2 => x.toInt < 0
  | 3 => 0 ≤ x.toInt
  | 4 => 0 < x.toInt
  | _ => x.toInt ≤ 0

/-- The tests of BRV on the 32 bits of a lane, for cc 0 to 3 (R122). -/
def laneTest (cc : BitVec 3) (x : Word32) : Bool :=
  match cc.toNat with
  | 0 => x == 0
  | 1 => x != 0
  | 2 => x.getLsbD 31
  | _ => !x.getLsbD 31

/-- A three-way comparison (R112). -/
def compare3 (x y : Int) : Int := if x < y then -1 else if x = y then 0 else 1

/-- The exact comparison of VCMP (R174): nothing where an operand is NaN, else the sign of the difference. -/
def exactCmp (x y : FVal) : Option Int :=
  if x.isNan || y.isNan then none else some (FVal.cmp x y)

/-- The conditions of VCMP, d[5:3] (R174). -/
def vcmpTest (cond : Nat) (c : Option Int) : Bool :=
  match cond, c with
  | 0, some d => d == 0
  | 1, some d => d != 0
  | 2, some d => d < 0
  | 3, some d => d ≤ 0
  | 4, some d => 0 < d
  | 5, some d => 0 ≤ d
  | 6, some _ => false
  | _, some _ => true
  | 1, none => true
  | 6, none => true
  | _, none => false

end Sys2Proof
end

