-- ==== Sys2Proof/Machine/Trans.lean ====
section
/-! DEFINITION. Correctly rounded 2^x, log2 x, sin πx and cos πx (R148): a fixed-point enclosure of the exact value is
refined until both of its ends round to the same encoding. The exact cases are separate, and no other value of these
functions at a dyadic operand is representable or halfway between two encodings. -/

namespace Sys2Proof

/-! ### Series in fixed point: an integer v stands for v × 2^−P. -/

/-- Σ w_k / (2k + 1) for w_0 = w and w_(k+1) = w_k × z²: the series of atanh, `w` and `z2` in fixed point. -/
def oddSeries (P : Nat) (z2 : Int) : Nat → Int → Nat → Int
  | 0, _, _ => 0
  | n + 1, w, k => if w = 0 then 0 else w / (2 * k + 1) + oddSeries P z2 n (w * z2 / 2 ^ P) (k + 1)

/-- atanh z. -/
def atanhFix (P : Nat) (z : Int) : Int := oddSeries P (z * z / 2 ^ P) P z 0

/-- ln 2 = 2 atanh (1/3). -/
def ln2Fix (P : Nat) : Int := 2 * atanhFix P (2 ^ P / 3)

/-- arctan (1/n). -/
def atanInvFix (P n : Nat) : Int := oddSeries P (-(2 ^ P / (n * n : Nat))) P (2 ^ P / n) 0

/-- π = 16 arctan (1/5) − 4 arctan (1/239). -/
def piFix (P : Nat) : Int := 16 * atanInvFix P 5 - 4 * atanInvFix P 239

/-- Σ w_k for w_(k+1) = w_k × t / ((a k + b)(c k + d)): the series of exp, sin and cos. -/
def factSeries (P : Nat) (t : Int) (den : Nat → Nat) : Nat → Int → Nat → Int
  | 0, _, _ => 0
  | n + 1, w, k => if w = 0 then 0 else w + factSeries P t den n (w * t / 2 ^ P / den (k + 1)) (k + 1)

def expFix (P : Nat) (t : Int) : Int := factSeries P t (fun k => k) (P + 8) (2 ^ P) 0
def sinFix (P : Nat) (t : Int) : Int :=
  factSeries P (-(t * t / 2 ^ P)) (fun k => 2 * k * (2 * k + 1)) (P + 8) t 0
def cosFix (P : Nat) (t : Int) : Int :=
  factSeries P (-(t * t / 2 ^ P)) (fun k => (2 * k - 1) * (2 * k)) (P + 8) (2 ^ P) 0

/-! ### Refinement. -/

/-- A fixed-point integer times 2^`e` as an exact value. -/
def FVal.ofFix (P : Nat) (e v : Int) : FVal := .fin (v < 0) v.natAbs (e - P)

/-- The encoding of the value that `approx p` gives within 2^20 units of its last place, as the integer of a fixed
point and the number of its fraction bits, times 2^`e`; the precision doubles until both ends of the enclosure agree. -/
def Fmt.refine (f : Fmt) (rm : Rm) (sat : Bool) (e : Int) (approx : Nat → Int × Nat) : Nat → Nat → Nat
  | 0, p => f.round (FVal.ofFix (approx p).2 e (approx p).1) rm sat
  | n + 1, p =>
    let v := approx p
    let lo : Nat := f.round (FVal.ofFix v.2 e (v.1 - 2 ^ 20)) rm sat
    let hi : Nat := f.round (FVal.ofFix v.2 e (v.1 + 2 ^ 20)) rm sat
    if lo = hi then lo else f.refine rm sat e approx n (2 * p)

/-! ### The functions. -/

/-- VEXP2 (R148). -/
def Fmt.exp2 (f : Fmt) (x : FVal) (rm : Rm) (sat : Bool) : Nat :=
  match x with
  | .nan => f.nan
  | .inf neg => f.round (if neg then .fin false 0 0 else .inf false) rm sat
  | .fin neg m e =>
    if m = 0 then f.round (.fin false 1 0) rm sat
    else if 12 < e + m.log2 then
      -- far outside every format: any value beyond the range rounds as this one does
      f.round (.fin false 1 (if neg then -4000 else 4000)) rm sat
    else if e + m.log2 < -70 then
      -- 2^x lies strictly between 1 and its neighbours, much closer to 1 than any rounding boundary
      f.round (.fin false (if neg then 2 ^ 100 - 1 else 2 ^ 100 + 1) (-100)) rm sat
    else if 0 ≤ e then f.round (.fin false 1 (FVal.scaled 0 (.fin neg m e))) rm sat
    else
      let d := (-e).toNat
      let v : Int := if neg then -(m : Int) else m
      let n := v / 2 ^ d
      let r := v % 2 ^ d
      if r = 0 then f.round (.fin false 1 n) rm sat
      else f.refine rm sat n (fun p => (expFix (p + 80) (ln2Fix (p + 80) * r / 2 ^ d), p + 80)) 6 64

/-- VLOG2 (R148): x = 2^E × y for 3/4 ≤ y < 3/2, and log2 x = E + 2 atanh ((y − 1) / (y + 1)) / ln 2. -/
def Fmt.log2 (f : Fmt) (x : FVal) (rm : Rm) (sat : Bool) : Nat :=
  match x with
  | .nan => f.nan
  | .inf neg => if neg then f.nan else f.round (.inf false) rm sat
  | .fin neg m e =>
    if m = 0 then f.round (.inf true) rm sat
    else if neg then f.nan
    else
      let l := m.log2
      if m = 2 ^ l then f.round (FVal.ofInt (e + l)) rm sat
      else
        -- y = m / 2^k
        let k := if 3 * 2 ^ l ≤ 2 * m then l + 1 else l
        let E : Int := e + k
        f.refine rm sat 0 (fun p =>
          let P := p + 140
          let z : Int := ((m : Int) - 2 ^ k) * 2 ^ P / ((m : Int) + 2 ^ k)
          (E * 2 ^ P + 2 * atanhFix P z * 2 ^ P / ln2Fix P, P)) 6 64

/-- cos πρ or sin πρ for ρ = n / 2^d in [0, 1/2), in fixed point. -/
def trigFix (cos : Bool) (n d P : Nat) : Int :=
  let pi := piFix P
  if 4 * n ≤ 2 ^ d then
    let t := pi * n / 2 ^ d
    if cos then cosFix P t else sinFix P t
  else
    let t := pi * (2 ^ d - 2 * n : Int) / 2 ^ (d + 1)
    if cos then sinFix P t else cosFix P t

/-- The encoding of ± cos πr or ± sin πr for r = n / 2^d, n below 2^(d+1), and whether it is an exact zero. -/
def Fmt.trig (f : Fmt) (cos neg : Bool) (n d : Nat) (rm : Rm) : Nat × Bool :=
  let q := 2 * n / 2 ^ d
  let rest := n * 2 % 2 ^ d           -- ρ = rest / 2^(d+1)
  let cos' := if q % 2 = 1 then !cos else cos
  let neg' := (neg != (if cos then q == 1 || q == 2 else 2 ≤ q))
  if rest = 0 then
    if cos' then (f.round (.fin neg' 1 0) rm false, false) else (0, true)
  else (f.refine rm false 0 (fun p =>
    let P := p + d + 80
    let v := trigFix cos' rest (d + 1) P
    (if neg' then -v else v, P)) 6 64, false)

/-- sin πx (R148): zero at an integer takes the sign of x. -/
def Fmt.sinpi (f : Fmt) (x : FVal) (rm : Rm) : Nat :=
  match x with
  | .fin neg m e =>
    if 0 ≤ e then f.signBit neg
    else
      let d := (-e).toNat
      let r := f.trig false neg (m % 2 ^ (d + 1)) d rm
      if r.2 then f.signBit neg else r.1
  | _ => f.nan

/-- cos πx (R148). -/
def Fmt.cospi (f : Fmt) (x : FVal) (rm : Rm) : Nat :=
  match x with
  | .fin _ m e =>
    if 0 ≤ e then f.round (.fin (m * 2 ^ (min e.toNat 1) % 2 = 1) 1 0) rm false
    else
      let d := (-e).toNat
      (f.trig true false (m % 2 ^ (d + 1)) d rm).1
  | _ => f.nan

/-- The components of a twiddle factor (R166): cos (2πk/2^L) and −sin (2πk/2^L), + sin when `inv`, for k below 2^L. -/
def twiddle (k L : Nat) (inv : Bool) (rm : Rm) : Nat × Nat :=
  ((Fmt.f32.trig true false (2 * k) L rm).1, (Fmt.f32.trig false (!inv) (2 * k) L rm).1)

end Sys2Proof
end

