-- ==== Sys2Proof/Machine/Operands.lean ====
section
/-! DEFINITION. Vector operands: tags and their elements (R138, R142, R158), CheckTag (R144), Uniform (R90, R101), and
the writing of results to the active lanes (R155). -/

namespace Sys2Proof.Machine

/-! ### Tags (R138, R142). -/

def Tag.code : Tag → Nat
  | .x32 => 0 | .i32 => 1 | .n32 => 2 | .f32 => 3 | .f64l => 4 | .f64h => 5 | .bf16x2 => 6 | .h16x2 => 7
  | .e4m3x4 => 8 | .i16x2 => 9 | .i8x4 => 10 | .cpx32 => 11 | .empty => 15

/-- The tag of a code; 12 to 14 are never held, and no reader of this function passes them. -/
def Tag.ofCode (n : Nat) : Tag :=
  match n with
  | 0 => .x32 | 1 => .i32 | 2 => .n32 | 3 => .f32 | 4 => .f64l | 5 => .f64h | 6 => .bf16x2 | 7 => .h16x2
  | 8 => .e4m3x4 | 9 => .i16x2 | 10 => .i8x4 | 11 => .cpx32 | _ => .empty

/-- The format of a tag's elements, where they are floating-point. -/
def Tag.fmt : Tag → Option Fmt
  | .f32 => some .f32 | .cpx32 => some .f32 | .f64l => some .f64 | .bf16x2 => some .bf16 | .h16x2 => some .h16
  | .e4m3x4 => some .e4m3 | _ => none

/-- The format of a floating-point tag. -/
def Tag.format (t : Tag) : Fmt := t.fmt.getD .f32

/-- The width of an element in bits. -/
def Tag.width : Tag → Nat
  | .bf16x2 => 16 | .h16x2 => 16 | .i16x2 => 16 | .e4m3x4 => 8 | .i8x4 => 8 | .f64l => 64 | _ => 32

/-- The elements of a lane, or of a pair. -/
def Tag.count : Tag → Nat
  | .bf16x2 => 2 | .h16x2 => 2 | .i16x2 => 2 | .e4m3x4 => 4 | .i8x4 => 4 | .cpx32 => 2 | _ => 1

/-- The tag that the partner register of a pair holds. -/
def Tag.partner : Tag → Option Tag
  | .f64l => some .f64h | .cpx32 => some .f32 | _ => none

/-- The packed tags (R138). -/
def Tag.packed (t : Tag) : Bool :=
  t == .bf16x2 || t == .h16x2 || t == .e4m3x4 || t == .i16x2 || t == .i8x4

/-- Whether elements are read as signed: under `.n` packed elements are natural (R169). -/
def Tag.signed (t : Tag) (n : Bool) : Bool := t == .i32 || (t != .n32 && !n)

/-! ### Checks. -/

/-- A check that passes with a value, or traps with a cause and TRAPDATA before any effect. -/
abbrev Chk (α : Type) := Except (BitVec 10 × Word64) α

/-- What follows a check. -/
def Chk.run {α : Type} (c : Chk α) (s : State) (f : α → Res) : Res :=
  match c with
  | .ok a => f a
  | .error e => .trap s e.1 e.2

/-- TRAPDATA of tag and operand causes (R145, R185). -/
def opndData (reg found lane opnd value : Nat) : Word64 :=
  BitVec.ofNat 64 (reg % 64 + found * 2 ^ 6 + lane * 2 ^ 10 + opnd * 2 ^ 15 + value % 2 ^ 32 * 2 ^ 32)

/-- The vector registers of the kernel (R53). -/
def State.vregs (s : State) : Nat := 8 * s.t.desc.regs

/-- The pair tests of R144 on a source whose common tag is `t`. FOUND of PAIR_TAG is the tag of the second register, which the spec
leaves open (log 23). -/
def State.checkPair (s : State) (r opnd : Nat) (t : Tag) : Chk Tag :=
  match t.partner with
  | none => .ok t
  | some p =>
    if r % 2 = 1 then .error (0x085, opndData r t.code (lowLane s.active) opnd 0)
    else if s.vregs ≤ r + 1 then .error (0x080, s.focus.enc)
    else match (lanesOf s.active).find? (fun i => (s.V (r + 1) i).tag != p) with
      | some i => .error (0x086, opndData r (s.V (r + 1) i).tag.code i opnd 0)
      | none => .ok t

/-- The first three tests of CheckTag (R144): no active lane is EMPTY, the active lanes agree, and the common tag is
accepted; `agree` marks the test against the tag of an earlier source. -/
def State.checkOne (s : State) (r opnd : Nat) (ok : Tag → Bool) (agree : Bool) : Chk Tag :=
  let tag (i : Nat) : Tag := (s.V r i).tag
  let ls := lanesOf s.active
  let t := tag (lowLane s.active)
  match ls.find? (fun i => tag i == .empty) with
  | some i => .error (0x09F, opndData r 15 i opnd 0)
  | none => match ls.find? (fun i => tag i != t) with
    | some i => .error (0x087, opndData r (tag i).code i opnd 0)
    | none =>
      if ok t then .ok t
      else .error (if agree then 0x087 else BitVec.ofNat 10 (0x090 + t.code),
        opndData r t.code (lowLane s.active) opnd 0)

/-- CheckTag (R144) of an operand that a pair tag makes a pair. -/
def State.checkTag (s : State) (r opnd : Nat) (ok : Tag → Bool) : Chk Tag := do
  let t ← s.checkOne r opnd ok false
  s.checkPair r opnd t

/-- CheckTag of a source that must agree with an earlier one of tag `t`. -/
def State.checkSame (s : State) (r opnd : Nat) (t : Tag) : Chk Tag := do
  let t ← s.checkOne r opnd (· == t) true
  s.checkPair r opnd t

/-- The tests of a destination that a tag makes a pair (R158). -/
def State.checkDest (s : State) (d : Nat) (t : Tag) : Chk Unit :=
  match t.partner with
  | none => .ok ()
  | some _ =>
    if d % 2 = 1 then .error (0x085, opndData d t.code (lowLane s.active) 3 0)
    else if s.vregs ≤ d + 1 then .error (0x080, s.focus.enc)
    else .ok ()

/-- The agreement test of Uniform (R90): with U = 1 and CHECK = 1 every active lane holds the same value. -/
def State.checkUniform (s : State) (u : Bool) : List Nat → Chk Unit
  | [] => .ok ()
  | r :: rs =>
    if u && s.t.desc.check then
      match (lanesOf s.active).find? (fun i => (s.V r i).val != (s.V r (lowLane s.active)).val) with
      | some i => .error (0x084, BitVec.ofNat 64 (i + r * 32))
      | none => s.checkUniform u rs
    else .ok ()

/-- The partners that a common tag adds to the vector sources. -/
def Tag.partners (t : Tag) (rs : List Nat) : List Nat := if t.partner.isSome then rs.map (· + 1) else []

/-! ### Elements. -/

/-- The lane that an element-wise word reads for lane `i` (R101). -/
def State.src (s : State) (u : Bool) (i : Nat) : Nat := if u then lowLane s.active else i

/-- The elements that a register, or the pair that its tag makes it, holds in a lane. -/
def State.elemsAt (s : State) (r : Nat) (t : Tag) (i : Nat) : List Nat :=
  let lo := (s.V r i).val.toNat
  match t with
  | .f64l => [lo + (s.V (r + 1) i).val.toNat * 2 ^ 32]
  | .cpx32 => [lo, (s.V (r + 1) i).val.toNat]
  | _ => elems t.width t.count lo

/-- The writes that store elements under a tag in a lane of a register, or of a pair. -/
def laneWrites (d : Nat) (t : Tag) (i : Nat) (es : List Nat) : List RegWrite :=
  match t with
  | .f64l => [.v d i ⟨BitVec.ofNat 32 (es.headD 0), .f64l⟩, .v (d + 1) i ⟨BitVec.ofNat 32 (es.headD 0 / 2 ^ 32), .f64h⟩]
  | .cpx32 => [.v d i ⟨BitVec.ofNat 32 (es.headD 0), .cpx32⟩, .v (d + 1) i ⟨BitVec.ofNat 32 (es.getD 1 0), .f32⟩]
  | _ => [.v d i ⟨BitVec.ofNat 32 (pack t.width es), t⟩]

/-- The results `f i` written under a tag to every active lane of the destination (R155). -/
def State.putElems (s : State) (lat d : Nat) (t : Tag) (f : Nat → List Nat) : State :=
  s.putAll lat ((lanesOf s.active).flatMap (fun i => laneWrites d t i (f i)))

/-! ### Latencies (R96): of fixed latency, or interlocked (0). -/

def latScalar : Nat := 2
def latMultiply : Nat := 4
def latVector : Nat := 4
def latVectorMul : Nat := 6
def latMove : Nat := 6
def latCombine : Nat := 12
def latQuantise : Nat := 14
def latComplex : Nat := 8

/-- Floating point in the V pipe. -/
def latFloat (t : Tag) : Nat := if t == .f64l then 8 else 6

/-- Transcendental, and division and root, by tag. -/
def latTrans (t : Tag) : Nat := if t == .f64l then 0 else 12
def latDivide (t : Tag) : Nat := if t == .f64l then 0 else 16

end Sys2Proof.Machine
end

