-- ==== Sys2Proof/Machine/Scalar.lean ====
section
/-! DEFINITION. The scalar instructions, NOP and the special-register reads (R106 to R118, R127 to R129). -/

namespace Sys2Proof.Machine

/-! ### What the operations compute. -/

/-- `W(x)` (R108): the low 32 bits, sign-extended. -/
def wordW (x : Int) : Word64 := (BitVec.ofInt 32 x).signExtend 64

/-- The low 32 bits as an i32. -/
def low32 (x : Word64) : Int := (x.setWidth 32).toInt

/-- A sum or difference of R110, of 64 bits or, with m = 1, of 32. -/
def scalarSum (m sat : Bool) (f : Int → Int → Int) (x y : Word64) : Word64 :=
  let e := if m then f (low32 x) (low32 y) else f x.toInt y.toInt
  let lim : Int := if m then 2 ^ 31 else 2 ^ 63
  let e := if sat then min (max e (-lim)) (lim - 1) else e
  if m then wordW e else w64 e

def scalarMul (m : Bool) (x y : Word64) : Word64 := if m then wordW (low32 x * low32 y) else x * y

def scalarMulHigh (m : Bool) (x y : Word64) : Word64 :=
  w64 ((if m then (x.toNat : Int) * y.toNat else x.toInt * y.toInt) / 2 ^ 64)

/-- The quotient of R111, rounded toward zero; −1, that is all ones, for a zero divisor. -/
def scalarDiv (m : Bool) (x y : Word64) : Word64 :=
  if y = 0 then BitVec.allOnes 64
  else if m then BitVec.ofNat 64 (x.toNat / y.toNat) else w64 (x.toInt.tdiv y.toInt)

def scalarRem (m : Bool) (x y : Word64) : Word64 :=
  if y = 0 then x
  else if m then BitVec.ofNat 64 (x.toNat % y.toNat) else w64 (x.toInt.tmod y.toInt)

/-- The shifts of R110; the amount is a whole register. -/
def scalarShl (m : Bool) (x : Word64) (n : Nat) : Word64 :=
  if m then wordW (if 32 ≤ n then 0 else (x.setWidth 32 <<< n).toInt) else if 64 ≤ n then 0 else x <<< n

def scalarShr (m : Bool) (x : Word64) (n : Nat) : Word64 :=
  if m then wordW (if 32 ≤ n then 0 else (x.setWidth 32 >>> n).toInt) else if 64 ≤ n then 0 else x >>> n

def scalarSra (m : Bool) (x : Word64) (n : Nat) : Word64 :=
  if m then wordW (((x.setWidth 32).sshiftRight (min n 31)).toInt) else x.sshiftRight (min n 63)

/-- A 64-bit register read as i64, or with m = 1 as n64 (R112). -/
def reading (m : Bool) (x : Word64) : Int := if m then x.toNat else x.toInt

def scalarMin (m : Bool) (x y : Word64) : Word64 := if reading m y < reading m x then y else x
def scalarMax (m : Bool) (x y : Word64) : Word64 := if reading m x < reading m y then y else x
def scalarCmp (m : Bool) (x y : Word64) : Word64 := w64 (compare3 (reading m x) (reading m y))

/-- The number of set bits among the low `n` bits (R113). -/
def popCount (n x : Nat) : Nat := ((List.range n).filter (fun i => bitOf x i)).length

/-- The number of leading zeros of an `n`-bit value (R113, R173). -/
def leadZeros (n x : Nat) : Nat := if x % 2 ^ n = 0 then n else n - 1 - (x % 2 ^ n).log2

/-- The low `n` bits reversed (R113). -/
def reverseBits (n x : Nat) : Nat :=
  ((List.range n).map (fun i => if bitOf x i then 2 ^ (n - 1 - i) else 0)).foldl (· + ·) 0

/-! ### The shapes of a scalar word. -/

/-- A two-source word. -/
def State.scalarR (s : State) (o : OpR) (lat : Nat) (f : Word64 → Word64 → Word64) : Res :=
  .done (s.putS lat o.d (f (s.S o.a) (s.S o.b)))

/-- A word with an immediate. -/
def State.scalarI (s : State) (o : OpI) (lat : Nat) (f : Word64 → Int → Word64) : Res :=
  .done (s.putS lat o.d (f (s.S o.a) o.immI))

/-! ### Meanings. -/

/-- NOP (R118). -/
def execNop (_o : OpZ) (s : State) : Host.Outcome State Fault Refusal := (Res.done s).out

def execSaddR (o : OpR) (s : State) : Host.Outcome State Fault Refusal :=
  (s.scalarR o latScalar (scalarSum o.m o.sat (· + ·))).out
def execSsubR (o : OpR) (s : State) : Host.Outcome State Fault Refusal :=
  (s.scalarR o latScalar (scalarSum o.m o.sat (· - ·))).out
def execSmulR (o : OpR) (s : State) : Host.Outcome State Fault Refusal :=
  (s.scalarR o latMultiply (scalarMul o.m)).out
def execSmulh (o : OpR) (s : State) : Host.Outcome State Fault Refusal :=
  (s.scalarR o latMultiply (scalarMulHigh o.m)).out
def execSdiv (o : OpR) (s : State) : Host.Outcome State Fault Refusal := (s.scalarR o 0 (scalarDiv o.m)).out
def execSrem (o : OpR) (s : State) : Host.Outcome State Fault Refusal := (s.scalarR o 0 (scalarRem o.m)).out
def execSandR (o : OpR) (s : State) : Host.Outcome State Fault Refusal := (s.scalarR o latScalar (· &&& ·)).out
def execSorR (o : OpR) (s : State) : Host.Outcome State Fault Refusal := (s.scalarR o latScalar (· ||| ·)).out
def execSxorR (o : OpR) (s : State) : Host.Outcome State Fault Refusal := (s.scalarR o latScalar (· ^^^ ·)).out
def execSshlR (o : OpR) (s : State) : Host.Outcome State Fault Refusal :=
  (s.scalarR o latScalar (fun x y => scalarShl o.m x y.toNat)).out
def execSshrR (o : OpR) (s : State) : Host.Outcome State Fault Refusal :=
  (s.scalarR o latScalar (fun x y => scalarShr o.m x y.toNat)).out
def execSsraR (o : OpR) (s : State) : Host.Outcome State Fault Refusal :=
  (s.scalarR o latScalar (fun x y => scalarSra o.m x y.toNat)).out
def execSminR (o : OpR) (s : State) : Host.Outcome State Fault Refusal :=
  (s.scalarR o latScalar (scalarMin o.m)).out
def execSmaxR (o : OpR) (s : State) : Host.Outcome State Fault Refusal :=
  (s.scalarR o latScalar (scalarMax o.m)).out
def execScmpR (o : OpR) (s : State) : Host.Outcome State Fault Refusal :=
  (s.scalarR o latScalar (scalarCmp o.m)).out

/-- SSEL (R112): the old value of sd selects. -/
def execSsel (o : OpR) (s : State) : Host.Outcome State Fault Refusal :=
  let old := s.S o.d
  let takeA := if o.m then old.getLsbD 63 else old != 0
  (Res.done (s.putS latScalar o.d (if takeA then s.S o.a else s.S o.b))).out

def execSmov (o : OpR) (s : State) : Host.Outcome State Fault Refusal := (s.scalarR o latScalar (fun x _ => x)).out

/-- SLEA R (R114). -/
def execSleaR (o : OpR) (s : State) : Host.Outcome State Fault Refusal :=
  (s.scalarR o latScalar (fun x y => x + (if o.m then wordW y.toInt else y) * BitVec.ofNat 64 (2 ^ (o.xm.toNat % 8)))).out

def execSpopc (o : OpR) (s : State) : Host.Outcome State Fault Refusal :=
  (s.scalarR o latScalar (fun x _ => BitVec.ofNat 64 (popCount (if o.m then 32 else 64) x.toNat))).out
def execSclz (o : OpR) (s : State) : Host.Outcome State Fault Refusal :=
  (s.scalarR o latScalar (fun x _ => BitVec.ofNat 64 (leadZeros (if o.m then 32 else 64) x.toNat))).out
def execSbrev (o : OpR) (s : State) : Host.Outcome State Fault Refusal :=
  (s.scalarR o latScalar (fun x _ => BitVec.ofNat 64 (reverseBits (if o.m then 32 else 64) x.toNat))).out

def execSaddI (o : OpI) (s : State) : Host.Outcome State Fault Refusal :=
  (s.scalarI o latScalar (fun x k => x + w64 k)).out
def execSmulI (o : OpI) (s : State) : Host.Outcome State Fault Refusal :=
  (s.scalarI o latMultiply (fun x k => x * w64 k)).out
def execSandI (o : OpI) (s : State) : Host.Outcome State Fault Refusal :=
  (s.scalarI o latScalar (fun x k => x &&& w64 k)).out
def execSorI (o : OpI) (s : State) : Host.Outcome State Fault Refusal :=
  (s.scalarI o latScalar (fun x k => x ||| w64 k)).out
def execSxorI (o : OpI) (s : State) : Host.Outcome State Fault Refusal :=
  (s.scalarI o latScalar (fun x k => x ^^^ w64 k)).out

/-- The immediate shifts (R115): the amount is natural, below 64. -/
def execSshlI (o : OpI) (s : State) : Host.Outcome State Fault Refusal :=
  (s.scalarI o latScalar (fun x _ => scalarShl false x o.immN)).out
def execSshrI (o : OpI) (s : State) : Host.Outcome State Fault Refusal :=
  (s.scalarI o latScalar (fun x _ => scalarShr false x o.immN)).out
def execSsraI (o : OpI) (s : State) : Host.Outcome State Fault Refusal :=
  (s.scalarI o latScalar (fun x _ => scalarSra false x o.immN)).out

def execScmpI (o : OpI) (s : State) : Host.Outcome State Fault Refusal :=
  (s.scalarI o latScalar (fun x k => scalarCmp false x (w64 k))).out
def execSminI (o : OpI) (s : State) : Host.Outcome State Fault Refusal :=
  (s.scalarI o latScalar (fun x k => scalarMin false x (w64 k))).out
def execSmaxI (o : OpI) (s : State) : Host.Outcome State Fault Refusal :=
  (s.scalarI o latScalar (fun x k => scalarMax false x (w64 k))).out

/-- SLI (R116). -/
def execSli (o : OpL) (s : State) : Host.Outcome State Fault Refusal :=
  (Res.done (s.putS latScalar o.d (w64 o.immI))).out

/-- SLEA I (R117): the address of a packet of the running kernel. -/
def execSleaI (o : OpI) (s : State) : Host.Outcome State Fault Refusal :=
  (s.scalarI o latScalar (fun x k => s.f.pc + 12 * (w64 k + x))).out

/-! ### Special registers (R127 to R129). -/

/-- The frame page of the workgroup (R24, R128). -/
def State.framePage (s : State) : Nat :=
  if s.t.desc.frame = 0 then 0 else s.t.desc.frame + 4096 * s.g.linear

/-- The value that MFS reads, for every special register but LANEID (R128). -/
def State.readSpr (s : State) (n : Nat) : Word64 :=
  match n with
  | 0x001 => BitVec.ofNat 64 s.w.warpId
  | 0x002 => BitVec.ofNat 64 s.g.wgx
  | 0x003 => BitVec.ofNat 64 s.g.wgy
  | 0x004 => BitVec.ofNat 64 s.g.wgz
  | 0x005 => BitVec.ofNat 64 s.g.rank
  | 0x006 => BitVec.ofNat 64 s.focus.core
  | 0x007 => BitVec.ofNat 64 s.die
  | 0x008 => BitVec.ofNat 64 (s.t.gridX * s.t.gridY * s.t.gridZ)
  | 0x009 => s.t.argBase
  | 0x00A => s.t.seq
  | 0x00B => BitVec.ofNat 64 (s.clock s.die)
  | 0x00C => s.active.setWidth 64
  | 0x00D => BitVec.ofNat 64 s.framePage
  | 0x00E => BitVec.ofNat 64 s.t.desc.warps
  | 0x010 => s.view.trapCause.setWidth 64
  | 0x011 => s.view.trapPc
  | 0x012 => s.view.trapData
  | _ => 0

/-- MFS (R127). -/
def execMfs (o : OpL) (s : State) : Host.Outcome State Fault Refusal :=
  (Res.done (
    if o.immN = 0 then s.putLanes latScalar o.d.toNat s.active (fun i => ⟨BitVec.ofNat 32 i, .n32⟩)
    else s.putS (if o.immN = 0x00B then 0 else latScalar) o.d (s.readSpr o.immN))).out

/-- MTS (R127): TRAPPC or TRAPDATA takes the whole register. -/
def execMts (o : OpL) (s : State) : Host.Outcome State Fault Refusal :=
  (Res.done (s.put 0 (.spr o.immN (s.S o.d)))).out

end Sys2Proof.Machine
end

