-- ==== Sys2Proof/Machine/Control.lean ====
section
/-! DEFINITION. Control transfer and EXIT (R119 to R126, R131). -/

namespace Sys2Proof.Machine

/-- The packet at an offset from the packet in focus (R119). -/
def State.packetAt (s : State) (imm : Int) : Word64 := s.f.pc + 12 * w64 imm

/-- The fragment in focus continues at a packet (R119). -/
def State.transfer (s : State) (t : Word64) : State := s.setF { s.f with target := some t }

/-- BR (R120). -/
def execBr (o : OpJ) (s : State) : Host.Outcome State Fault Refusal := (Res.done (s.transfer (s.packetAt o.immI))).out

/-- BRC (R121). -/
def execBrc (o : OpC) (s : State) : Host.Outcome State Fault Refusal :=
  (Res.done (if branchTest o.cc (s.S o.a) then s.transfer (s.packetAt o.immI) else s)).out

/-- The active lanes that take a BRV (R122). -/
def State.brvTaken (s : State) (o : OpC) : BitVec 32 :=
  if o.cc.toNat < 4 then maskOf ((lanesOf s.active).filter (fun i => laneTest o.cc (s.V o.a.toNat i).val))
  else
    let k := s.K (o.a.toNat % 8)
    s.active &&& (if o.cc = 4 then k else ~~~k)

/-- The split of the fragment in focus into the lanes `t`, which go to `target`, and the others, which fall through:
the smaller side, `t` on a tie, goes into the entry `e` (R102). A fragment that a handler has stopped leaves both sides
stopped (R100). -/
def State.split (s : State) (t : BitVec 32) (target : Word64) (e : Nat) : State :=
  let f := s.f
  let next := f.pc + 12
  let rest := f.mask &&& ~~~t
  let detachTaken := (lanesOf t).length ≤ (lanesOf rest).length
  let side (taken : Bool) : BitVec 32 × Word64 := if taken then (t, target) else (rest, next)
  let away := side detachTaken
  let home := side !detachTaken
  let detached : Frag := { mask := away.1, pc := away.2, arrived := f.pc, stamp := f.stamp, nextIssue := f.nextIssue,
                           token := f.token, stopped := f.stopped }
  let q := s.focus.slot / 32
  let x := s.quad s.focus.core q
  let s := s.setQuad s.focus.core q { x with splits := Tab.set x.splits e 0 }
  let s := s.setF { f with mask := home.1, target := some home.2, brvWait := false }
  s.setFrag s.focus.core s.focus.slot e detached

/-- Whether a BRV splits its fragment, given the lanes that take it (R122). -/
def State.brvSplits (s : State) (o : OpC) : Bool :=
  let t := s.brvTaken o
  t != 0 && s.active &&& ~~~t != 0 && s.packetAt o.immI != s.f.pc + 12

/-- The tag test of a BRV (R122). -/
def State.brvCheck (s : State) (o : OpC) : Chk Unit := do
  if o.cc.toNat < 4 then
    let _ ← s.checkOne o.a.toNat 0 (fun _ => true) false
  return ()

/-- BRV (R122). Where it needs a split entry and none is free it does not issue (R102); one whose test traps needs none. -/
def execBrv (o : OpC) (s : State) : Host.Outcome State Fault Refusal :=
  ((s.brvCheck o).run s (fun _ =>
    let t := s.brvTaken o
    if s.brvSplits o then
      match s.splitFor s.focus.core (s.focus.slot / 32) s.focus.frag with
      | some e => .done (s.split t (s.packetAt o.immI) e)
      | none => .wait (s.setF { s.f with brvWait := true }) .none
    else .done (if t = 0 then s else s.transfer (s.packetAt o.immI)))).out

/-- RCV (R103, R123). -/
def execRcv (o : OpJ) (s : State) : Host.Outcome State Fault Refusal :=
  let a := s.packetAt o.immI
  (match firstFree s.w.tokens.keys 0 16 with
  | none => Res.trap s 0x302 a
  | some k =>
    let tok : Token := { addr := a, expect := s.active, outer := s.f.token }
    let s := s.setW { s.w with tokens := Tab.set s.w.tokens k tok }
    .done (s.setF { s.f with token := some k })).out

/-- CALL (R124): the write of s63 is interlocked. -/
def execCall (o : OpJ) (s : State) : Host.Outcome State Fault Refusal :=
  (Res.done ((s.putS 0 63 (s.f.pc + 12)).transfer (s.packetAt o.immI))).out

/-- RET (R125). -/
def execRet (o : OpR) (s : State) : Host.Outcome State Fault Refusal := (Res.done (s.transfer (s.S o.a))).out

/-- JMPI (R125): with m = 1 sa is read before sd is written. -/
def execJmpi (o : OpR) (s : State) : Host.Outcome State Fault Refusal :=
  let t := s.S o.a
  let s := if o.m then s.putS 0 o.d (s.f.pc + 12) else s
  (Res.done (s.transfer t)).out

/-- EXIT (R131): a word that ends its fragment's lanes. -/
def execExit (o : OpL) (s : State) : Host.Outcome State Fault Refusal :=
  (Res.done (s.exitLanes s.focus.core s.focus.slot s.focus.frag o.immN)).out

end Sys2Proof.Machine
end

