-- ==== Sys2Proof/Machine/Memory.lean ====
section
/-! DEFINITION. Memory instructions: lane addresses and their checks (R216 to R218), the accesses of an instruction in
progress (R212, R213, R219, R220), loads, stores, atomics and exact sums (R221 to R228), prefetch (R232). -/

namespace Sys2Proof.Machine

/-! ### Backing (R59). -/

/-- The virtual address of a page of the scratch backing area. -/
def State.backingVa (s : State) (d page : Nat) : Nat := (s.device d).sbbase + 4096 * page

/-- One access of the device to a backing page, of access type 7, on behalf of a core: a page that is not present fails,
whatever its pager, and a class change holds nothing. -/
def State.backingOp (s : State) (c task va : Nat) (op : MemOp) : Except (BitVec 10) Nat × State :=
  let a : Actor := { party := .core c, dev := dieOf c, task := some task, type := 7, waiter := .engine c 33 }
  match (match s.translate a va with | (.full, s) => s.walkTable a.dev va | r => r) with
  | (.error, s) => (.error 0x10F, s)
  | (.host, s) => (.error 0x2B7, s)
  | (.full, s) => (.error 0x107, s)
  | (.lost pa, s) => (.error 0x2C7, (s.unreadable a pa va).2)
  | (.absent _, s) => (.error 0x107, s)
  | (.leaf l, s) => match s.accessLeaf a l va op with
    | (.ok v, s) => (.ok v, s)
    | (.fault e, s) => (.error e, s)
    | (.stall _, s) => match s.performNow a l va op with
      | (.ok v, s) => (.ok v, s)
      | (.fault e, s) => (.error e, s)
      | (_, s) => (.error 0x107, s)
    | (_, s) => (.error 0x107, s)

/-- `n` lines read from an address on. -/
def State.backingLines (s : State) (c task va : Nat) : Nat → Except (BitVec 10) Nat × State
  | 0 => (.ok 0, s)
  | n + 1 => match s.backingOp c task va (.read 128) with
    | (.ok v, s) => match s.backingLines c task (va + 128) n with
      | (.ok r, s) => (.ok (v + 2 ^ 1024 * r), s)
      | (.error e, s) => (.error e, s)
    | (.error e, s) => (.error e, s)

/-- The low `n` lines of a number written from an address on. -/
def State.backingStore (s : State) (c task va : Nat) : Nat → Nat → Except (BitVec 10) Nat × State
  | 0, _ => (.ok 0, s)
  | n + 1, v => match s.backingOp c task va (.write 128 (v % 2 ^ 1024)) with
    | (.ok _, s) => s.backingStore c task (va + 128) n (v / 2 ^ 1024)
    | (.error e, s) => (.error e, s)

/-- Backing pages written with a number's bytes, 4,096 each. -/
def State.writeBacking (s : State) (c task : Nat) : List Nat → Nat → Except (BitVec 10) Nat × State
  | [], _ => (.ok 0, s)
  | p :: ps, v =>
    match s.backingStore c task (s.backingVa (dieOf c) p) 32 v with
    | (.ok _, s) => s.writeBacking c task ps (v / 2 ^ 32768)
    | (.error e, s) => (.error e, s)

/-- Backing pages read as one number. -/
def State.readBacking (s : State) (c task : Nat) : List Nat → Nat → Nat → Except (BitVec 10) Nat × State
  | [], _, acc => (.ok acc, s)
  | p :: ps, sh, acc =>
    match s.backingLines c task (s.backingVa (dieOf c) p) 32 with
    | (.ok v, s) => s.readBacking c task ps (sh + 32768) (acc + v * 2 ^ sh)
    | (.error e, s) => (.error e, s)

/-! ### Scratch (R187, R188). -/

/-- The bytes of the scratch window of the kernel in focus (R186). -/
def State.window (s : State) : Nat := s.t.desc.scratch * 4096

/-- The 4 KiB pages that `n` bytes at an offset touch. -/
def scratchPages (off n : Nat) : List Nat :=
  if n = 0 then [] else List.range' (off / 4096) ((off + n - 1) / 4096 + 1 - off / 4096)

/-- A touch of scratch pages pins them (R188). -/
def Workgroup.touch (g : Workgroup) (off n : Nat) : Workgroup :=
  { g with touched := (scratchPages off n).foldl addNat g.touched,
           pinned := (scratchPages off n).foldl addNat g.pinned }

/-- A page that was touched before its unit was restored is pinned on its next touch, and reads as its backing holds it
(R188). A page that cannot be read breaks the unit (R59). -/
def State.pin (s : State) (c g : Nat) : List Nat → State
  | [] => s
  | p :: ps =>
    let x := s.wg c g
    if !x.touched.contains p || x.pinned.contains p then s.pin c g ps
    else
      match s.readBacking c x.task [x.backing.getD p 0] 0 0 with
      | (.ok v, s) =>
        let x := s.wg c g
        (s.setWg c g { x with scratch := Memory.write x.scratch (4096 * p) 4096 v }).pin c g ps
      | (.error e, s) => (s.setWg c g { s.wg c g with broken := some e }).pin c g ps

/-- An operation on the scratch window of a workgroup, as one point at its core (R187). -/
def State.scratchOp (s : State) (c g off : Nat) (op : MemOp) : Nat × State :=
  let s := s.pin c g (scratchPages off op.size)
  let x := (s.wg c g).touch off op.size
  match op with
  | .write n v => (0, s.setWg c g { x with scratch := Memory.write x.scratch off n v })
  | _ => (Memory.read x.scratch off op.size, s.setWg c g x)

def State.scratchRead (s : State) (c g off n : Nat) : Nat × State := s.scratchOp c g off (.read n)
def State.scratchWrite (s : State) (c g off n v : Nat) : State := (s.scratchOp c g off (.write n v)).2

/-! ### The order of the lane accesses (R219, R226). -/

def LaneReq.page (r : LaneReq) : Nat := r.va / 65536

/-- The page that holds an address, by number: a 2 MiB page has one of its own (R186, R219). -/
def State.pageAt (s : State) (va : Nat) : Nat :=
  match (s.tlbWalk s.focus.core va).1 with
  | .leaf l => if l.big then bigPages + va / 2 ^ 21 else va / 65536
  | _ => va / 65536

/-- The page of an access, whichever translation it takes. -/
def State.pageOf (s : State) (r : LaneReq) : Nat :=
  match r.via with
  | some e => if e.leaf.big then bigPages + r.va / 2 ^ 21 else r.page
  | none => if r.scr then r.page else s.pageAt r.va

/-- One more access in a list: behind the last one to its address, or at the end. -/
def insertReq (r : LaneReq) : List LaneReq → List LaneReq
  | [] => [r]
  | q :: qs => if q.va = r.va && !qs.any (fun x => x.va == r.va) then q :: r :: qs else q :: insertReq r qs

/-- The pages in the order of the lowest lane that touches each, and within a page, where the order is free, the lanes of one
address together, lowest first. -/
def State.orderReqs (s : State) (rs : List LaneReq) : List LaneReq :=
  let rs := rs.map (fun r => { r with pg := s.pageOf r })
  let pages := rs.foldl (fun ps r => if ps.contains r.pg then ps else ps ++ [r.pg]) []
  pages.flatMap (fun p => (rs.filter (fun r => r.pg = p)).foldl (fun acc r => insertReq r acc) [])

/-! ### Accesses of an instruction in progress. -/

/-- The class that the core records for an access (R205). -/
def State.seenAt (s : State) (r : LaneReq) : SeenClass :=
  match r.via with
  | some e => e.seen
  | none => match (s.core s.focus.core).tlbAt r.va with
    | some e => e.seen
    | none => .unknown

/-- The warp in focus commits for pre-emption (R367). -/
def State.commit (s : State) : State := s.setW { s.w with committed := true }

/-- Whether a class that a core records makes an instruction one of those that a warp has at most one of (R202). -/
def SeenClass.strict : SeenClass → Bool
  | .unknown => true
  | .shared => true
  | _ => false

/-- Whether a lane of the fragment in focus has a request to another module or to the host that has not failed. -/
def State.asked (s : State) (r : LaneReq) : Bool :=
  s.io.reqs.any (fun e => e.2.waiter == .lane s.focusRef r.lane && !e.2.again)

/-- Whether that request is still to be answered. -/
def State.unanswered (s : State) (r : LaneReq) : Bool :=
  s.io.reqs.any (fun e => e.2.waiter == .lane s.focusRef r.lane && !e.2.again && e.2.result.isNone && !e.2.down)

/-- The side-log entries that the accesses of one page take: one per line of a store, one per reduction (R213). `lines` have
one. -/
def logEntries (task : Nat) : List Nat → List LaneReq → List LogEntry
  | _, [] => []
  | lines, r :: rs =>
    let line := match r.op with | .write _ _ => [r.va / 128] | _ => []
    ⟨task, r.va, r.op, line.isEmpty || !line.all lines.contains⟩ :: logEntries task (line ++ lines) rs

/-- All accesses of one page retire into the side log, when there is room for them together (R213). -/
def State.logAll (s : State) (rs : List LaneReq) : Option State :=
  let x := s.core s.focus.core
  let es := logEntries s.g.task [] rs
  if x.logUsed + (es.filter (fun e => e.fresh)).length ≤ 256 then
    some (s.setCore s.focus.core { x with sideLog := x.sideLog ++ es })
  else none

/-- The lanes that one access stands for. -/
def Flight.lanesFor (fl : Flight) (active : BitVec 32) (r : LaneReq) : BitVec 32 :=
  if fl.single then active else laneBit r.lane

/-- An access has been made, with the value that it answered. -/
def Flight.made (fl : Flight) (active : BitVec 32) (r : LaneReq) (v : Nat) : Flight :=
  { fl with done := fl.done ||| fl.lanesFor active r, got := Tab.set fl.got r.lane v }

/-- A pass over the accesses of one page: those that stay, the flight, and how the pass stopped. `held` are addresses with an
access on its way to another module, `taken` those whose lanes have gone there as one request. -/
structure Pass where
  s : State
  fl : Flight
  left : List LaneReq := []
  held : List Nat := []
  taken : List Nat := []
  park : Option Park := none
  fail : Option (BitVec 10 × Word64) := none

/-- The lowest lane among accesses, with its address. -/
def lowestReq (r : LaneReq) (rs : List LaneReq) : LaneReq := rs.foldl (fun m q => if q.lane < m.lane then q else m) r

/-- Whether an access goes through a peer window to another module. -/
def State.goesFar (s : State) (r : LaneReq) : Bool :=
  !r.scr && r.via.isNone && match (s.tlbWalk s.focus.core r.va).1 with
    | .leaf l => l.peer && match s.importOf s.die l with | some e => e.rmod != s.io.mymod | none => false
    | _ => false

/-- The other lanes of an ATM or XRD at the address of an access that goes to another module: one request asks for them all, so
that nothing comes between them (R226, R228). -/
def State.twins (s : State) (r : LaneReq) (rest : List LaneReq) : List LaneReq :=
  let joins := match r.op with | .atm _ _ _ _ => true | .xrd _ _ => true | _ => false
  if joins && rest.any (fun q => q.va == r.va) && s.goesFar r then rest.filter (fun q => q.va = r.va) else []

/-- What the one request asks for. -/
def joinedOp (op : MemOp) (twins : List LaneReq) : MemOp :=
  match op with
  | .atm o t x y => if twins.isEmpty then op else
      .atms o t ((x, y) :: twins.map (fun q => match q.op with | .atm _ _ x y => (x, y) | _ => (0, 0)))
  | _ => op

/-- The accesses that one answer ends, each with its value. -/
def Flight.madeAll (fl : Flight) (active : BitVec 32) (r : LaneReq) (twins : List LaneReq) (v : Nat) : Flight :=
  match r.op, twins with
  | .atm _ _ _ _, _ :: _ => (List.zipIdx (r :: twins)).foldl (fun fl e => fl.made active e.1 (v / 2 ^ (64 * e.2) % 2 ^ 64)) fl
  | _, _ => (r :: twins).foldl (fun fl q => fl.made active q v) fl

/-- One access of a pass; `rest` are the accesses after it. An access that the other module has performed, though its result is
lost, counts as done (R254, R256). -/
def Pass.step (p : Pass) (r : LaneReq) (rest : List LaneReq) : Pass :=
  let s := p.s
  if r.scr then
    match s.meet (s.laneActor p.fl.type r.lane) true with
    | (some k, s) =>
      let at_ := r.told.getD r.va
      { p with s := s, left := p.left ++ [r],
               fail := some (BitVec.ofNat 10 (0x2C0 + 8 * k + p.fl.type), if p.fl.plain then BitVec.ofNat 64 at_ else laneData at_ r.lane) }
    | (none, s) =>
      let (v, s) := s.scratchOp s.focus.core s.w.wg r.va r.op
      { p with s := s, fl := p.fl.made s.active r v }
  else
    let twins := s.twins r rest
    let strict := (s.seenAt r).strict
    let p := { p with taken := if twins.isEmpty then p.taken else r.va :: p.taken }
    let stay : Pass := { p with left := p.left ++ r :: twins }
    let a := { s.laneActor p.fl.type r.lane with drains := p.fl.drains }
    match s.access a (r.via.map (fun e => e.leaf)) r.va (joinedOp r.op twins) with
    | (.ok v, s) => { p with s := if p.fl.commits && strict then s.commit else s, fl := p.fl.madeAll s.active r twins v }
    | (.fault c, s) =>
      let low := if !p.fl.free && 0x100 ≤ c && c < 0x1C0 then lowestReq r (p.left ++ rest) else r
      let at_ := low.told.getD low.va
      let data := if p.fl.plain then BitVec.ofNat 64 at_ else laneData at_ low.lane
      if 0x298 ≤ c && c < 0x2A0 then
        { p with s := s, fl := (r :: twins).foldl (fun fl q => { fl with done := fl.done ||| fl.lanesFor s.active q }) p.fl,
                 fail := some (c, data) }
      else { stay with s := s, fail := some (c, data) }
    | (.pager h, t) =>
      let low := if p.fl.free then r else lowestReq r (p.left ++ rest)
      { stay with s := t.reportFirst s h low.va, park := some (.pager h) }
    | (.stall page, s) => { stay with s := s, park := some (.reclass page) }
    | (.remote i, s) => { stay with s := s, held := r.va :: p.held, park := some (.peer i) }

/-- Whether a pass goes on after its latest access. -/
def Pass.goes (p : Pass) : Bool :=
  p.fail.isNone && match p.park with | none => true | some (.peer _) => true | _ => false

/-- The accesses of one page, those that may be made now: an access whose address a lane of `lanes` names, with every
lower lane of that address before it. -/
def Pass.run (p : Pass) (may : LaneReq → Bool) : List LaneReq → Pass
  | [] => p
  | r :: rest =>
    if p.taken.contains r.va then p.run may rest
    else if !p.goes then { p with left := p.left ++ [r] }.run may rest
    else if p.held.contains r.va || !may r then { p with left := p.left ++ [r] }.run may rest
    else (p.step r rest).run may rest

/-- Whether a step serves all lanes: it then makes every access that it can, in order. -/
def State.whole (s : State) : Bool := s.focus.lanes = BitVec.allOnes 32

/-- Whether an access may be made in this step: of a word whose accesses name no lanes, one that the step names by its place among
those that are left, so that they may be made in any order, with anything between them (R320, R322). -/
def State.picks (s : State) (fl : Flight) (page rest : List LaneReq) (r : LaneReq) : Bool :=
  if fl.fault.isSome then s.asked r
  else if fl.plain then s.whole || page.findIdx (fun q => q == r) == s.focus.lanes.toNat % page.length
  else (page ++ rest).any (fun q => q.va = r.va && s.focus.lanes.getLsbD (q.lane % 32))

/-- The pass over the next page of a flight. Stores and reductions that find the page absent retire into the side log while its
upcall entry names the core (R212, R213). -/
def State.passPage (s : State) (fl : Flight) (page rest : List LaneReq) : Pass :=
  let may := s.picks fl page rest
  let q := Pass.run { s := s, fl := fl } may page
  match q.park with
  | some (.pager _) =>
    if fl.logs && q.s.mayLog s.focus.core (page.headD default).va then
      match q.s.logAll q.left with
      | some s =>
        let s := if fl.commits then s.commit else s
        { q with s := s, fl := q.left.foldl (fun fl r => fl.made s.active r 0) q.fl, left := [], park := none }
      | none => { q with park := some (.logFull (page.headD default).page) }
    else q
  | _ => q

/-- The writes of an ATM's old values (R225). -/
def Flight.oldWrites (fl : Flight) : List RegWrite :=
  match fl.old with
  | none => []
  | some (d, t) => fl.got.flatMap (fun e =>
      if t == .f64l then laneWrites d t e.1 [e.2] else [.v d e.1 ⟨BitVec.ofNat 32 e.2, t⟩])

/-- What an instruction in progress keeps when it traps (R220, R295): DMASK, and an ATM's old values of the lanes done;
or MP. -/
def State.keepFlight (s : State) (fl : Flight) : State :=
  match fl.step with
  | some n => s.setW { s.w with progress := { mp := n, mst := fl.commits, pc := s.f.pc, pos := s.focus.pos } }
  | none =>
    if fl.keep then
      let s := s.setW { s.w with progress := { dmask := fl.done, pc := s.f.pc, pos := s.focus.pos } }
      s.putAll 0 fl.oldWrites
    else s

/-- What is left of an instruction that an access holds: a pager's hold begins an image that is read whole again (R289). -/
def Flight.heldBy (fl : Flight) (p : Park) : Flight :=
  match p with
  | .pager _ => if fl.whole.isEmpty then fl else { fl with reqs := fl.whole, got := [], done := 0 }
  | _ => fl

/-- The requests outside the module that an image has open are dropped with it: the reads that begin it again are new ones (R289). -/
def State.dropImage (s : State) (fl : Flight) (p : Park) : State :=
  match p with
  | .pager _ =>
    if fl.whole.isEmpty then s
    else
      let gone (r : PeerReq) : Bool := r.forFocus s.focus && (r.host || r.rmod != s.io.mymod)
      { s with io := { s.io with reqs := s.io.reqs.filter (fun e => !gone e.2) } }
  | _ => s

/-- The state without the word in progress of the fragment in focus. -/
def State.landed (s : State) : State := s.setF { s.f with flight := none }

/-- The flight goes on: page by page, until every access has been made, the instruction waits, or it traps. `n` bounds
the pages. -/
def State.fly (s : State) : Nat → Flight → Res
  | 0, fl => .done (s.setF { s.f with flight := some fl })
  | n + 1, fl =>
    match fl.reqs with
    | [] => match fl.fault with
      | some (c, d) => .trap (s.keepFlight fl) c d
      | none => .done (s.setF { s.f with flight := some fl })
    | r :: _ =>
      let page := fl.reqs.filter (fun q => fl.free || q.pg = r.pg)
      let rest := fl.reqs.filter (fun q => !fl.free && q.pg != r.pg)
      let p := s.passPage fl page rest
      let open_ := p.left.any p.s.unanswered
      let fault := match fl.fault with | some e => some e | none => p.fail
      let fl := { p.fl with reqs := p.left ++ rest, fault := fault }
      match fault with
      | some (c, d) =>
        if open_ then
          let s := p.s.setF { p.s.f with flight := some fl }
          .wait s (p.park.getD .busy)
        else if p.s.f.stopped.isSome || p.s.w.debugParked.isSome then
          .wait (p.s.setF { p.s.f with flight := some { fl with fault := none }, again := true }) .busy
        else .trap (p.s.keepFlight fl) c d
      | none =>
        let park := p.park.getD .busy
        if p.left.isEmpty then p.s.fly n fl
        else .wait ((p.s.dropImage fl park).setF { p.s.f with flight := some (fl.heldBy park) }) park

/-- Whether accesses touch a page that the core records as SHARED, or has no class for (R202). -/
def State.touchesShared (s : State) (rs : List LaneReq) : Bool := rs.any (fun r => !r.scr && (s.seenAt r).strict)

/-- The state in which a memory instruction begins its accesses: the warp commits at an atomic or a count-word operation, or at a
store to a page that is SHARED, unclassified or behind a peer window (R367). -/
def State.begun (s : State) (commits : Bool) (fl : Flight) (reqs : List LaneReq) : State :=
  if commits || (fl.commits && s.touchesShared reqs) then s.commit else s

/-- The state that a memory instruction leaves that has touched a SHARED or unclassified page, or only others (R202). -/
def State.noting (s : State) (strict : Bool) : State := { s with focus := { s.focus with touched := some strict } }

/-- Runs a memory instruction: its checks and accesses when it begins, what is left of them when it goes on, and `done`
once every access has been made. -/
def State.runFlight (s : State) (begin_ : Chk Flight) (commits : Bool) (done : State → Flight → Res) : Res :=
  let finish (r : Res) : Res := r.bind (fun s =>
    let fl := s.f.flight.getD {}
    (done (s.noting fl.strict).landed fl).bind (fun s =>
      let p := s.w.progress
      .done (if fl.keep && p.pc = s.f.pc && p.pos = s.focus.pos then s.setW { s.w with progress := {} } else s)))
  match s.f.flight with
  | some fl => finish (s.fly (fl.reqs.length + 1) { fl with reqs := if fl.free then fl.reqs else s.orderReqs fl.reqs })
  | none => begin_.run (if commits then s.commit else s) (fun fl =>
    let p := s.w.progress
    let again := fl.keep && p.armed && p.pc = s.f.pc && p.pos = s.focus.pos
    let skip := if again then p.dmask else 0
    let s := if again then s.setW { s.w with progress := {} } else s
    let reqs := fl.reqs.filter (fun r => !skip.getLsbD r.lane)
    let strict := s.touchesShared reqs
    let s := s.begun commits fl reqs
    let fl := { fl with done := skip, strict := strict, reqs := s.orderReqs reqs }
    finish (s.fly (fl.reqs.length + 1) fl))

/-! ### Address forms (R216). -/

/-- An address form: the address of each lane and the base register's translation that covers it, whether every lane
has the same one, and the register that supplies it (R238). -/
structure Form where
  addr : Nat → Int
  via : Nat → Option TlbEntry := fun _ => none
  same : Bool
  off : Option Nat := none
  reg : Nat
  scratch : Bool := false

/-- The tags of an offset register (R216). -/
def isOffset (t : Tag) : Bool := t == .x32 || t == .i32 || t == .n32

/-- The offset that a lane of an offset register holds. -/
def State.offsetAt (s : State) (r i : Nat) : Int :=
  let x := s.V r i
  if x.tag == .i32 then x.val.toInt else x.val.toNat

/-- The translation that a base register gives for a byte offset inside its run (R207). -/
def BaseReg.at (b : BaseReg) (off : Int) : Option TlbEntry :=
  if 0 ≤ off && off < b.limit then
    let va := b.vbase.toNat + off.toNat
    let (cls, big) := b.pages.getD (va / 65536 - b.vbase.toNat / 65536) (0, false)
    let leaf : Leaf := { pa := b.frame + off.toNat - va % 65536, big := big, w := b.w, x := b.x, cls := cls, cnt := b.cnt, mt := b.mt }
    some ⟨leaf, b.seen⟩
  else none

/-- The form of a word of format M that addresses global memory. -/
def State.formM (s : State) (o : OpM) (unit : Nat) : Form :=
  let b := s.B o.base.toNat
  if o.xk then
    let off := o.immI * unit
    { addr := fun _ => (b.vbase.toNat : Int) + off, via := fun _ => b.at off, same := true, reg := o.base.toNat }
  else
    let off (i : Nat) : Int := s.offsetAt o.x.toNat i
    { addr := fun i => (b.vbase.toNat : Int) + off i, via := fun i => b.at (off i), same := false,
      off := some o.x.toNat, reg := o.x.toNat }

/-- The form of LDS and STS in format M. -/
def State.formScratch (s : State) (o : OpM) (unit : Nat) : Form :=
  if o.xk then { addr := fun _ => o.immI * unit, same := true, reg := 0, scratch := true }
  else { addr := fun i => s.offsetAt o.x.toNat i, same := false, off := some o.x.toNat, reg := o.x.toNat, scratch := true }

/-- The form of a word of format N. -/
def State.formN (s : State) (o : OpN) (unit : Nat) (scratch : Bool) : Form :=
  { addr := fun _ => ((s.S o.a).toNat : Int) + o.immI * unit, same := true, reg := o.a.toNat, scratch := scratch }

/-- The lanes that make an access of their own (R221). -/
def State.lanesMade (s : State) (single : Bool) : List Nat := if single then [lowLane s.active] else lanesOf s.active

/-- The tag of the offset register (R216). -/
def State.checkOffset (s : State) (fm : Form) : Chk Unit :=
  match fm.off with
  | some r => do let _ ← s.checkOne r 1 isOffset false
  | none => .ok ()

/-- The address form (NONCANON, SCRATCH_RANGE), then the alignment, of every lane that makes an access (R218). -/
def State.checkForm (s : State) (fm : Form) (type align : Nat) (lanes : List Nat) (once : Bool) : Chk Unit :=
  let bad (i : Nat) : Bool :=
    if fm.scratch then fm.addr i < 0 || (s.window : Int) ≤ fm.addr i else fm.addr i < 0 || 2 ^ 57 ≤ fm.addr i
  match lanes.find? bad with
  | some i =>
    if fm.scratch then .error (BitVec.ofNat 10 (0x120 + type), w64 (fm.addr i))
    else .error (BitVec.ofNat 10 (0x110 + type), laneData (fm.addr i) i)
  | none => match lanes.find? (fun i => fm.addr i % (align : Int) != 0) with
    | some i => .error (0x0A0, opndData fm.reg 0 (if once then 0 else i) (bit fm.off.isSome) (fm.addr i).toNat)
    | none => .ok ()

/-- The accesses of an instruction: `op i` is what lane i asks for. -/
def State.flight (s : State) (fm : Form) (type : Nat) (single : Bool) (op : Nat → MemOp) : Flight :=
  { type := type, single := single
    reqs := (s.lanesMade single).map (fun i => { lane := i, va := (fm.addr i).toNat, op := op i, via := fm.via i,
                                                  scr := fm.scratch }) }

/-! ### Loads (R222, R224). -/

/-- The bytes of a width code (R217). -/
def widthBytes (w : BitVec 3) : Nat :=
  match w.toNat with | 0 => 1 | 1 => 1 | 2 => 2 | 3 => 2 | 4 => 4 | 5 => 4 | 6 => 8 | _ => 16

/-- What a load writes: register offset and lane contents for each register of the width code. -/
def loadLanes (w : BitVec 3) (v : Nat) : List (Nat × Lane) :=
  let x (v : Nat) : Word32 := BitVec.ofNat 32 v
  match w.toNat with
  | 0 => [(0, ⟨x v, .n32⟩)]
  | 1 => [(0, ⟨BitVec.ofInt 32 (signedOf 8 v), .i32⟩)]
  | 2 => [(0, ⟨x v, .n32⟩)]
  | 3 => [(0, ⟨BitVec.ofInt 32 (signedOf 16 v), .i32⟩)]
  | 4 => [(0, ⟨x v, .x32⟩)]
  | 5 => [(0, ⟨x v, .f32⟩)]
  | 6 => [(0, ⟨x v, .f64l⟩), (1, ⟨x (v / 2 ^ 32), .f64h⟩)]
  | _ => [0, 1, 2, 3].map (fun j => (j, ⟨x (v / 2 ^ (32 * j)), .x32⟩))

/-- The value that a lane of a flight received. -/
def Flight.valueFor (fl : Flight) (low i : Nat) : Nat := Tab.get fl.got 0 (if fl.single then low else i)

/-- The writes of a flight's values to the active lanes of registers from `d` on. -/
def State.gotWrites (s : State) (fl : Flight) (d : Nat) (lanes : Nat → List (Nat × Lane)) : List RegWrite :=
  (lanesOf s.active).flatMap (fun i => (lanes (fl.valueFor (lowLane s.active) i)).map (fun e => .v (d + e.1) i e.2))

/-- A load. -/
def State.load (s : State) (fm : Form) (u : Bool) (d : Nat) (w : BitVec 3) : Res :=
  let n := widthBytes w
  let begin_ : Chk Flight := do
    s.checkUniform u fm.off.toList
    s.checkOffset fm
    let single := u || fm.same
    s.checkForm fm 0 n (s.lanesMade single) false
    return s.flight fm 0 single (fun _ => .read n)
  s.runFlight begin_ false (fun s fl => .done (s.putAll 0 (s.gotWrites fl d (loadLanes w))))

def execLdM (o : OpM) (s : State) : Host.Outcome State Fault Refusal :=
  (s.load (s.formM o (widthBytes o.w)) o.u o.d.toNat o.w).out
def execLdN (o : OpN) (s : State) : Host.Outcome State Fault Refusal :=
  (s.load (s.formN o (widthBytes o.w) false) o.u o.d.toNat o.w).out
def execLdsM (o : OpM) (s : State) : Host.Outcome State Fault Refusal :=
  (s.load (s.formScratch o (widthBytes o.w)) o.u o.d.toNat o.w).out
def execLdsN (o : OpN) (s : State) : Host.Outcome State Fault Refusal :=
  (s.load (s.formN o (widthBytes o.w) true) o.u o.d.toNat o.w).out

/-- The scalar value of a width code (R217). -/
def scalarLoad (w : BitVec 3) (v : Nat) : Word64 :=
  match w.toNat with
  | 1 => w64 (signedOf 8 v)
  | 3 => w64 (signedOf 16 v)
  | 5 => w64 (signedOf 32 v)
  | _ => BitVec.ofNat 64 v

/-- LDU (R224). -/
def execLdu (o : OpN) (s : State) : Host.Outcome State Fault Refusal :=
  let n := widthBytes o.w
  let fm := s.formN o n false
  let begin_ : Chk Flight := do
    s.checkForm fm 0 n (s.lanesMade true) true
    return s.flight fm 0 true (fun _ => .read n)
  (s.runFlight begin_ false (fun s fl =>
    .done (s.putS 0 o.d (scalarLoad o.w (fl.valueFor (lowLane s.active) 0))))).out

/-! ### Stores (R223). -/

/-- The registers that a width code names (R217). -/
def storeRegs (w : BitVec 3) (d : Nat) : List Nat :=
  match w.toNat with | 6 => [d, d + 1] | 7 => [d, d + 1, d + 2, d + 3] | _ => [d]

/-- The stored value of a lane. -/
def State.storeVal (s : State) (w : BitVec 3) (d i : Nat) : Nat :=
  pack 32 ((storeRegs w d).map (fun r => (s.V r i).val.toNat)) % 2 ^ (8 * widthBytes w)

/-- The test of each active lane of data registers for EMPTY. -/
def State.checkData (s : State) : List Nat → Chk Unit
  | [] => .ok ()
  | r :: rs =>
    match (lanesOf s.active).find? (fun i => (s.V r i).tag == .empty) with
    | some i => .error (0x09F, opndData r 15 i 3 0)
    | none => s.checkData rs

/-- A store. -/
def State.store (s : State) (fm : Form) (u : Bool) (d : Nat) (w : BitVec 3) : Res :=
  let n := widthBytes w
  let begin_ : Chk Flight := do
    s.checkUniform u (storeRegs w d ++ fm.off.toList)
    s.checkData (storeRegs w d)
    s.checkOffset fm
    let single := u || fm.same
    s.checkForm fm 1 n (s.lanesMade single) false
    let from_ (i : Nat) : Nat := if fm.same && !u then (lanesOf s.active).getLastD 0 else i
    return { s.flight fm 1 single (fun i => .write n (s.storeVal w d (from_ i))) with
             keep := true, logs := !fm.scratch, commits := !fm.scratch }
  s.runFlight begin_ false (fun s _ => .done s)

def execStM (o : OpM) (s : State) : Host.Outcome State Fault Refusal :=
  (s.store (s.formM o (widthBytes o.w)) o.u o.d.toNat o.w).out
def execStN (o : OpN) (s : State) : Host.Outcome State Fault Refusal :=
  (s.store (s.formN o (widthBytes o.w) false) o.u o.d.toNat o.w).out
def execStsM (o : OpM) (s : State) : Host.Outcome State Fault Refusal :=
  (s.store (s.formScratch o (widthBytes o.w)) o.u o.d.toNat o.w).out
def execStsN (o : OpN) (s : State) : Host.Outcome State Fault Refusal :=
  (s.store (s.formN o (widthBytes o.w) true) o.u o.d.toNat o.w).out

/-! ### Atomics (R225 to R227). -/

/-- The tags that an operation accepts. -/
def atmAccepts (op : BitVec 3) (t : Tag) : Bool :=
  let word := t == .i32 || t == .n32
  if op.toNat < 3 then word || t == .f32 || t == .f64l || t == .bf16x2 || t == .h16x2
  else if op.toNat < 6 then word || t == .x32
  else word || t == .x32 || t == .f32 || t == .f64l

/-- The registers that the tag of vd makes a pair or a quad. -/
def atmRegs (op : BitVec 3) (t : Tag) : Nat := (if t == .f64l then 2 else 1) * if op = 7 then 2 else 1

/-- The value of a lane under a tag from a register on. -/
def State.wordAt (s : State) (r : Nat) (t : Tag) (i : Nat) : Nat :=
  (s.V r i).val.toNat + if t == .f64l then (s.V (r + 1) i).val.toNat * 2 ^ 32 else 0

/-- The tag tests of ATM: the operand, the registers that its tag adds, and the new value of `cas`. -/
def State.checkAtm (s : State) (op : BitVec 3) (d : Nat) : Chk Tag := do
  let t ← s.checkOne d 3 (atmAccepts op) false
  let n := atmRegs op t
  if d % n != 0 then .error (0x085, opndData d t.code (lowLane s.active) 3 0)
  else if s.vregs < d + n then .error (0x080, s.focus.enc)
  else
    let _ ← s.checkPair d 3 t
    if op = 7 then
      let _ ← s.checkSame (d + n / 2) 3 t
      return t
    else return t

/-- ATM. The tags of vd are tested before those of the offset register, an order that the spec leaves open (log 67). -/
def State.atomic (s : State) (fm : Nat → Form) (u : Bool) (op : BitVec 3) (d : Nat) : Res :=
  let t := (s.V d (lowLane s.active)).tag
  let n := if t == .f64l then 8 else 4
  let fm := fm 4
  let begin_ : Chk Flight := do
    s.checkUniform u (d :: fm.off.toList)
    let t ← s.checkAtm op d
    s.checkUniform u ((List.range (atmRegs op t)).tail.map (d + ·))
    s.checkOffset fm
    s.checkForm fm 2 n (s.lanesMade u) false
    let new (i : Nat) : Nat := if op = 7 then s.wordAt (d + atmRegs op t / 2) t i else 0
    let fl := s.flight fm 2 u (fun i => .atm op (BitVec.ofNat 4 t.code) (s.wordAt d t i) (new i))
    return { fl with keep := true, old := some (d, t) }
  s.runFlight begin_ true (fun s fl =>
    let low := lowLane s.active
    let fl := if fl.single then { fl with got := (lanesOf s.active).map (fun i => (i, Tab.get fl.got 0 low)) } else fl
    .done (s.putAll 0 fl.oldWrites))

def execAtmM (o : OpM) (s : State) : Host.Outcome State Fault Refusal :=
  (s.atomic (s.formM o) o.u o.w o.d.toNat).out
def execAtmN (o : OpN) (s : State) : Host.Outcome State Fault Refusal :=
  (s.atomic (fun n => s.formN o n false) o.u o.w o.d.toNat).out

/-! ### Exact sums (R228). -/

/-- XADD. The tags of vd are tested before those of the offset register, as in ATM (log 67). -/
def State.exactAdd (s : State) (fm : Form) (u : Bool) (d : Nat) : Res :=
  let begin_ : Chk Flight := do
    s.checkUniform u (d :: fm.off.toList)
    let _ ← s.checkTag d 3 (· == .f32)
    s.checkOffset fm
    s.checkForm fm 2 64 (s.lanesMade u) false
    return { s.flight fm 2 u (fun i => .xadd (s.V d i).val) with keep := true, logs := true }
  s.runFlight begin_ true (fun s _ => .done s)

def execXaddM (o : OpM) (s : State) : Host.Outcome State Fault Refusal := (s.exactAdd (s.formM o 64) o.u o.d.toNat).out
def execXaddN (o : OpN) (s : State) : Host.Outcome State Fault Refusal :=
  (s.exactAdd (s.formN o 64 false) o.u o.d.toNat).out

/-- XRD. -/
def State.exactRead (s : State) (fm : Form) (u : Bool) (d : Nat) (w : BitVec 3) : Res :=
  let f64 := w.getLsbD 2
  let begin_ : Chk Flight := do
    s.checkUniform u fm.off.toList
    s.checkOffset fm
    let single := u || fm.same
    s.checkForm fm 2 64 (s.lanesMade single) false
    return s.flight fm 2 single (fun _ => .xrd (w.extractLsb' 0 2) f64)
  let lanes (v : Nat) : List (Nat × Lane) :=
    if f64 then [(0, ⟨BitVec.ofNat 32 v, .f64l⟩), (1, ⟨BitVec.ofNat 32 (v / 2 ^ 32), .f64h⟩)]
    else [(0, ⟨BitVec.ofNat 32 v, .f32⟩)]
  s.runFlight begin_ false (fun s fl => .done (s.putAll 0 (s.gotWrites fl d lanes)))

def execXrdM (o : OpM) (s : State) : Host.Outcome State Fault Refusal :=
  (s.exactRead (s.formM o 64) o.u o.d.toNat o.w).out
def execXrdN (o : OpN) (s : State) : Host.Outcome State Fault Refusal :=
  (s.exactRead (s.formN o 64 false) o.u o.d.toNat o.w).out

/-- XCLR. -/
def execXclr (o : OpM) (s : State) : Host.Outcome State Fault Refusal :=
  let fm := s.formM o 64
  let begin_ : Chk Flight := do
    s.checkUniform o.u fm.off.toList
    s.checkOffset fm
    s.checkForm fm 2 64 (s.lanesMade o.u) false
    return { s.flight fm 2 o.u (fun _ => .xclr) with keep := true, logs := true }
  (s.runFlight begin_ true (fun s _ => .done s)).out

/-! ### Prefetch (R232): no change of the state of a program or of the model. -/

def execPfhM (_ : OpM) (s : State) : Host.Outcome State Fault Refusal := (Res.done s).out
def execPfhN (_ : OpN) (s : State) : Host.Outcome State Fault Refusal := (Res.done s).out

end Sys2Proof.Machine
end

