-- ==== Sys2Proof/Machine/MemoryControl.lean ====
section
/-! DEFINITION. Base translation registers (R229, R230), class hints (R231) and messages on receiver-resident rings
(R233 to R237). -/

namespace Sys2Proof.Machine

/-! ### BTL and BTINV (R206, R229, R230). -/

/-- The pages after the first of a BTL run (R206): the CLS of each page that continues it and whether it is large, at most `n`. -/
def State.runPages (s : State) (c va : Nat) (l : Leaf) (seen : SeenClass) : Nat → Nat → List (Nat × Bool) × State
  | 0, _ => ([], s)
  | n + 1, i =>
    let next := (va / 65536 + i) * 65536
    if 2 ^ 57 ≤ next then ([], s)
    else match s.tlbWalk c next with
      | (.leaf m, s) =>
        let seen' := (((s.core c).tlbAt next).map (fun e => e.seen)).getD .unknown
        let same := !m.peer && m.pa = l.pa + i * 65536 && m.w = l.w && m.x = l.x && m.cnt = l.cnt && m.mt = l.mt &&
          seen' == seen
        if same then
          let (rest, s) := s.runPages c va l seen n (i + 1)
          ((m.cls, m.big) :: rest, s)
        else ([], s)
      | (_, s) => ([], s)

/-- BTL (R229). -/
def execBtl (o : OpR) (s : State) : Host.Outcome State Fault Refusal :=
  let sa := s.S o.a
  let bd := o.d.toNat % 8
  let fail (s : State) (v : Int) : Res :=
    .done (s.putAll 0 [.b bd { vbase := sa }, .s o.b.toNat (w64 v)])
  let c := s.focus.core
  let va := sa.toNat
  (if nonCanon va then fail s (-3)
  else if (List.range 32).any (fun i => s.missFull c (65536 * (va / 65536 + i))) then .wait s (.reclass missPage)
  else match s.tlbWalk c va with
    | (.absent _, s) => fail s (-1)
    | (.error, s) => fail s (-2)
    | (.host, s) => fail s (-2)
    | (.full, s) => .wait s (.reclass missPage)
    | (.lost pa, s) => fail (s.unreadable (s.laneActor 7 (lowLane s.active)) pa va).2 (-2)
    | (.leaf l, s) =>
      if l.peer then fail s (-4)
      else
        let seen := (((s.core c).tlbAt va).map (fun e => e.seen)).getD .unknown
        let (rest, s) := s.runPages c va l seen 31 1
        let limit := (rest.length + 1) * 65536 - va % 65536
        let b : BaseReg := { vbase := sa, frame := l.pa + va % 65536, limit := limit, seen := seen, w := l.w, x := l.x,
                             pages := (l.cls, l.big) :: rest, cnt := l.cnt, mt := l.mt }
        Res.done (s.putAll 0 [.b bd b, .s o.b.toNat (BitVec.ofNat 64 limit)])).out

/-- BTINV (R230). -/
def execBtinv (o : OpR) (s : State) : Host.Outcome State Fault Refusal :=
  let bs := if o.m then List.range 8 else [o.d.toNat % 8]
  (Res.done (s.putAll 0 (bs.map (fun b => .b b { s.B b with limit := 0 })))).out

/-! ### CLASS (R231). -/

/-- The class that a hint gives a page, if it changes it. -/
def PageClass.hinted (c : PageClass) (shared : Bool) : Option PageClass :=
  match c with
  | .shared => none
  | .readOnly _ => if shared then some .shared else none
  | _ => some (if shared then .shared else .readOnly c.holders)

/-- The leaf of a page that a hint may change. -/
def hintLeaf (w : Walk) : Option Leaf :=
  match w with
  | .leaf l => if l.fixed.isNone then some l else none
  | _ => none

/-- One page of a hint: whether its class changed, or that the change waits for the page to drain (R204). `mine` marks
a change that this word has begun. -/
def State.hintPage (s : State) (page : Nat) (shared mine : Bool) : Option Bool × State :=
  if 2 ^ 41 ≤ page then (some false, s)
  else
    let (w, s) := s.tlbWalk s.focus.core (page * 65536)
    match hintLeaf w with
    | none => (some false, s)
    | some l =>
      if s.changing l.key then (none, s)
      else if mine then (some true, s)
      else
        let s := s.nameMapping l.key s.die (l.tlbKey (page * 65536))
        match (s.classOf l.key).hinted shared with
        | none => (some false, s)
        | some c =>
          let waits := (s.classOf l.key).holders.filter (fun q => s.outstanding q l.key)
          if waits.isEmpty then (some true, s.reclassify l.key c)
          else (none, s.askDrain l.key { awaiting := waits, new := c })

/-- The pages of a hint in ascending order: `n` at most now. `p` is the next page, `left` the pages still to take,
`k` those changed, and `mine` marks a change of the next page that is under way. -/
def State.hintPages (s : State) (shared : Bool) : Nat → Nat → Nat → Nat → Bool → Res × Nat
  | 0, p, left, k, mine => (.wait (s.setF { s.f with flight := some { got := [(0, p), (1, left), (2, k), (3, bit mine)] } }) .busy, k)
  | n + 1, p, left, k, mine =>
    if left = 0 then (.done (s.setF { s.f with flight := none }), k)
    else if s.missFull s.focus.core (p * 65536) then
      (.wait (s.setF { s.f with flight := some { got := [(0, p), (1, left), (2, k), (3, bit mine)] } }) (.reclass missPage), k)
    else
      let other := !mine && match hintLeaf (s.tlbWalk s.focus.core (p * 65536)).1 with
        | some l => s.changing l.key
        | none => false
      match s.hintPage p shared mine with
      | (some c, s) => s.hintPages shared n (p + 1) (left - 1) (k + bit c) false
      | (none, s) =>
        let fl : Flight := { got := [(0, p), (1, left), (2, k), (3, bit (!other))] }
        (.wait (s.setF { s.f with flight := some fl }) (.reclass p), k)

/-- A CLASS word over the bytes from `a`: all pages now, or one at a time where the step serves only some lanes. -/
def State.hint (s : State) (d : BitVec 6) (a len : Nat) (shared : Bool) : Res :=
  let first := a / 65536
  let fl := s.f.flight.getD { got := [(0, first), (1, (a + len - 1) / 65536 + 1 - first), (2, 0), (3, 0)] }
  let at_ (i : Nat) : Nat := Tab.get fl.got 0 i
  let fuel := if s.focus.lanes = BitVec.allOnes 32 then at_ 1 + 1 else 1
  let (r, k) := s.hintPages shared fuel (at_ 0) (at_ 1) (at_ 2) (at_ 3 = 1)
  r.bind (fun s => .done (s.putS 0 d (BitVec.ofNat 64 k)))

def execClassR (o : OpR) (s : State) : Host.Outcome State Fault Refusal :=
  let n := (s.S o.b).toNat
  (if n = 0 || 2 ^ 30 < n then Res.trap s 0x0A2 (opndData o.b.toNat 0 0 1 (min n (2 ^ 32 - 1)))
  else s.hint o.d (s.S o.a).toNat n o.m).out
def execClassI (o : OpI) (s : State) : Host.Outcome State Fault Refusal :=
  (s.hint o.d (s.S o.a).toNat ((o.immN / 2 + 1) * 65536) (o.immN % 2 = 1)).out

/-! ### Rings (R233 to R237). -/

/-- A ring header (R233). -/
structure Ring where
  tail : Nat
  head : Nat
  slog : Nat
  ssz : Nat
  drop : Nat
  clean : Bool

def Ring.of (h : Nat) : Ring :=
  { tail := h % 2 ^ 32, head := h / 2 ^ 32 % 2 ^ 32, slog := h / 2 ^ 64 % 16, ssz := h / 2 ^ 68 % 16,
    drop := h / 2 ^ 96 % 2 ^ 32, clean := h / 2 ^ 72 % 2 ^ 24 = 0 && h / 2 ^ 128 = 0 }

def Ring.slots (r : Ring) : Nat := 2 ^ r.slog

/-- Whether a header is valid and its ring lies in a window. -/
def Ring.ok (r : Ring) (ofs window : Nat) : Bool :=
  1 ≤ r.slog && r.slog ≤ 10 && 2 ≤ r.ssz && r.ssz ≤ 9 && r.clean && ofs + 64 + 16 * r.ssz * r.slots ≤ window

/-- The messages that a ring holds. -/
def Ring.held (r : Ring) : Nat := (r.tail + 2 ^ 32 - r.head) % 2 ^ 32

/-- The offset of the slot of a message index. -/
def Ring.slot (r : Ring) (ofs j : Nat) : Nat := ofs + 64 + 16 * r.ssz * (j % r.slots)

/-- The scratch window of a resident workgroup. -/
def State.windowOf (s : State) (c g : Nat) : Nat := (s.task (s.wg c g).task).desc.scratch * 4096

/-- The ring at an offset of a workgroup's window, if it is valid. -/
def State.ringAt (s : State) (c g ofs : Nat) : Option Ring × State :=
  if s.windowOf c g < ofs + 64 then (none, s)
  else
    let (h, s) := s.scratchRead c g ofs 64
    if (Ring.of h).ok ofs (s.windowOf c g) then (some (Ring.of h), s) else (none, s)

/-- The fragments of a workgroup that wait for a ring receive the number of messages that it holds (R237). -/
def State.wakeRing (s : State) (c g ofs held : Nat) : State :=
  (s.core c).warps.foldl (fun s e =>
    if e.2.wg = g then
      e.2.frags.foldl (fun s x => match x.2.park with
        | .ring o d => if o = ofs then s.finishWith c e.1 x.1 d (BitVec.ofNat 64 held) else s
        | _ => s) s
    else s) s

/-- A delivery at the receiving core: the status of R235. -/
def State.deliver (s : State) (c g ofs : Nat) (payload : List Word32) : Int × State :=
  let len := 4 * payload.length
  match s.ringAt c g ofs with
  | (none, s) => (-3, s)
  | (some r, s) =>
    if 16 * r.ssz < 16 + len then (-4, s)
    else if r.slots ≤ r.held then (-1, s.scratchWrite c g (ofs + 12) 4 (min (r.drop + 1) (2 ^ 32 - 1)))
    else
      let s := s.scratchWrite c g (r.slot ofs r.tail) 16 len
      let s := s.scratchWrite c g (r.slot ofs r.tail + 16) len (pack 32 (payload.map (fun x => x.toNat)))
      let s := s.scratchWrite c g ofs 4 ((r.tail + 1) % 2 ^ 32)
      (0, s.wakeRing c g ofs ((r.held + 1) % 2 ^ 32))

/-- SEND (R235). -/
def execSend (o : OpR) (s : State) : Host.Outcome State Fault Refusal :=
  let b := o.b.toNat
  let s := s.commit
  let check : Chk Unit :=
    match (lanesOf s.active).find? (fun i => (s.V b i).tag == .empty) with
    | some i => .error (0x09F, opndData b 15 i 1 0)
    | none => .ok ()
  (check.run s (fun _ =>
    let h := (s.S o.a).toNat
    let c := bitsOf h 25 18
    let g := bitsOf h 30 26
    let ofs := bitsOf h 17 0
    let (st, s) : Int × State :=
      if 192 ≤ c || dieOf c != s.die || bitOf h 31 || ofs % 64 != 0 then (-5, s)
      else match Tab.find (s.core c).wgs g with
        | none => (-2, s)
        | some x => if x.rplc != bitsOf h 63 32 then (-2, s)
          else s.deliver c g ofs ((lanesOf s.active).map (fun i => (s.V b i).val))
    .done (s.putS 0 o.d (w64 st)))).out

/-- The ring of the workgroup in focus at the offset that sa holds, or RING_HDR (R237). -/
def State.ownRing (s : State) (a : BitVec 6) (f : State → Nat → Ring → Res) : Res :=
  let ofs := (s.S a).toNat
  let bad (s : State) : Res := .trap s 0x0A1 (opndData a.toNat 0 0 0 ofs)
  if ofs % 64 != 0 then bad s
  else match s.ringAt s.focus.core s.w.wg ofs with
    | (none, s) => bad s
    | (some r, s) => f s ofs r

/-- RPOP (R236). -/
def execRpop (o : OpR) (s : State) : Host.Outcome State Fault Refusal :=
  let c := s.focus.core
  let g := s.w.wg
  (s.ownRing o.a (fun s ofs r =>
    if o.m then .done (s.putS 0 o.d (BitVec.ofNat 64 (ofs + c * 2 ^ 18 + g * 2 ^ 26 + s.g.rplc * 2 ^ 32)))
    else if r.tail = r.head then .done (s.putS 0 o.d (w64 (-1)))
    else
      let at_ := r.slot ofs r.head
      let (len, s) := s.scratchRead c g at_ 4
      let (body, s) := s.scratchRead c g (at_ + 16) (16 * r.ssz - 16)
      let s := s.scratchWrite c g (ofs + 4) 4 ((r.head + 1) % 2 ^ 32)
      let word (i : Nat) : Word32 := if i < len / 4 then BitVec.ofNat 32 (body / 2 ^ (32 * i)) else 0
      .done ((s.putLanes 0 o.b.toNat s.active (fun i => ⟨word i, .x32⟩)).putS 0 o.d (BitVec.ofNat 64 len)))).out

/-- RWAIT (R237). -/
def execRwait (o : OpR) (s : State) : Host.Outcome State Fault Refusal :=
  (s.ownRing o.a (fun s ofs r =>
    if r.tail != r.head then .done (s.putS 0 o.d (BitVec.ofNat 64 r.held))
    else .wait s (.ring ofs o.d.toNat))).out

end Sys2Proof.Machine
end

