-- ==== Sys2Proof/Machine/Count.lean ====
section
/-! DEFINITION. Count words (R333 to R343): the checks of an address, the instructions, and the waits. -/

namespace Sys2Proof.Machine

/-! ### Addresses (R272 item 2, R337). -/

/-- The checks of a count-word address before its translation: NONCANON and CW_ALIGN. -/
def countAddr (type : Nat) (va : Word64) : Option (BitVec 10) :=
  if nonCanon va.toNat then some (BitVec.ofNat 10 (0x110 + type))
  else if va.toNat % 8 != 0 then some (BitVec.ofNat 10 (0x180 + type))
  else none

/-- The issue-time test of a count word that an engine operation names; 0 names none (R272 item 2). -/
def State.namedCount (s : State) (a : Actor) (va : Word64) (next : State → Res) : Res :=
  if va = 0 then next s
  else match countAddr a.type va, s.takeFailed a va.toNat with
    | some c, _ => .trap s c va
    | none, (some c, s) => .trap s c va
    | none, (none, s) => match s.translate a va.toNat with
      | (.error, s) => .trap s (BitVec.ofNat 10 (0x108 + a.type)) va
      | (.lost pa, s) =>
        let (r, s) := s.unreadable a pa va.toNat
        r.stop s va
      | (.host, s) => .trap s (BitVec.ofNat 10 (0x2B0 + a.type)) va
      | (.full, s) => .wait s (.reclass missPage)
      | (.absent pgr, s) =>
        let (r, s) := s.notPresent a.dev pgr va.toNat a true
        r.stop s va
      | (.leaf l, s) => match protection l va.toNat a.type (.cwAdd 0 true) with
        | some c => .trap s c va
        | none => if l.peer then .trap s (BitVec.ofNat 10 (0x198 + a.type)) va else next s

/-- A count-word operation of the word in focus (R336, R337). -/
def State.countOp (s : State) (type : Nat) (va : Word64) (commits : Bool) (op : MemOp) (next : Nat → State → Res) : Res :=
  let s := if commits then s.commit else s
  match countAddr type va with
  | some c => .trap s c va
  | none =>
    match s.access (s.laneActor type (lowLane s.active)) none va.toNat op with
    | (.ok v, s) => next v s
    | (r, s) => r.stop s va

/-! ### CWSIG, CWRD, CWSET (R338, R341). -/

/-- The add or the set that a trap has left behind has been made, and its value is lost (R254, R339): a resumption makes no other, and
sd stays. -/
def State.addMade (s : State) : Bool :=
  let p := s.w.progress
  p.armed && p.dmask != 0 && p.pc = s.f.pc && p.pos = s.focus.pos

/-- A CWSIG or CWSET (R338, R341, R339). One whose value is lost is made, so its lane joins DMASK (R254). -/
def State.changeCount (s : State) (va : Word64) (op : MemOp) (next : Nat → State → Res) : Res :=
  if s.addMade then .done (s.setW { s.w with progress := {} })
  else match s.countOp 2 va true op next with
    | .trap t c x =>
      if c = 0x29A then
        .trap (t.setW { t.w with progress := { dmask := laneBit (lowLane s.active), pc := t.f.pc, pos := t.focus.pos } }) c x
      else .trap t c x
    | r => r

/-- CWSIG (R338): the add of `v`, and its result in the scalar register `d`. -/
def State.signal (s : State) (d a : BitVec 6) (v : Word64) : Res :=
  s.changeCount (s.S a) (.cwAdd v false) (fun old s => .done (s.putS 0 d (BitVec.ofNat 64 old)))

def execCwsigR (o : OpR) (s : State) : Host.Outcome State Fault Refusal := (s.signal o.d o.a (s.S o.b)).out
def execCwsigI (o : OpI) (s : State) : Host.Outcome State Fault Refusal :=
  (s.signal o.d o.a (BitVec.ofNat 64 o.immN)).out

def execCwrd (o : OpR) (s : State) : Host.Outcome State Fault Refusal :=
  (s.countOp 0 (s.S o.a) false .cwRead (fun v s => .done (s.putS 0 o.d (BitVec.ofNat 64 v)))).out

def execCwset (o : OpR) (s : State) : Host.Outcome State Fault Refusal :=
  (s.changeCount (s.S o.a) (.cwSet (s.S o.b)) (fun v s => .done (s.putS 0 o.d (BitVec.ofNat 64 v)))).out

/-! ### CWWAIT (R339, R340, R342). -/

/-- Whether a wait holds an entry of the wait table (R340). -/
def Park.entered : Park → Bool
  | .count _ _ _ _ _ true _ => true
  | _ => false

/-- Whether the wait table of a core has a free entry (R340). -/
def State.waitFree (s : State) (c : Nat) : Bool :=
  let entries := (s.core c).warps.flatMap (fun e => e.2.frags.filter (fun g => g.2.park.entered || g.2.waiting.entered))
  entries.length < 64

/-- The physical address of a count word that the core can reach itself. -/
def State.countHome (s : State) (c : Nat) (va : Nat) : Option Nat × State :=
  match s.tlbWalk c va with
  | (.leaf l, s) => (if l.peer then none else some (l.pa + va % 65536), s)
  | (_, s) => (none, s)

/-- A fragment of the state that fails its test waits (R342): registered with the home, with an entry of the wait table
if one is free; for a word behind a peer window it re-reads instead (R339). -/
def State.waitOn (s : State) (c : Nat) (va target d : Nat) : State × Park :=
  match s.countHome c va with
  | (none, s) => (s, .remoteCount va target d s.now)
  | (some pa, s) =>
    let (s, reg) := s.register pa c
    let entry := s.waitFree c
    let x := s.device (dieOf c)
    let s := if entry then s
      else s.setDevice (dieOf c) { s.device (dieOf c) with sleeps := min (x.sleeps + 1) (2 ^ 32 - 1) }
    (s, .count va pa target d reg entry s.now)

/-- A fragment that fails its test waits on, with the registration and the entry that it has kept, or a free entry; where it has
kept none, or the word has another home or is another one by now, it waits anew (R342). -/
def State.waitAgain (s : State) (c va target d : Nat) : State × Park :=
  match s.f.waiting with
  | .count va' pa target' d' reg entry since =>
    let home := match s.countHome c va with | (some pa', _) => pa' == pa | _ => false
    if va' = va && target' = target && d' = d && home then
      let since := if s.now - since < 512 then since else s.now
      (s.setF { s.f with waiting := .none }, .count va pa target d reg (entry || s.waitFree c) since)
    else s.stopWaiting.waitOn c va target d
  | _ => s.waitOn c va target d

/-- CWWAIT (R342): it ends where the word has reached its target, and else parks its fragment. -/
def State.countWait (s : State) (d a : BitVec 6) (t : Word64) : Res :=
  let va := s.S a
  match s.countOp 0 va false .cwRead (fun v s =>
    if t.toNat ≤ v then .done (s.stopWaiting.putS 0 d (BitVec.ofNat 64 v))
    else
      let (s, p) := s.waitAgain s.focus.core va.toNat t.toNat d.toNat
      .wait s p) with
  | .trap s c x => .trap s.stopWaiting c x
  | r => r

def execCwwaitR (o : OpR) (s : State) : Host.Outcome State Fault Refusal := (s.countWait o.d o.a (s.S o.b)).out
def execCwwaitI (o : OpI) (s : State) : Host.Outcome State Fault Refusal :=
  (s.countWait o.d o.a (BitVec.ofNat 64 o.immN)).out

/-- The fragment in focus is held by an access that did not end. -/
def State.holdAt (s : State) (r : Acc) (data : Word64) : State :=
  match r.stop s data with
  | .wait s p => s.setF { s.f with park := p }
  | _ => s

/-- The re-read of a fragment that waits on a count word (R342, R343): its value reaches the target, the fragment waits
on, or the page no longer translates, which ends the wait with a trap. -/
def State.recheck (s : State) (c k f : Nat) : State :=
  let s0 := s.focusOn c k f
  match (s0.f).park with
  | .count va pa target d reg entry since =>
    match s0.access (s0.laneActor 0 (lowLane s0.active)) none va .cwRead with
    | (.ok v, s) =>
      if target ≤ v then (s.deregister pa reg).finishWith c k f d (BitVec.ofNat 64 v)
      else
        let moved := match s.countHome c va with | (some pa', _) => pa' != pa | _ => false
        let since := if s.now - since < 512 then since else s.now
        if moved then
          let (s, p) := (s.deregister pa reg).waitOn c va target d
          s.setF { s.f with park := p }
        else s.setF { s.f with park := .count va pa target d reg (entry || s.waitFree c) since }
    | (.fault cause, s) => (s.deregister pa reg).takeTrap cause (BitVec.ofNat 64 va) false
    -- a re-read that is held keeps the registration, and the word is executed again when the hold ends
    | (r, s) => (s.setF { s.f with waiting := s.f.park }).holdAt r (BitVec.ofNat 64 va)
  | .remoteCount va target d _ =>
    match s0.access (s0.laneActor 0 (lowLane s0.active)) none va .cwRead with
    | (.ok v, s) =>
      if target ≤ v then s.finishWith c k f d (BitVec.ofNat 64 v)
      else s.setF { s.f with park := .remoteCount va target d s.now }
    | (.fault cause, s) => s.takeTrap cause (BitVec.ofNat 64 va) false
    | (r, s) => s.holdAt r (BitVec.ofNat 64 va)
  | _ => s

/-- Whether the cores of a die re-read for their waiters: not while it is halted, which they do when it resumes (R373). -/
def State.rereads (s : State) (c : Nat) : Bool := !(s.device (dieOf c)).dhalt

/-- A wake reaches a core (R343): one re-read for each of its fragments that waits on the address. -/
def execCountWordWake (core : Fin 192) (word : Nat) (s : State) : Host.Outcome State Fault Refusal :=
  let c := core.val
  let x := s.core c
  if s.rereads c && x.wakes.contains word then
    let s := s.setCore c { x with wakes := x.wakes.filter (fun a => a != word) }
    let waiting := x.warps.flatMap (fun e => (e.2.frags.filter (fun g => match g.2.park with
      | .count _ pa _ _ _ _ _ => pa == word
      | _ => false)).map (fun g => (e.1, g.1)))
    .next (waiting.foldl (fun s p => s.recheck c p.1 p.2) s)
  else .next s

/-- A sleeping waiter's re-read, 512 cycles after the one before (R342). -/
def execWaitRepoll (f : FragRef) (s : State) : Host.Outcome State Fault Refusal :=
  match (s.frag f.core f.slot f.frag).park with
  | .count _ _ _ _ _ false since =>
    if s.rereads f.core && since + 512 ≤ s.now then .next (s.recheck f.core f.slot f.frag) else .next s
  | _ => .next s

/-- A re-read of a word behind a peer window (R339). -/
def execRemoteCwwaitPoll (f : FragRef) (s : State) : Host.Outcome State Fault Refusal :=
  match (s.frag f.core f.slot f.frag).park with
  | .remoteCount _ _ _ since =>
    if s.rereads f.core && since + 512 ≤ s.now then .next (s.recheck f.core f.slot f.frag) else .next s
  | _ => .next s

end Sys2Proof.Machine
end

