-- ==== Sys2Proof/Machine/Copy.lean ====
section
/-! DEFINITION. Shape registers (R266 to R269), copies and multicasts (R263 to R280) and shuffles (R281 to R283): the
words that start them, and the steps of the engines that carry them out. -/

namespace Sys2Proof.Machine

/-! ### Shape records (R28, R29). -/

/-- The fields of a shape record's eight words; a dimension above RANK has extent 1 and stride 0 (R266). -/
def Shape.of (ws : List Word64) : Shape :=
  let w (i : Nat) : Nat := (ws.getD i 0).toNat
  let rank := bitsOf (w 1) 4 3
  let cut {α : Type} (xs : List α) (x : α) : List α := xs.take (rank + 1) ++ List.replicate (3 - rank) x
  { base := w 0, esize := bitsOf (w 1) 2 0, rank := rank, pad := bitsOf (w 1) 7 5,
    padWord := BitVec.ofNat 32 (w 1 / 2 ^ 32)
    ext := cut [w 2 % 2 ^ 32, w 2 / 2 ^ 32, w 3 % 2 ^ 32, w 3 / 2 ^ 32] 1
    str := cut ([4, 5, 6, 7].map (fun i => (ws.getD i 0).toInt)) 0 }

/-- The bytes of an element. -/
def Shape.size (s : Shape) : Nat := 2 ^ s.esize

/-- The product of extents. -/
def product (xs : List Nat) : Nat := xs.foldl (· * ·) 1

/-- The lowest and the highest element address over a range of indices in each dimension (R272). -/
def Shape.span (s : Shape) (rs : List (Nat × Nat)) : Int × Int :=
  (List.zip rs s.str).foldl (fun h e =>
    let a : Int := e.1.1 * e.2
    let b : Int := e.1.2 * e.2
    (h.1 + min a b, h.2 + max a b)) (s.base, s.base)

/-- The check of a record (R29), in the order of its table. -/
def shapeFault (ws : List Word64) : Option (BitVec 10) :=
  let w (i : Nat) : Nat := (ws.getD i 0).toNat
  let s := Shape.of ws
  let unused := (List.range 4).drop (s.rank + 1)
  let ext (k : Nat) : Nat := w (2 + k / 2) / 2 ^ (32 * (k % 2)) % 2 ^ 32
  let n := product s.ext
  let (lo, hi) := s.span (s.ext.map (fun e => (0, e - 1)))
  if w 0 / 2 ^ 57 != 0 || bitsOf (w 1) 31 8 != 0 || unused.any (fun k => ext k != 0 || w (4 + k) != 0) then some 0x1F0
  else if 5 ≤ s.esize then some 0x1F1
  else if 2 ^ 40 < n || s.str.any (fun x => 2 ^ 56 ≤ x.natAbs) || (n != 0 && (lo < 0 || 2 ^ 57 ≤ hi)) then some 0x1F2
  else if 4 ≤ s.pad || (s.padWord != 0 && s.pad != 2) then some 0x1F3
  else none

/-- A number as `n` 64-bit words, the lowest first. -/
def wordsOf (n v : Nat) : List Word64 := (List.range n).map (fun i => BitVec.ofNat 64 (v / 2 ^ (64 * i)))

/-- MEM_ALIGN of an address in the scalar register `a` (R238). -/
def alignData (a : BitVec 6) (va : Word64) : Word64 := opndData a.toNat 0 0 0 va.toNat

/-- The flight of one access of the word in focus, with TRAPDATA that names no lane. -/
def oneAccess (type va : Nat) (op : MemOp) : Flight :=
  { type := type, single := true, plain := true, reqs := [{ lane := 0, va := va, op := op }] }

/-- The address checks of LDSHAPE and STSHAPE. -/
def shapeAddr (a : BitVec 6) (va : Word64) (type : Nat) : Chk Unit :=
  if va.toNat % 64 != 0 then .error (0x0A0, alignData a va)
  else if nonCanon va.toNat then .error (BitVec.ofNat 10 (0x110 + type), va)
  else .ok ()

/-- LDSHAPE (R267). -/
def execLdshape (o : OpR) (s : State) : Host.Outcome State Fault Refusal :=
  let va := s.S o.a
  let begin_ : Chk Flight := do
    shapeAddr o.a va 7
    return oneAccess 7 va.toNat (.read 64)
  (s.runFlight begin_ false (fun s fl =>
    let ws := wordsOf 8 (Tab.get fl.got 0 0)
    match shapeFault ws with
    | some c => .trap s c 0
    | none => .done (s.put 0 (.h (o.d.toNat % 8) (some ws))))).out

/-- TRAPDATA of the copy causes (R284). -/
def copyData (dim side hreg index : Nat) : Word64 :=
  BitVec.ofNat 64 (dim % 4 + side * 4 + hreg % 8 * 8 + index % 2 ^ 32 * 2 ^ 32)

/-- STSHAPE (R268). -/
def execStshape (o : OpR) (s : State) : Host.Outcome State Fault Refusal :=
  let va := s.S o.a
  let h := o.d.toNat % 8
  let begin_ : Chk Flight := do
    shapeAddr o.a va 1
    match s.H h with
    | none => .error (0x1C0, copyData 0 0 h 0)
    | some ws => return { oneAccess 1 va.toNat (.write 64 (pack 64 (ws.map (fun x => x.toNat)))) with
                     keep := true, logs := true, commits := true }
  (s.runFlight begin_ false (fun s _ => .done s)).out

/-! ### Geometry (R270, R271). -/

/-- The index of an element in an iteration space, dimension 0 fastest. -/
def unrank : List Nat → Nat → List Nat
  | [], _ => []
  | e :: es, k => k % e :: unrank es (k / e)

def addIdx (xs ys : List Nat) : List Nat := List.zipWith (· + ·) xs ys

/-- Whether an index lies inside extents. -/
def inside (xs es : List Nat) : Bool := (List.zip xs es).all (fun e => e.1 < e.2)

/-- The address of an element (R28). -/
def Shape.addr (s : Shape) (xs : List Nat) : Int :=
  (List.zip xs s.str).foldl (fun a e => a + e.1 * e.2) s.base

/-- The iteration extents of a copy (R270). -/
def Copy.count (x : Copy) : Nat := product x.it
def Copy.size (x : Copy) : Nat := x.src.size

/-- The byte count B. -/
def Copy.bytes (x : Copy) : Nat := x.size * x.count

/-- The source and destination index of element `k`. -/
def Copy.srcIdx (x : Copy) (k : Nat) : List Nat :=
  let i := unrank x.it k
  if x.odst then i else addIdx i x.origin
def Copy.dstIdx (x : Copy) (k : Nat) : List Nat :=
  let i := unrank x.it k
  if x.odst then addIdx i x.origin else i

/-- Where element `k` is read, or the value that fills it (R271). -/
def Copy.from_ (x : Copy) (k : Nat) : Int ⊕ Nat :=
  let i := x.srcIdx k
  if inside i x.src.ext then .inl (x.src.addr i)
  else if x.src.pad = 3 then .inl (x.src.addr (List.zipWith (fun a e => min a (e - 1)) i x.src.ext))
  else if x.src.pad = 2 then .inr (pack 32 (List.replicate 4 x.src.padWord.toNat) % 2 ^ (8 * x.size))
  else .inr 0

def Copy.to (x : Copy) (k : Nat) : Int := x.dst.addr (x.dstIdx k)

/-- The first element in iteration order whose index leaves the extents in one of some dimensions: that dimension and
the index (R271, R284). -/
def firstOut (it o ext : List Nat) (dims : List Nat) : Option (Nat × Nat) :=
  let first (k : Nat) : Option (Nat × Nat) :=
    let i := ext.getD k 0 - o.getD k 0
    if i < it.getD k 0 then some (i * product (it.take k), k) else none
  let best := (dims.filterMap first).foldl (fun b c => match b with
    | none => some c
    | some x => if c.1 < x.1 then some c else some x) (none : Option (Nat × Nat))
  match best with
  | none => none
  | some (at_, _) =>
    let i := addIdx (unrank it at_) o
    match dims.find? (fun k => ext.getD k 0 ≤ i.getD k 0) with
    | some k => some (k, i.getD k 0)
    | none => none

/-- Pads and write ranges (R272 item 3). -/
def Copy.rangeFault (x : Copy) (hs hd : Nat) : Option (BitVec 10 × Word64) :=
  if x.count = 0 then none
  else if x.odst then
    (firstOut x.it x.origin x.dst.ext (List.range 4)).map (fun e => (0x1C3, copyData e.1 1 hd e.2))
  else
    let dims := if x.src.pad = 0 then List.range 4
      else if x.src.pad = 3 then (List.range 4).filter (fun k => x.src.ext.getD k 0 = 0) else []
    (firstOut x.it x.origin x.src.ext dims).map (fun e => (0x1C2, copyData e.1 0 hs e.2))

/-- The hull of the accessed source elements, if there are any (R272). -/
def Copy.srcHull (x : Copy) : Option (Int × Int) :=
  if x.count = 0 then none
  else
    let o := if x.odst then [0, 0, 0, 0] else x.origin
    let range (o n e : Nat) : Nat × Nat := (if x.src.pad = 3 then min o (e - 1) else o, min (o + n - 1) (e - 1))
    let rs := List.zipWith (fun p e => range p.1 p.2 e) (List.zip o x.it) x.src.ext
    if rs.any (fun r => r.2 < r.1) || x.src.ext.contains 0 then none
    else
      let (lo, hi) := x.src.span rs
      some (lo, hi + x.size)

/-- The hull of the written elements. -/
def Copy.dstHull (x : Copy) : Option (Int × Int) :=
  if x.count = 0 then none
  else
    let o := if x.odst then x.origin else [0, 0, 0, 0]
    let (lo, hi) := x.dst.span (List.zipWith (fun a n => (a, a + n - 1)) o x.it)
    some (lo, hi + x.size)

/-- Where a hull leaves a window: its lowest offset outside (R209). -/
def hullOut (h : Option (Int × Int)) (window : Nat) : Option Int :=
  match h with
  | none => none
  | some (lo, hi) =>
    if lo < 0 || (window : Int) ≤ lo then some lo else if (window : Int) < hi then some window else none

def hullsMeet (a b : Option (Int × Int)) (shift : Int) : Bool :=
  match a, b with
  | some a, some b => a.1 < b.2 + shift && b.1 + shift < a.2
  | _, _ => false

/-! ### Starting a copy (R264, R272). -/

/-- The copy slots of the workgroup in focus that hold no copy. -/
def State.freeSlots (s : State) : List Nat := s.g.csl.filter (fun k => (Tab.find (s.core s.focus.core).copies k).isNone)

/-- A copy slot of the workgroup in focus that holds no copy. -/
def State.freeCopySlot (s : State) : Option Nat := s.freeSlots.head?

/-- Whether a word takes a copy slot. -/
def isCopy : Instr → Bool
  | .cpyR _ => true
  | .cpym _ => true
  | .cpyI _ => true
  | _ => false

/-- The copies that the workgroup in focus has issued and that are still to be forked: each occupies a slot from its issue (R264). -/
def State.copiesIssued (s : State) : Nat :=
  ((s.core s.focus.core).warps.flatMap (fun e => if e.2.wg = s.w.wg then
    e.2.frags.flatMap (fun f => f.2.words.filter (fun d => isCopy d.instr)) else [])).length

/-- Whether the workgroup in focus has a slot for one more copy (R264). -/
def State.hasCopySlot (s : State) : Bool := s.copiesIssued < s.freeSlots.length

/-- The engines' actor for the word in focus. -/
def State.engineActor (s : State) : Actor := { party := .core s.focus.core, dev := s.die, task := some s.g.task, type := 4, waiter := .lane s.focusRef 64 }

/-- Items 2 to 4 of R272. -/
def State.copyChecks (s : State) (x : Copy) (hs hd : Nat) (next : State → Res) : Res :=
  s.namedCount s.engineActor x.cw (fun s =>
    match x.rangeFault hs hd with
    | some (c, d) => .trap s c d
    | none => match (if x.srcScr then hullOut x.srcHull s.window else none),
          (if x.dstScr then hullOut x.dstHull s.window else none) with
      | some o, _ => .trap s 0x124 (w64 o)
      | none, some o => .trap s 0x124 (w64 o)
      | none, none => next s)

/-- The copy takes its slot and is forked. -/
def State.forkCopy (s : State) (x : Copy) : Res :=
  match s.freeCopySlot with
  | none => .wait s .busy
  | some k =>
    let c := s.core s.focus.core
    let x := { x with wg := some s.w.wg, rplc := s.g.rplc, task := s.g.task, linear := s.g.linear }
    .done (s.setCore s.focus.core { c with copies := Tab.set c.copies k x })

/-- Items 2 to 5 of R272, and the fork. -/
def State.startCopy (s : State) (x : Copy) (hs hd : Nat) : Res :=
  s.copyChecks x hs hd (fun s =>
    if x.srcScr == x.dstScr && hullsMeet x.srcHull x.dstHull 0 then .trap s 0x1C4 0
    else s.forkCopy x)

/-- COPY_NOSLOT (R264). -/
def State.checkSlot (s : State) : Chk Unit := if s.t.desc.cslots = 0 then .error (0x1C5, 0) else .ok ()

/-- The shapes of a copy, valid, with COPY_NOSLOT and equal element sizes (R272 item 1). -/
def State.checkShapes (s : State) (hs hd : Nat) : Chk (Shape × Shape) :=
  match s.H hs, s.H hd with
  | none, _ => .error (0x1C0, copyData 0 0 hs 0)
  | some _, none => .error (0x1C0, copyData 0 1 hd 0)
  | some a, some b => do
    s.checkSlot
    if (Shape.of a).esize != (Shape.of b).esize then .error (0x1C1, copyData 0 0 hs 0)
    else .ok (Shape.of a, Shape.of b)

/-- CPY R (R275). -/
def execCpyR (o : OpR) (s : State) : Host.Outcome State Fault Refusal :=
  let s := s.commit
  let hs := o.a.toNat % 8
  let hd := o.d.toNat % 8
  ((s.checkShapes hs hd).run s (fun (a, b) =>
    let org := if o.cv then (List.range 4).map (fun i => (s.S o.creg).toNat / 2 ^ (16 * i) % 2 ^ 16) else [0, 0, 0, 0]
    let odst := o.sub.getLsbD 0
    s.startCopy { src := a, dst := b, origin := org, odst := odst, srcScr := o.xm.getLsbD 0, dstScr := o.xm.getLsbD 1,
                  cw := s.S o.b, it := if odst then a.ext else b.ext } hs hd)).out

/-- A contiguous array of `n` elements of 2^e bytes. -/
def Shape.linear (base : Int) (e n : Nat) : Shape :=
  { base := base, esize := e, ext := [n, 1, 1, 1], str := [2 ^ e, 0, 0, 0] }

/-- CPY I (R276). -/
def execCpyI (o : OpI) (s : State) : Host.Outcome State Fault Refusal :=
  let s := s.commit
  let dst := (s.S o.d).toNat
  let src := (s.S o.a).toNat
  let check : Chk Unit := do
    s.checkSlot
    if src % 16 != 0 then .error (0x1C6, copyData 0 0 0 0)
    else if dst % 16 != 0 then .error (0x1C6, copyData 0 1 0 0)
    else .ok ()
  (check.run s (fun _ =>
    let n := o.immN / 4
    s.startCopy { src := Shape.linear src 4 n, dst := Shape.linear dst 4 n, origin := [0, 0, 0, 0],
                  srcScr := o.immN % 2 = 1, dstScr := o.immN / 2 % 2 = 1, cw := s.S (o.d + 1), it := [n, 1, 1, 1] } 0 0)).out

/-! ### Multicast (R277). -/

/-- The fields of a landing handle (R234). -/
def landOfs (h : Word64) : Nat := bitsOf h.toNat 17 0
def landCore (h : Word64) : Nat := bitsOf h.toNat 25 18
def landWg (h : Word64) : Nat := bitsOf h.toNat 30 26
def landStamp (h : Word64) : Nat := bitsOf h.toNat 63 32

/-- CPYM (R277): the checks of R272, the reading of the list, and the tests of its entries. -/
def execCpym (o : OpR) (s : State) : Host.Outcome State Fault Refusal :=
  let s := s.commit
  let hs := o.a.toNat % 8
  let hd := o.d.toNat % 8
  let n := o.xm.toNat % 16 + 1
  let list := s.S o.creg
  let copy (a b : Shape) : Copy :=
    { src := a, dst := b, origin := [0, 0, 0, 0], srcScr := o.xm.getLsbD 4, dstScr := true, cw := s.S o.b, it := b.ext }
  let run (s : State) (x : Copy) : Res :=
    let begin_ : Chk Flight :=
      if list.toNat % 8 != 0 then .error (0x0A0, alignData o.creg list)
      else .ok { type := 7, plain := true, single := true,
                 reqs := (List.range n).map (fun i => { lane := i, va := list.toNat + 8 * i, op := .read 8 }) }
    s.runFlight begin_ false (fun s fl =>
      let hs : List Word64 := (List.range n).map (fun i => BitVec.ofNat 64 (Tab.get fl.got 0 i))
      let bad (h : Word64) : Bool := 192 ≤ landCore h || dieOf (landCore h) != s.die || h.getLsbD 31
      match hs.findIdx? bad with
      | some i => .trap s 0x1C7 (copyData 0 0 0 i)
      | none =>
        let mine (h : Word64) : Bool := landCore h = s.focus.core && landWg h = s.w.wg && landStamp h = s.g.rplc
        if x.srcScr && hs.any (fun h => mine h && hullsMeet x.srcHull x.dstHull (landOfs h)) then .trap s 0x1C4 0
        else s.forkCopy { x with items := hs.map (fun h => { handle := h }) })
  ((s.checkShapes hs hd).run s (fun (a, b) =>
    if s.f.flight.isSome then run s (copy a b)
    else s.copyChecks (copy a b) hs hd (fun s => run s (copy a b)))).out

/-! ### The copy engine (R265, R273, R274, R278). -/

/-- The actor of a copy in a slot of a core. -/
def Copy.actor (x : Copy) (c k : Nat) : Actor :=
  { party := .core c, dev := dieOf c, task := some x.task, type := 4, waiter := .engine c k }

def State.setCopy (s : State) (c k : Nat) (x : Copy) : State :=
  s.setCore c { s.core c with copies := Tab.set (s.core c).copies k x }

/-- The line piece of an element of `n` bytes that an access makes: its address and its length, and whether it is the last one.
An element, of at most 16 bytes, touches at most two lines, each of them by an operation of its own (R90, R322). -/
def elemPiece (a : Int) (n : Nat) (second : Bool) : Int × Nat × Bool :=
  let first := (128 - a % 128).toNat
  if n ≤ first then (a, n, true) else if second then (a + first, n - first, true) else (a, first, false)

/-- How an access of a copy that did not end leaves it. -/
def Acc.stopCopy (r : Acc) (s : State) (c slot : Nat) (x : Copy) (at_ : Int) : State :=
  match r with
  | .fault f => s.setCopy c slot { x with failed := some (f, w64 at_) }
  | .pager h => s.setCopy c slot { x with held := some { h with data := w64 at_ } }
  | _ => s

/-- Element `k` is read, unless its value is a pad or it has been read. -/
def State.copyRead (s : State) (c slot : Nat) (x : Copy) (k : Nat) : State :=
  match x.from_ k with
  | .inr _ => s
  | .inl a =>
    if (Tab.find x.buf k).isSome then s
    else if x.srcScr then
      let (v, s) := s.scratchRead c (x.wg.getD 0) a.toNat x.size
      s.setCopy c slot { x with buf := Tab.set x.buf k v }
    else
      let got := Tab.find x.part k
      let (at_, n, last) := elemPiece a x.size got.isSome
      match s.access (x.actor c slot) none at_ (.read n) with
      | (.ok v, s) =>
        let v := got.getD 0 + v * 2 ^ (8 * if got.isSome then x.size - n else 0)
        s.setCopy c slot (if last then { x with buf := Tab.set x.buf k v, part := Tab.del x.part k }
          else { x with part := Tab.set x.part k v })
      | (r, s) => r.stopCopy s c slot x at_

/-- The value that element `k` is written with, once it is known. -/
def Copy.value (x : Copy) (k : Nat) : Option Nat :=
  match x.from_ k with
  | .inr v => some v
  | .inl _ => Tab.find x.buf k

/-- Where the bytes at an address stand, as far as it can be told before they are accessed: the frame of a page, or the page of
another logical device that a window names; nothing of a page that does not translate. -/
def State.placeOf (s : State) (d va : Nat) : Option (Nat × Nat × Nat) :=
  match (s.walkTable d va).1 with
  | .leaf l =>
    if !l.peer then some (0, 0, l.pa / 65536)
    else match s.importOf d l with
      | none => none
      | some e =>
        if e.rmod != s.io.mymod then none
        else match (s.walkTable e.rdev (e.rbase + 65536 * l.ipage)).1 with
          | .leaf t => if t.peer then none else some (0, 0, t.pa / 65536)
          | _ => none
  | _ => none

/-- Whether two ranges of `n` bytes may reach one byte: through one virtual address, or through two that lie alike in their
pages, unless the pages are known to stand apart (R273). -/
def State.maySame (s : State) (d : Nat) (a b : Int) (n : Nat) : Bool :=
  (a < b + n && b < a + n) ||
  (((b - a) % 65536 < n || (a - b) % 65536 < n) &&
    (let place (x : Int) : Option (Nat × Nat × Nat) := s.placeOf d x.toNat
     let ps := [place a, place (a + n - 1)]
     let qs := [place b, place (b + n - 1)]
     ps.any (fun p => p.isNone || qs.contains p) || qs.contains none))

/-- Whether a write of element `k` overtakes no earlier write of a byte of it (R273). -/
def Copy.mayWrite (x : Copy) (same : Int → Int → Nat → Bool) (done : List Nat) (next k : Nat) : Bool :=
  (List.range' next (k - next)).all (fun j => done.contains j || !same (x.to j) (x.to k) x.size)

/-- Ranges of one scratch window meet only at one offset. -/
def sameOffsets (a b : Int) (n : Nat) : Bool := a < b + n && b < a + n

/-- The element's write is complete. -/
def Copy.wrote (x : Copy) (k : Nat) : Copy :=
  { x with buf := Tab.del x.buf k, half := Tab.del x.half k,
           next := if k = x.next then k + 1 else x.next, done := if k = x.next then x.done else k :: x.done }

/-- Whether a write through a peer leaf can be made, as far as this module can tell before it is: its import and write right, the page
and the line at another logical device of the module, a port to another module that is up (R198, R199, R253). -/
def State.peerTest (s : State) (a : Actor) (l : Leaf) (va n : Nat) : Except Acc Leaf × State :=
  let fault (s : State) (base : Nat) : Except Acc Leaf × State := (.error (.fault (BitVec.ofNat 10 (base + a.type))), s)
  match s.importOf a.dev l with
  | none => fault s 0x118
  | some e =>
    if !e.wr then fault s 0x160
    else if e.rmod != s.io.mymod then (if (s.upPorts e.rmod).isEmpty then fault s 0x290 else (.ok l, s))
    else
      let there := e.rbase + 65536 * l.ipage + va % 65536
      match s.targetLeaf e.rdev a there (.write n 0) with
      | (.error (.pager h), s) => (.error (.pager { h with page := va / 65536 }), s)
      | (.error r, s) => (.error r, s)
      | (.ok t, s) =>
        if t.mt = 0 && s.lineLost (t.pa + there % 65536) n then fault (s.unreadable a (t.pa + there % 65536) there).2 0x2A0
        else (.ok l, s)

/-- The leaf through which the second piece of an element goes, or how the access ends without one: it is found before the
first piece is written, so that no element is left half written (R274). -/
def State.secondLeaf (s : State) (a : Actor) (va : Int) (n : Nat) : Except Acc Leaf × State :=
  if 2 ^ 57 ≤ va then (.error (.fault (BitVec.ofNat 10 (0x110 + a.type))), s)
  else match s.translate a va.toNat with
    | (.error, s) => (.error (.fault (BitVec.ofNat 10 (0x108 + a.type))), s)
    | (.lost pa, s) =>
      let r := s.unreadable a pa va.toNat
      (.error r.1, r.2)
    | (.host, s) => (.error (.fault (BitVec.ofNat 10 (0x2B0 + a.type))), s)
    | (.full, s) => (.error (.stall missPage), s)
    | (.absent pgr, s) =>
      let r := s.notPresent a.dev pgr va.toNat a true
      (.error r.1, r.2)
    | (.leaf l, s) => match protection l va.toNat a.type (.write n 0) with
      | some c => (.error (.fault c), s)
      | none =>
        if l.peer then s.peerTest a l va.toNat n
        else if l.mt = 0 && s.lineLost (l.pa + va.toNat % 65536) n then
          let r := s.unreadable a (l.pa + va.toNat % 65536) va.toNat
          (.error r.1, r.2)
        else (.ok l, s)

/-- Element `k` is written to global memory: its piece in the first line, then the one in the second. -/
def State.copyPut (s : State) (c slot : Nat) (x : Copy) (k v : Nat) : State :=
  let a := x.actor c slot
  let (at_, n, last) := elemPiece (x.to k) x.size (Tab.find x.half k).isSome
  let op : MemOp := .write n (v / 2 ^ (8 * if last then x.size - n else 0) % 2 ^ (8 * n))
  match Tab.find x.half k with
  | some l => match s.accessLeaf a l at_.toNat op with
    | (.ok _, s) => s.setCopy c slot (x.wrote k)
    | (r, s) => r.stopCopy s c slot x at_
  | none =>
    if last then match s.access a none at_ op with
      | (.ok _, s) => s.setCopy c slot (x.wrote k)
      | (r, s) => r.stopCopy s c slot x at_
    else match s.secondLeaf a (at_ + n) (x.size - n) with
      | (.error r, s) => r.stopCopy s c slot x (at_ + n)
      | (.ok l, s) => match s.access a none at_ op with
        | (.ok _, s) => s.setCopy c slot { x with half := Tab.set x.half k l }
        | (r, s) => r.stopCopy s c slot x at_

/-- Element `k` is written: a piece that lies in one line, the second one after the first. -/
def State.copyWrite (s : State) (c slot : Nat) (x : Copy) (k : Nat) : State :=
  match x.value k with
  | none => s
  | some v =>
    if k < x.next || x.done.contains k then s
    else if x.dstScr then
      if x.mayWrite sameOffsets x.done x.next k then
        (s.scratchWrite c (x.wg.getD 0) (x.to k).toNat x.size v).setCopy c slot (x.wrote k)
      else s
    else if x.mayWrite (s.maySame (dieOf c)) x.done x.next k then s.copyPut c slot x k v
    else s

/-- Why a delivery item fails before its first write (R278). -/
def State.landFault (s : State) (x : Copy) (it : McItem) : Option (BitVec 10 × Word64) :=
  let h := it.handle
  match Tab.find (s.core (landCore h)).wgs (landWg h) with
  | none => some (0x1CA, h)
  | some g =>
    if g.rplc != landStamp h then some (0x1CA, h)
    else match x.dstHull with
      | none => none
      | some (lo, hi) => (hullOut (some (lo + landOfs h, hi + landOfs h)) (s.windowOf (landCore h) (landWg h))).map
          (fun o => (0x1CB, w64 o))

/-- Element `k` of a delivery item is written in its target's window. -/
def State.landWrite (s : State) (c slot : Nat) (x : Copy) (m k : Nat) : State :=
  match x.items[m]?, x.value k with
  | some it, some v =>
    if it.ended || it.done.contains k || !x.mayWrite sameOffsets it.done 0 k then s
    else if it.done.isEmpty && (s.landFault x it).isSome then s
    else
      let h := it.handle
      let s := s.scratchWrite (landCore h) (landWg h) (x.to k + landOfs h).toNat x.size v
      s.setCopy c slot { x with items := x.items.set m { it with done := k :: it.done } }
  | _, _ => s

/-- The copy slot that the engine serves next (R265). -/
def Core.nextCopy (x : Core) : Option (Nat × Copy) :=
  match x.copies.find? (fun e => x.copyPtr ≤ e.1) with
  | some e => some e
  | none => x.copies.head?

/-- One line request of the next slot. `sel` chooses the element and what is done to it, in any order that R273
allows: 2k reads a line piece of element k, 2k + 1 writes one; of a multicast, 2(16k + m) + 1 writes element k of item m. A copy
that a pager holds makes no access (R274), and one that has written the first piece of an element writes the second next. -/
def execCopyLineRequest (core : Fin 192) (sel : Nat) (s : State) : Host.Outcome State Fault Refusal :=
  let c := core.val
  match (s.core c).nextCopy with
  | none => .next s
  | some (slot, x) =>
    let s := s.setCore c { s.core c with copyPtr := (slot + 1) % 32 }
    let k := sel / 2
    if x.failed.isSome || x.held.isSome then .next s
    else match x.half with
      | (k, _) :: _ => .next (s.copyWrite c slot x k)
      | [] =>
        if sel % 2 = 0 then (if k < x.count then .next (s.copyRead c slot x k) else .next s)
        else if x.items.isEmpty then (if k < x.count then .next (s.copyWrite c slot x k) else .next s)
        else if k / 16 < x.count then .next (s.landWrite c slot x (k % 16) (k / 16))
        else .next s

/-- The entry of an engine's count-word add that failed (R335). -/
def State.addFailed (s : State) (a : Actor) (cw : Word64) (c : BitVec 10) : State :=
  s.logEvent { cause := c, src := if a.party = .ct then 4 else a.dev, core := a.core.getD 0, addr := cw, task := a.task }

/-- How an engine's count-word add stands: over, held on an upcall entry, or still to be made. -/
inductive Add where
  | over | held (h : Held) | again
  deriving Inhabited

/-- A count-word add of an engine (R274, R335), for one item of it. An add that fails is logged. -/
def State.engineAdd (s : State) (a : Actor) (cw : Word64) (v item : Nat) : Add × State :=
  if cw = 0 then (.over, s)
  else match s.access a none cw.toNat (.cwAdd (BitVec.ofNat 64 v) true) with
    | (.ok _, s) => (.over, s)
    | (.fault c, s) => (.over, s.addFailed a cw c)
    | (.pager h, s) => (.held { h with data := cw, add := some item }, s)
    | (_, s) => (.again, s)

/-- The event-log entry of a failed copy or item (R274). -/
def Copy.failEvent (x : Copy) (c item : Nat) (f : BitVec 10 × Word64) : Event :=
  { cause := f.1, src := dieOf c, core := c, item := item, addr := f.2, task := some x.task, aux := x.cw }

/-- Whether a request of a copy is one of its accesses, not its add. -/
def PeerReq.ofCopy (r : PeerReq) (c slot : Nat) : Bool :=
  r.waiter == .engine c slot && match r.op with | .cwAdd _ _ => false | _ => true

/-- The requests of a copy that makes no further access are given up (R253, R274). -/
def State.dropCopyReqs (s : State) (c slot : Nat) : State :=
  { s with io := { s.io with reqs := s.io.reqs.filter (fun e => !e.2.ofCopy c slot) } }

/-- Frees a copy slot, whose accesses are over; a COPY task then ends (R279). -/
def State.freeCopy (s : State) (c slot : Nat) (x : Copy) : State :=
  let s := (s.dropCopyReqs c slot).setCore c { s.core c with copies := Tab.del (s.core c).copies slot }
  if x.isTask then
    let t := s.task x.task
    let t := match x.failed with
      | some (f, _) => { t with fault := some (0x50, f) }
      | none => t
    s.setTask x.task { t with left := 0 }
  else s

/-- Whether every element of a copy has been written. -/
def Copy.complete (x : Copy) : Bool := x.next + x.done.length = x.count

/-- Whether an access that a copy has sent to another module or to the host is still to be answered: the add comes after it
(R273). -/
def State.copyWaits (s : State) (c slot : Nat) : Bool :=
  s.io.reqs.any (fun e => e.2.ofCopy c slot && (e.2.host || e.2.port.isSome) && e.2.result.isNone && !e.2.down && !e.2.again)

/-- A copy whose add is over ends: a failure is logged, and its slot is freed. -/
def State.endCopy (s : State) (c slot : Nat) (x : Copy) : State :=
  let s := match x.failed with
    | some f => s.logEvent (x.failEvent c 0 f)
    | none => s
  s.freeCopy c slot x

/-- Why a delivery item fails, if it does. -/
def State.itemFault (s : State) (x : Copy) (it : McItem) : Option (BitVec 10 × Word64) :=
  match x.failed with
  | some f => some f
  | none => if it.done.isEmpty then s.landFault x it else none

/-- A delivery item whose add is over ends. -/
def State.endItem (s : State) (c slot : Nat) (x : Copy) (item : Nat) (it : McItem) : State :=
  let s := match s.itemFault x it with
    | some f => s.logEvent (x.failEvent c item f)
    | none => s
  s.setCopy c slot { x with held := none, items := x.items.set item { it with ended := true } }

/-- The end of a copy (R274), or of a multicast all of whose items have ended. -/
def execCopyCompletion (core : Fin 192) (slot : Fin 32) (s : State) : Host.Outcome State Fault Refusal :=
  let c := core.val
  match Tab.find (s.core c).copies slot.val with
  | none => .next s
  | some x =>
    if x.held.isSome || s.copyWaits c slot.val then .next s
    else if !x.items.isEmpty then
      if x.items.all (fun i => i.ended) then .next (s.freeCopy c slot.val x) else .next s
    else if x.failed.isNone && !x.complete then .next s
    else match (s.dropCopyReqs c slot.val).engineAdd (x.actor c slot.val) x.cw (x.bytes + if x.failed.isSome then 2 ^ 48 else 0) 0 with
      | (.over, s) => .next (s.endCopy c slot.val x)
      | (.held h, s) => .next (s.setCopy c slot.val { x with held := some h })
      | (.again, s) => .next s

/-- The end of a delivery item (R278): it fails where its target has changed, its hull leaves the window or the copy
has failed, and succeeds once all its elements are written. -/
def execMulticastItem (core : Fin 192) (slot : Fin 32) (item : Fin 16) (s : State) : Host.Outcome State Fault Refusal :=
  let c := core.val
  match Tab.find (s.core c).copies slot.val with
  | none => .next s
  | some x =>
    match x.items[item.val]? with
    | none => .next s
    | some it =>
      if it.ended || x.held.isSome || (x.failed.isSome && s.copyWaits c slot.val) then .next s
      else
        let s := if x.failed.isSome then s.dropCopyReqs c slot.val else s
        let fault := s.itemFault x it
        if fault.isNone && it.done.length != x.count then .next s
        else match s.engineAdd (x.actor c slot.val) x.cw (x.bytes + if fault.isSome then 2 ^ 48 else 0)
            item.val with
          | (.over, s) => .next (s.endItem c slot.val x item.val it)
          | (.held h, s) => .next (s.setCopy c slot.val { x with held := some h })
          | (.again, s) => .next s

/-! ### Shuffles (R281 to R283). -/

/-- The fields of a step word. -/
def stepMode (w : Nat) : Nat := bitsOf w 1 0
def stepSize (w : Nat) : Nat := bitsOf w 3 2
def stepP (w i : Nat) : Nat := bitsOf w (31 + 16 * i) (16 + 16 * i)

/-- N of a step. -/
def stepCount (w : Nat) : Nat :=
  match stepMode w with
  | 0 => 2 ^ (stepP w 0)
  | 1 => (stepP w 0 + 1) * (stepP w 1 + 1)
  | _ => stepP w 0 + 1

/-- Whether a step is valid by itself; only the first may be GATHER. -/
def stepOk (first : Bool) (w : Nat) : Bool :=
  bitsOf w 15 4 = 0 && stepSize w < 3 &&
  match stepMode w with
  | 0 => 1 ≤ stepP w 0 && stepP w 0 ≤ 16 && stepP w 1 = 0 && stepP w 2 = 0
  | 1 => stepCount w ≤ 65536 && stepP w 2 = 0
  | 2 => first
  | _ => false

/-- The `l` low bits of j in reverse order. -/
def bitReverse : Nat → Nat → Nat
  | 0, _ => 0
  | l + 1, j => j % 2 * 2 ^ l + bitReverse l (j / 2)

/-- The permutation of a step. -/
def stepMap (w j : Nat) : Nat :=
  match stepMode w with
  | 0 => bitReverse (stepP w 0) j
  | 1 =>
    let rows := stepP w 0 + 1
    j % rows * (stepP w 1 + 1) + j / rows
  | _ => stepP w 2 + j * stepP w 1

/-- π(j) = π1(π2(… πn(j))). -/
def Shuffle.source (x : Shuffle) (j : Nat) : Nat := x.steps.foldr (fun w j => stepMap w.toNat j) j

/-- The first invalid step of a program. -/
def badStep (ws : List Nat) : Option Nat :=
  let n := stepCount (ws.headD 0)
  let e := stepSize (ws.headD 0)
  (List.range ws.length).find? (fun i =>
    let w := ws.getD i 0
    !stepOk (i = 0) w || stepCount w != n || stepSize w != e)

/-- Issues a shuffle (R281): its program, its offsets word and hulls, and its count word are checked. -/
def State.startShuffle (s : State) (ofs cw : Word64) (steps : List Word64) : Res :=
  let ws := steps.map (fun w => w.toNat)
  let w0 := ws.headD 0
  match badStep ws with
  | some i => .trap s 0x1C8 (copyData 0 0 0 i)
  | none =>
    let n := stepCount w0
    let e := 4 * 2 ^ stepSize w0
    let dofs := bitsOf ofs.toNat 17 0
    let sofs := bitsOf ofs.toNat 35 18
    let last := if stepMode w0 = 2 then stepP w0 2 + (n - 1) * stepP w0 1 else n - 1
    let srcEnd := sofs + (last + 1) * e
    let dstEnd := dofs + n * e
    if ofs.toNat / 2 ^ 36 != 0 || s.window < srcEnd then .trap s 0x1C9 (copyData 0 0 0 0)
    else if s.window < dstEnd then .trap s 0x1C9 (copyData 0 1 0 0)
    else if sofs < dstEnd && dofs < srcEnd then .trap s 0x1C9 (copyData 0 0 0 0)
    else s.namedCount s.engineActor cw (fun s =>
      let c := s.core s.focus.core
      if 16 ≤ c.shuffles.length then .wait s .busy
      else
        let x : Shuffle := { wg := s.w.wg, rplc := s.g.rplc, task := s.g.task, n := n, e := e, steps := steps,
                             dofs := dofs, sofs := sofs, cw := cw }
        .done (s.setCore s.focus.core { c with shuffles := c.shuffles ++ [x] }))

/-- SHUF R (R282). -/
def execShufR (o : OpR) (s : State) : Host.Outcome State Fault Refusal :=
  let s := s.commit
  let n := o.xm.toNat % 4 + 1
  let steps := (List.range n).map (fun i => s.S (BitVec.ofNat 6 (o.a.toNat + i)))
  (s.startShuffle (s.S o.d) (s.S o.b) steps).out

/-- SHUF I (R283). -/
def execShufI (o : OpI) (s : State) : Host.Outcome State Fault Refusal :=
  let s := s.commit
  let i := o.immN
  let step : Word64 := BitVec.ofNat 64 (i / 32 % 4 * 4 + i % 32 * 2 ^ 16)
  (s.startShuffle (s.S o.d) (s.S o.a) [step]).out

/-- A step of the shuffle at the head of a core's queue (R281). `sel` = 2j reads the source of element j, 2j + 1 writes
element j; once all are written, the count word gains N × E and the shuffle ends. One that an uncorrectable error has failed
(R355) makes no further access: its count word gains 2^48 more, and an entry is logged. -/
def execShuffleExecute (core : Fin 192) (sel : Nat) (s : State) : Host.Outcome State Fault Refusal :=
  let c := core.val
  match (s.core c).shuffles with
  | [] => .next s
  | x :: rest =>
    let put (s : State) (x : Shuffle) : State := s.setCore c { s.core c with shuffles := x :: rest }
    let j := sel / 2
    if x.failed.isSome || x.next + x.done.length = x.n then
      let a : Actor := { party := .core c, dev := dieOf c, task := some x.task, type := 4, waiter := .engine c 32 }
      match s.engineAdd a x.cw (x.n * x.e + if x.failed.isSome then 2 ^ 48 else 0) 0 with
      | (.held h, s) => .next (put s { x with held := some h })
      | (.again, s) => .next s
      | (.over, s) =>
        let s := match x.failed with
          | some f => s.logEvent { cause := f.1, src := dieOf c, core := c, addr := f.2, task := some x.task, aux := x.cw }
          | none => s
        .next (s.setCore c { s.core c with shuffles := (s.core c).shuffles.tail })
    else if x.n ≤ j || j < x.next || x.done.contains j then .next s
    else if sel % 2 = 0 then
      if (Tab.find x.buf j).isSome then .next s
      else
        let (v, s) := s.scratchRead c x.wg (x.sofs + x.source j * x.e) x.e
        .next (put s { x with buf := Tab.set x.buf j v })
    else match Tab.find x.buf j with
      | none => .next s
      | some v =>
        let s := s.scratchWrite c x.wg (x.dofs + j * x.e) x.e v
        let x := { x with buf := Tab.del x.buf j }
        .next (put s (if j = x.next then { x with next := j + 1 } else { x with done := j :: x.done }))

end Sys2Proof.Machine
end

