-- ==== Sys2Proof/Machine/GroupOps.lean ====
section
/-! DEFINITION. Named groups and the implicit groups (R47, R344 to R350). -/

namespace Sys2Proof.Machine

/-! ### Handles (R344, R345). -/

/-- The handle that the ga field names: a g register, or an implicit group. -/
def State.groupHandle (s : State) (a : BitVec 6) : Word32 :=
  if a = 8 then 0xFFFFF000 else if a = 9 then 0xFFFFF001 else s.G (a.toNat % 8)

def groupHandleOf (i gen : Nat) : Word32 := BitVec.ofNat 32 (i + gen * 4096)

/-- The group that a handle names for the warp in focus, under the first two checks of R345. -/
def State.resolve (s : State) (h : Word32) (implicit : Bool) : Chk GroupRef :=
  let data := BitVec.ofNat 64 h.toNat
  let stale : Chk GroupRef := .error (0x240, data)
  if h = 0xFFFFF000 then (if implicit then .ok (.wg s.g.task s.g.linear) else stale)
  else if h = 0xFFFFF001 then (if implicit then .ok (.gang s.g.task s.g.unit) else stale)
  else
    let i := h.toNat % 4096
    let g := s.group i
    if h.toNat / 4096 = 0xFFFFF || !g.live || g.gen != h.toNat / 4096 then stale
    else if g.dev != s.die && !g.shared then .error (0x243, data)
    else .ok (.named i)

/-- The member that the warp in focus is. -/
def State.self (s : State) : Member := s.memberOf s.focus.core s.focus.slot

/-- The third check of R345. -/
def State.needMember (s : State) (h : Word32) (r : GroupRef) : Chk Unit :=
  if (s.members r).contains s.self then .ok () else .error (0x241, BitVec.ofNat 64 h.toNat)

/-- The membership records in use (R344). -/
def State.membersUsed (s : State) : Nat := (s.groups.map (fun e => e.2.members.length)).foldl (· + ·) 0

/-! ### Membership (R347, R350). -/

/-- GNEW. -/
def execGnew (o : OpR) (s : State) : Host.Outcome State Fault Refusal :=
  let s := s.commit
  let used := (s.groups.filter (fun e => e.2.live)).map (fun e => e.1)
  let give (s : State) (h : Word32) : Res :=
    .done (s.putAll 0 [.g (o.d.toNat % 8) h, .s o.b.toNat (BitVec.ofNat 64 h.toNat)])
  (match firstFree used 0 4096 with
  | some i =>
    if 32768 ≤ s.membersUsed || 16 ≤ (s.groupsOf s.self).length then
      let x := s.device s.die
      give (s.setDevice s.die { x with gnone := bump32 x.gnone }) 0xFFFFFFFF
    else
      let gen := (s.group i).gen
      let g : Group := { gen := gen, live := true, dev := s.die, shared := o.m, members := [s.self] }
      give (s.setGroup i g) (groupHandleOf i gen)
  | none =>
    let x := s.device s.die
    give (s.setDevice s.die { x with gnone := bump32 x.gnone }) 0xFFFFFFFF).out

/-- GJOIN. -/
def execGjoin (o : OpR) (s : State) : Host.Outcome State Fault Refusal :=
  let s := s.commit
  let h : Word32 := (s.S o.a).setWidth 32
  ((s.resolve h false).run s (fun r => match r with
    | .named i =>
      let g := s.group i
      let give (s : State) (v : Int) : Res := .done (s.putAll 0 [.g (o.d.toNat % 8) h, .s o.b.toNat (w64 v)])
      if g.members.contains s.self then give s (g.members.findIdx (fun m => m == s.self))
      else if 32768 ≤ s.membersUsed then give s (-1)
      else if 16 ≤ (s.groupsOf s.self).length then give s (-2)
      else give (s.setGroup i { g with members := g.members ++ [s.self] }) g.members.length
    | _ => .trap s 0x240 (BitVec.ofNat 64 h.toNat))).out

/-- GLEAVE: an arrival of the warp in the open phase is withdrawn, and the fragments that it holds execute their words
again. -/
def execGleave (o : OpR) (s : State) : Host.Outcome State Fault Refusal :=
  let s := s.commit
  let h := s.groupHandle o.a
  ((s.resolve h false).run s (fun r => match r with
    | .named i =>
      if (s.group i).members.contains s.self then
        let s := match (s.phase r).of s.self with
          | some _ => s.setW { s.w with frags := s.w.frags.map (fun (e : Nat × Frag) => (e.1, match e.2.park with
              | .barrier _ => { e.2 with park := .none }
              | .arriveHeld => { e.2 with park := .none }
              | _ => e.2)) }
          | none => s
        .done ((s.putS 0 o.d 0).departFrom r s.self false)
      else .done (s.putS 0 o.d (w64 (-1)))
    | _ => .trap s 0x240 (BitVec.ofNat 64 h.toNat))).out

/-- GFREE. -/
def execGfree (o : OpR) (s : State) : Host.Outcome State Fault Refusal :=
  let s := s.commit
  let h := s.groupHandle o.a
  ((s.resolve h false).run s (fun r => match r with
    | .named i =>
      let g := s.group i
      if g.members.isEmpty then
        let gen := if g.gen + 1 = 0xFFFFF then 0 else (g.gen + 1) % 2 ^ 20
        .done ((s.setGroup i { gen := gen }).putS 0 o.d 0)
      else .done (s.putS 0 o.d (w64 (-1)))
    | _ => .trap s 0x240 (BitVec.ofNat 64 h.toNat))).out

/-! ### Arrivals (R348). -/

/-- An arrival of the warp in focus: it waits until the phase completes, at once if it is the last. -/
def State.arrive (s : State) (d a : BitVec 6) (kind : ArriveKind) (v : Word64) : Res :=
  let h := s.groupHandle a
  let check : Chk GroupRef := do
    let r ← s.resolve h true
    s.needMember h r
    return r
  check.run s (fun r =>
    let p := s.phase r
    if (p.of s.self).isSome then .wait s .arriveHeld
    else if (match p.kind with | some k => k != kind | none => false) then .trap s 0x242 (BitVec.ofNat 64 h.toNat)
    else
      let x : Arrival := { who := s.self, core := s.focus.core, slot := s.focus.slot, frag := s.focus.frag,
                           d := d.toNat, value := v }
      let s := s.setPhase r { p with kind := some kind, arrivals := p.arrivals ++ [x],
                                     since := some (p.since.getD s.now) }
      let s := (s.setF { s.f with park := .barrier d.toNat }).completePhase r
      .wait s s.f.park)

def execGbar (o : OpR) (s : State) : Host.Outcome State Fault Refusal := (s.arrive o.d o.a .bar 0).out
def execGvote (o : OpR) (s : State) : Host.Outcome State Fault Refusal := (s.arrive o.d o.a .vote (s.S o.b)).out
def execGred (o : OpR) (s : State) : Host.Outcome State Fault Refusal :=
  (s.arrive o.d o.a (.red (o.xm.toNat % 16) o.rm) (s.S o.b)).out

/-! ### GSTAT. -/

/-- Whether a member's unit is pre-empted. -/
def State.isSaved (s : State) (m : Member) : Bool :=
  s.devices.any (fun e => e.2.preempted.any (fun u => u.task = m.task && ((s.task u.task).unitWgs u.unit).contains m.linear))

/-- The group that a handle or reference names; the workgroup and the gang are none. -/
def State.namedGroup (s : State) (r : GroupRef) : Option Group :=
  match r with
  | .named i => some (s.group i)
  | .wg _ _ => none
  | .gang _ _ => none

/-- What GSTAT returns for sel 1 to 3. The rank in an implicit group is fixed (R47, R346). -/
def State.groupStat (s : State) (r : GroupRef) (sel : Nat) : Nat :=
  let ms := s.members r
  let p := s.phase r
  let named := s.namedGroup r
  if sel = 1 then
    let rank := match r with
      | .named _ => if ms.contains s.self then ms.findIdx (fun m => m == s.self) else 0xFFFF
      | .wg _ _ => s.w.warpId
      | .gang _ _ => s.g.rank * s.t.desc.warps + s.w.warpId
    ms.length + rank * 2 ^ 16 + p.count * 2 ^ 32
  else if sel = 2 then
    let faulted := (named.map (fun g => g.faulted)).getD 0
    p.arrivals.length + faulted * 2 ^ 16 + (ms.filter s.isSaved).length * 2 ^ 48
  else match named with
    | some g => g.dev + bit g.shared * 4
    | none => s.die

/-- GSTAT. -/
def execGstat (o : OpR) (s : State) : Host.Outcome State Fault Refusal :=
  let h := s.groupHandle o.a
  let give (s : State) (v : Nat) : Res := .done (s.putS 0 o.d (BitVec.ofNat 64 v))
  (if o.b = 0 then give s h.toNat
  else (s.resolve h true).run s (fun r => give s (s.groupStat r o.b.toNat))).out

end Sys2Proof.Machine
end

