-- ==== Sys2Proof/Machine/Matrix.lean ====
section
/-! DEFINITION. The matrix unit (R285 to R301): tiles, scale memory, MPROG, MSCL, MMA, MRD, MWR, MZERO and MST. -/

namespace Sys2Proof.Machine

/-! ### Tiles and scale columns (R285, R288). -/

/-- TRAPDATA of the matrix causes (R301). -/
def matData (tile item value : Nat) : Word64 := BitVec.ofNat 64 (tile % 4 + item * 4 + value % 2 ^ 32 * 2 ^ 32)

/-- A row of a tile: 192 values. -/
def Workgroup.row (g : Workgroup) (t r : Nat) : List Word32 := Tab.get g.tiles (List.replicate 192 0) (96 * t + r)
def Workgroup.setRow (g : Workgroup) (t r : Nat) (xs : List Word32) : Workgroup :=
  { g with tiles := Tab.set g.tiles (96 * t + r) xs }

/-- An entry of a scale column. -/
def Workgroup.scale (g : Workgroup) (t col i : Nat) : Word32 :=
  (Tab.get g.scales (List.replicate 128 0) (8 * t + col)).getD i 0

/-- The rows of a tile that the issuing fragment selects (R285). -/
def State.tileRows (s : State) : List Nat := (List.range 96).filter (fun r => s.active.getLsbD (r % 32))

/-- Rows of a tile replaced by `f row values`. -/
def Workgroup.mapRows (g : Workgroup) (t : Nat) (rows : List Nat) (f : Nat → List Word32 → List Word32) : Workgroup :=
  rows.foldl (fun g r => g.setRow t r (f r (g.row t r))) g

/-- The tile that a matrix word names. -/
def tileOf : Instr → Option Nat
  | .mma o | .mscl o | .mwrR o | .mst o | .mzero o => some (o.d.toNat % 4)
  | .mrdR o => some (o.a.toNat % 4)
  | .mrdI o => some (o.a.toNat % 4)
  | .mwrI o => some (o.d.toNat % 4)
  | _ => none

/-- Whether a tile word of quadrant `q` may issue in cycle `now` (R286): no operation on the tile that has issued is still to be
performed, and none of a higher quadrant has issued in this cycle. -/
def State.tileFree (s : State) (c g t q now : Nat) : Bool :=
  let held := (s.core c).warps.any (fun e => e.2.wg = g && e.2.frags.any (fun f =>
    !f.2.again && f.2.words.any (fun w => tileOf w.instr == some t)))
  let late := match Tab.find (s.wg c g).tileOps t with
    | some (cycle, quad) => cycle = now && q < quad
    | none => false
  !held && !late

/-- Records an operation on a tile. -/
def State.noteTile (s : State) (t : Nat) : State :=
  s.setG { s.g with tileOps := Tab.set s.g.tileOps t (s.focus.issue, s.focus.slot / 32) }

/-! ### Backing (R59) and snapshots (R296). -/

/-- The backing pages of a persistent tile: the 18 after the scratch pages and the persistent tiles below it. -/
def Workgroup.tilePages (g : Workgroup) (d : Desc) (t : Nat) : List Nat :=
  let k := ((List.range t).filter (fun i => d.persist.getLsbD i)).length
  (g.backing.drop (d.scratch + 18 * k)).take 18

/-- The contents of a tile as one number, row by row. -/
def Workgroup.tileBytes (g : Workgroup) (t : Nat) : Nat :=
  pack 32 ((List.range 96).flatMap (fun r => (g.row t r).map (fun x => x.toNat)))

/-- The keeper's test for a write of a tile (R296). -/
def State.checkKeeper (s : State) (t : Nat) : Chk Unit :=
  if !s.t.desc.persist.getLsbD t then .ok ()
  else match Tab.find s.g.keeper t with
    | some w => if w = s.w.warpId then .ok () else .error (0x1D6, matData t 3 w)
    | none => .ok ()

/-- A write of a tile: the first one after the keeper's mark makes the snapshot first (R296). -/
def State.tileWrite (s : State) (t : Nat) (next : State → Res) : Res :=
  if !s.t.desc.persist.getLsbD t then next s
  else
    let g := s.g
    let mine := { g with keeper := Tab.set g.keeper t s.w.warpId, written := addNat g.written t }
    if (Tab.find g.keeper t).isSome && g.written.contains t then next s
    else
      match s.writeBacking s.focus.core g.task (g.tilePages s.t.desc t) (g.tileBytes t) with
      | (.ok _, s) => next (s.setG { s.g with keeper := mine.keeper, written := mine.written })
      | (.error c, s) => .done (s.setG { s.g with broken := some c })

/-! ### MPROG (R287). -/

/-- The fields of the matrix configuration. -/
structure Mcfg where
  k : Nat
  fmt : Nat
  tb : Bool
  ascr : Bool
  bscr : Bool
  lda : Nat
  ldb : Nat

def Mcfg.of (x : Word64 × Word64) : Mcfg :=
  { k := bitsOf x.1.toNat 15 0 + 1, fmt := bitsOf x.1.toNat 17 16, tb := x.1.getLsbD 18, ascr := x.1.getLsbD 19,
    bscr := x.1.getLsbD 20, lda := bitsOf x.2.toNat 31 0, ldb := bitsOf x.2.toNat 63 32 }

/-- The element size of an operand format. -/
def Mcfg.es (m : Mcfg) : Nat := match m.fmt with | 0 => 1 | 3 => 4 | _ => 2

/-- The float format of the operands, and the block length in K. -/
def Mcfg.format (m : Mcfg) : Fmt := match m.fmt with | 0 => .e4m3 | 1 => .bf16 | 2 => .h16 | _ => .f32
def Mcfg.block (m : Mcfg) : Nat := match m.fmt with | 0 => 128 | 3 => 4 | _ => 32

/-- The blocks of K. -/
def Mcfg.blocks (m : Mcfg) : Nat := (m.k + m.block - 1) / m.block

/-- The lowest set bit of a number from bit `i` on, of `n`. -/
def lowBit (x : Nat) (i : Nat) : Nat → Option Nat
  | 0 => none
  | n + 1 => if bitOf x i then some i else lowBit x (i + 1) n

/-- MPROG: the lowest failing bit of the first word that fails. -/
def execMprog (o : OpR) (s : State) : Host.Outcome State Fault Refusal :=
  let a := s.S o.a
  let b := s.S o.b
  let es := (Mcfg.of (a, b)).es
  let bad1 := lowBit a.toNat 21 43
  let bad2 := match lowBit (b.toNat % es) 0 2 with
    | some i => some i
    | none => (lowBit (b.toNat / 2 ^ 32 % es) 0 2).map (32 + ·)
  (match bad1, bad2 with
  | some i, _ => Res.trap (s.setW { s.w with mcfg := none }) 0x1D1 (matData 0 4 i)
  | none, some i => .trap (s.setW { s.w with mcfg := none }) 0x1D1 (matData 0 5 i)
  | none, none => .done (s.setW { s.w with mcfg := some (a, b) })).out

/-! ### Reads of whole lines. -/

/-- The accesses that read the lines of a span, each named by a number of its own. `known` lines are left out. -/
def lineReqs (scr : Bool) (known : Nat → Bool) (lo n : Nat) : List LaneReq :=
  if n = 0 then []
  else (List.range' (lo / 128) ((lo + n - 1) / 128 + 1 - lo / 128)).filterMap (fun l =>
    let key := 2 * l + bit scr
    if known key then none
    else some { lane := key, va := 128 * l, op := .read 128, scr := scr, told := some (max lo (128 * l)) })

/-- Accesses without a second one of the same line. -/
def dedupReqs (rs : List LaneReq) : List LaneReq :=
  rs.foldl (fun acc r => if acc.any (fun q => q.lane = r.lane) then acc else acc ++ [r]) []

/-- `n` bytes at an address, from the lines that a flight has read. -/
def Flight.bytesAt (fl : Flight) (scr : Bool) (a n : Nat) : Nat :=
  Tab.get fl.got 0 (2 * (a / 128) + bit scr) / 2 ^ (8 * (a % 128)) % 2 ^ (8 * n)

/-! ### MSCL (R289). -/

/-- The lines of an image. -/
def imageReqs (scr : Bool) (a n : Nat) : List LaneReq :=
  (linePieces a (4 * n + 2) (512 * n)).map (fun e => { lane := e.1, va := e.1, op := .read e.2, scr := scr })

/-- The scale columns of a tile take the image that a flight has read. -/
def State.putScales (s : State) (t first n a : Nat) (fl : Flight) : State :=
  let image := (linePieces a (4 * n + 2) (512 * n)).foldr (fun e acc => Tab.get fl.got 0 e.1 + 2 ^ (8 * e.2) * acc) 0
  let cols := (List.range n).foldl (fun cs i =>
    let col := (List.range 128).map (fun j => BitVec.ofNat 32 (image / 2 ^ (4096 * i + 32 * j)))
    Tab.set cs (8 * t + first + i) col) s.g.scales
  s.setG { s.g with scales := cols }

/-- MSCL: its checks and reads, and, once every read has been performed, the scale columns. A pager's hold begins the
image again. -/
def State.mscl (s : State) (o : OpR) : Res :=
  let t := o.d.toNat % 4
  let a := (s.S o.a).toNat
  let b := (s.S o.b).toNat
  let first := bitsOf b 2 0
  let n := bitsOf b 6 3
  let image := imageReqs o.m a n
  let fresh : Flight := { type := 5, plain := true, free := true, whole := image, reqs := image }
  let begin_ : Chk Flight :=
    if a % 64 != 0 then .error (0x0A0, alignData o.a (s.S o.a))
    else if n = 0 || 8 < n || 8 < first + n || b / 2 ^ 7 != 0 then .error (0x1D7, matData t 2 b)
    else if o.m then match hullOut (some (a, a + 512 * n)) s.window with
      | some x => .error (0x125, w64 x)
      | none => .ok fresh
    else .ok fresh
  s.runFlight begin_ false (fun s fl => .done (s.putScales t first n a fl))

/-- MSCL (R289). -/
def execMscl (o : OpR) (s : State) : Host.Outcome State Fault Refusal := ((s.noteTile (o.d.toNat % 4)).mscl o).out

/-- The scale entries are written once every read of the image has completed (R289). -/
def execMsclScaleWrite (f : FragRef) (s : State) : Host.Outcome State Fault Refusal :=
  let x := s.frag f.core f.slot f.frag
  match x.words.head?, x.flight with
  | some w, some fl => match w.instr with
    | .mscl o =>
      if fl.reqs.isEmpty && fl.fault.isNone then
        let s := s.focusOn f.core f.slot f.frag
        let a := (s.S o.a).toNat
        let b := (s.S o.b).toNat
        let s := s.putScales (o.d.toNat % 4) (bitsOf b 2 0) (bitsOf b 6 3) a fl
        .next (s.setF s.f.finishWord)
      else .next s
    | _ => .next s
  | _, _ => .next s

/-! ### MMA (R290 to R295). -/

/-- The row and column offset of a gang part (R292). -/
def State.gangOffset (s : State) (on : Bool) : Nat × Nat :=
  if !on then (0, 0)
  else if s.t.gang = 2 then (0, 192 * (s.g.rank % 2))
  else (96 * (s.g.rank / 2), 192 * (s.g.rank % 2))

/-- What an MMA works on: its configuration, tile, operands, offsets and first scale column. -/
structure Mma where
  m : Mcfg
  t : Nat
  a : Nat
  b : Nat
  ro : Nat
  co : Nat
  scol : Nat

def Mma.aAddr (x : Mma) (r k : Nat) : Nat := x.a + (x.ro + r) * x.m.lda + k * x.m.es
def Mma.bAddr (x : Mma) (k c : Nat) : Nat :=
  if x.m.tb then x.b + (x.co + c) * x.m.ldb + k * x.m.es else x.b + k * x.m.ldb + (x.co + c) * x.m.es

/-- The indices of K block `i` that lie below K. -/
def Mma.ks (x : Mma) (i : Nat) : List Nat := List.range' (i * x.m.block) (min x.m.block (x.m.k - i * x.m.block))

/-- The checks of R291, in order; the persistent tile's keeper last. -/
def State.checkMma (s : State) (x : Mma) (gang : Bool) : Chk Unit :=
  let rows := s.tileRows
  let m := x.m
  let hullA := (x.aAddr (rows.headD 0) 0, x.aAddr (rows.getLastD 0) m.k)
  let hullB := (x.bAddr 0 0, if m.tb then x.bAddr m.k 191 else x.bAddr (m.k - 1) 192)
  let out (on : Bool) (h : Nat × Nat) : Option Int := if on then hullOut (some (h.1, h.2)) s.window else none
  if (m.fmt = 0 && 8 < x.scol + m.blocks) || (m.fmt != 0 && x.scol != 0) then
    .error (0x1D2, matData x.t 2 (x.scol + m.blocks))
  else if gang && s.t.gang = 1 then .error (0x1D3, matData x.t 3 0)
  else if x.a % m.es != 0 then .error (0x1D5, matData x.t 0 x.a)
  else if x.b % m.es != 0 then .error (0x1D5, matData x.t 1 x.b)
  else match out m.ascr hullA, out m.bscr hullB with
    | some h, _ => .error (0x125, w64 h)
    | none, some h => .error (0x125, w64 h)
    | none, none => s.checkKeeper x.t

/-- The control step (R293): ZERO, or DECAY by γ, of the selected rows. -/
def State.mmaControl (s : State) (x : Mma) (ctl : Nat) (gamma : Nat) : State :=
  let f (_ : Nat) (xs : List Word32) : List Word32 :=
    match ctl with
    | 1 => xs.map (fun _ => 0)
    | 2 => xs.map (fun v => BitVec.ofNat 32 (Fmt.f32.round ((Fmt.f32.val gamma).mul (Fmt.f32.val v.toNat)) .rn false))
    | _ => xs
  if ctl = 0 then s else s.setG (s.g.mapRows x.t s.tileRows f)

/-- The reads of block `i` that a flight has not made yet. -/
def State.mmaReads (s : State) (x : Mma) (fl : Flight) (i : Nat) : List LaneReq :=
  let known (k : Nat) : Bool := (Tab.find fl.got k).isSome
  let ks := x.ks i
  let k0 := ks.headD 0
  let n := ks.length
  let a := s.tileRows.flatMap (fun r => lineReqs x.m.ascr known (x.aAddr r k0) (n * x.m.es))
  let b := if x.m.tb then (List.range 192).flatMap (fun c => lineReqs x.m.bscr known (x.bAddr k0 c) (n * x.m.es))
    else ks.flatMap (fun k => lineReqs x.m.bscr known (x.bAddr k 0) (192 * x.m.es))
  dedupReqs (a ++ b)

/-- Block `i` applied to the selected rows: one exact sum and one rounding per element (R150, R151, R293). -/
def State.mmaBlock (s : State) (x : Mma) (fl : Flight) (i : Nat) : State :=
  let m := x.m
  let ks := x.ks i
  let val (scr : Bool) (a : Nat) : FVal := m.format.val (fl.bytesAt scr a m.es)
  let pad : List FVal := List.replicate (m.block - ks.length) (.fin false 0 0)
  let bs : List (List FVal) := (List.range 192).map (fun c => ks.map (fun k => val m.bscr (x.bAddr k c)))
  let scale (j : Nat) : FVal := Fmt.f32.val (s.g.scale x.t (x.scol + i) j).toNat
  let row (r : Nat) (ts : List Word32) : List Word32 :=
    let as := ks.map (fun k => val m.ascr (x.aAddr r k))
    (List.zip (List.range 192) (List.zip bs ts)).map (fun e =>
      let p := FVal.sum (List.zipWith FVal.mul as e.2.1 ++ pad) .rn
      let p := if m.fmt = 0 then p.mul ((scale r).mul (scale (96 + ((x.co + e.1) / 128 - x.co / 128)))) else p
      BitVec.ofNat 32 (Fmt.f32.round (FVal.sum [Fmt.f32.val e.2.2.toNat, p] .rn) .rn false))
  s.setG (s.g.mapRows x.t s.tileRows row)

/-- The blocks from MP on, each applied as soon as its lines have been read; `n` bounds them. -/
def State.mmaBlocks (s : State) (x : Mma) : Nat → Flight → Res
  | 0, _ => .done s
  | n + 1, fl =>
    let i := fl.step.getD 1 - 1
    if x.m.blocks ≤ i then .done s
    else
      let fl := if fl.reqs.isEmpty && fl.fault.isNone then { fl with reqs := s.mmaReads x fl i } else fl
      match s.fly (fl.reqs.length + 1) fl with
      | .done s =>
        let fl := { s.f.flight.getD {} with step := some (i + 2) }
        (s.landed.mmaBlock x fl i).mmaBlocks x n fl
      | r => r

/-- The blocks from MP on whose lines have all been read are applied, in order; `n` bounds them. -/
def State.mmaApply (s : State) (x : Mma) : Nat → Flight → State × Flight
  | 0, fl => (s, fl)
  | n + 1, fl =>
    let i := fl.step.getD 1 - 1
    if x.m.blocks ≤ i || fl.fault.isSome || !(s.mmaReads x fl i).isEmpty then (s, fl)
    else (s.mmaBlock x fl i).mmaApply x n { fl with step := some (i + 2) }

/-- The lines of every block from MP on that are still to be read. -/
def State.mmaPool (s : State) (x : Mma) (fl : Flight) : List LaneReq :=
  let i := fl.step.getD 1 - 1
  dedupReqs ((List.range' i (x.m.blocks - i)).flatMap (s.mmaReads x fl))

/-- The blocks from MP on, in a step that serves all lanes one after the other; in another one a line of any of them is read, since
their reads are unordered (R294, R326). -/
def State.mmaGo (s : State) (x : Mma) (fl : Flight) : Res :=
  let n := x.m.blocks + 1
  if s.whole then s.mmaBlocks x n fl
  else
    let fl := if fl.reqs.isEmpty && fl.fault.isNone then { fl with reqs := s.mmaPool x fl } else fl
    match s.fly (fl.reqs.length + 1) fl with
    | .done s => .done (s.landed.mmaApply x n (s.f.flight.getD {})).1
    | .wait s p =>
      let (s, fl) := s.mmaApply x n (s.f.flight.getD {})
      .wait (s.setF { s.f with flight := some fl }) p
    | r => r

/-- The end of a matrix word: its flight and its progress are cleared (R295). -/
def State.endRows (s : State) : State :=
  let p := s.w.progress
  let s := s.landed
  if p.pc = s.f.pc && p.pos = s.focus.pos then s.setW { s.w with progress := {} } else s

/-- MP with which a matrix word begins: that of the trapped execution after a TRET that resumes at it, else 0. -/
def State.firstStep (s : State) : Nat :=
  let p := s.w.progress
  if p.armed && p.pc = s.f.pc && p.pos = s.focus.pos then p.mp else 0

/-- MMA (R293). -/
def State.mma (s : State) (o : OpR) : Res :=
  let t := o.d.toNat % 4
  match s.w.mcfg with
  | none => .trap s 0x1D0 (matData t Config.mcfgItem.val 0)
  | some cfg =>
    let gang := o.sub.getLsbD 2
    let off := s.gangOffset gang
    let x : Mma := { m := Mcfg.of cfg, t := t, a := (s.S o.a).toNat, b := (s.S o.b).toNat, ro := off.1, co := off.2,
                     scol := o.xm.toNat % 8 }
    let run (s : State) (fl : Flight) : Res := (s.mmaGo x fl).bind (fun s => .done s.endRows)
    match s.f.flight with
    | some fl => run s fl
    | none => (s.checkMma x gang).run s (fun _ =>
        let fl : Flight := { type := 5, plain := true, free := true, step := some (max 1 s.firstStep) }
        if s.firstStep = 0 then
          s.tileWrite t (fun s => run (s.mmaControl x (o.sub.toNat % 4) ((s.S o.creg).toNat % 2 ^ 32)) fl)
        else run s fl)

/-- MMA (R290 to R295). -/
def execMma (o : OpR) (s : State) : Host.Outcome State Fault Refusal := ((s.noteTile (o.d.toNat % 4)).mma o).out

/-! ### MRD, MWR, MZERO (R298, R299). -/

/-- Whether an index names a slab and a column. -/
def slabOk (idx : Nat) : Bool := idx / 256 < 3 && idx % 256 < 192

/-- MRD (R298): the words of a slab in the column `idx` of the tile, in the lanes of the fragment. -/
def State.mrd (s : State) (d t idx : Nat) : Res :=
  let s := s.noteTile t
  .done (s.putLanes 0 d s.active (fun i => ⟨(s.g.row t (32 * (idx / 256) + i)).getD (idx % 256) 0, .f32⟩))

/-- MWR (R298): the lanes of the fragment write their words of a slab. -/
def State.mwr (s : State) (t a idx : Nat) : Res :=
  let s := s.noteTile t
  let check : Chk Unit := do
    let _ ← s.checkTag a 0 (· == .f32)
    s.checkKeeper t
  check.run s (fun _ => s.tileWrite t (fun s =>
    .done (s.setG ((lanesOf s.active).foldl (fun g i =>
      let r := 32 * (idx / 256) + i
      g.setRow t r ((g.row t r).set (idx % 256) (s.V a i).val)) s.g))))

/-- MAT_INDEX (R298, R301). -/
def indexFault (t : Nat) (idx : Nat) : Chk Unit :=
  if slabOk idx then .ok () else .error (0x1D4, matData t 3 (min idx (2 ^ 32 - 1)))

def execMrdR (o : OpR) (s : State) : Host.Outcome State Fault Refusal :=
  let t := o.a.toNat % 4
  let idx := (s.S o.b).toNat
  ((indexFault t idx).run s (fun _ => s.mrd o.d.toNat t idx)).out
def execMrdI (o : OpI) (s : State) : Host.Outcome State Fault Refusal :=
  (s.mrd o.d.toNat (o.a.toNat % 4) o.immN).out
def execMwrR (o : OpR) (s : State) : Host.Outcome State Fault Refusal :=
  let t := o.d.toNat % 4
  let idx := (s.S o.b).toNat
  ((indexFault t idx).run s (fun _ => s.mwr t o.a.toNat idx)).out
def execMwrI (o : OpI) (s : State) : Host.Outcome State Fault Refusal :=
  (s.mwr (o.d.toNat % 4) o.a.toNat o.immN).out

/-- MZERO (R299). -/
def execMzero (o : OpR) (s : State) : Host.Outcome State Fault Refusal :=
  let t := o.d.toNat % 4
  let s := s.noteTile t
  ((s.checkKeeper t).run s (fun _ => s.tileWrite t (fun s =>
    .done (s.setG (s.g.mapRows t s.tileRows (fun _ xs => xs.map (fun _ => 0))))))).out

/-! ### MST (R300). -/

/-- The stored bytes of a row. -/
def State.storedRow (s : State) (t r : Nat) (bf : Bool) : Nat :=
  if bf then pack 16 ((s.g.row t r).map (fun v => Fmt.bf16.round (Fmt.f32.val v.toNat) .rn false))
  else pack 32 ((s.g.row t r).map (fun v => v.toNat))

/-- The writes of a row, one per line. -/
def rowReqs (scr : Bool) (a n v : Nat) : List LaneReq :=
  (linePieces a (n / 128 + 2) n).map (fun e =>
    { lane := e.1, va := e.1, op := .write e.2 (v / 2 ^ (8 * (e.1 - a)) % 2 ^ (8 * e.2)), scr := scr })

/-- The selected rows from MP on, one after the other; `n` bounds them. -/
def State.mstRows (s : State) (t : Nat) (bf scr : Bool) (addr : Nat → Nat) : Nat → Flight → Res
  | 0, _ => .done s
  | n + 1, fl =>
    let i := fl.step.getD 0
    match s.tileRows[i]? with
    | none => .done s
    | some r =>
      let es := if bf then 2 else 4
      let fl := match fl.pool with
        | none => if fl.reqs.isEmpty && fl.fault.isNone then
            { fl with reqs := rowReqs scr (addr r) (192 * es) (s.storedRow t r bf) } else fl
        | some p =>
          let all := fl.reqs ++ p
          { fl with reqs := all.filter (fun q => q.pg = i), pool := some (all.filter (fun q => q.pg != i)) }
      match s.fly (fl.reqs.length + 1) fl with
      | .done s => s.landed.mstRows t bf scr addr n { s.f.flight.getD {} with step := some (i + 1), got := [] }
      | r => r

/-- The writes of the rows from MP on that are still to be made, each numbered by its row. -/
def State.mstPool (s : State) (t : Nat) (bf scr : Bool) (addr : Nat → Nat) (fl : Flight) : List LaneReq :=
  let es := if bf then 2 else 4
  let i := fl.step.getD 0
  let rows (i : Nat) : List LaneReq := (List.zip s.tileRows (List.range 96)).drop i |>.flatMap (fun e =>
    (rowReqs scr (addr e.1) (192 * es) (s.storedRow t e.1 bf)).map (fun q => { q with pg := e.2 }))
  match fl.pool with
  | some p => fl.reqs ++ p
  | none => if fl.reqs.isEmpty then rows i else fl.reqs.map (fun q => { q with pg := i }) ++ rows (i + 1)

/-- Whether a write of an MST must come after another one: it may reach a byte of it, and stands in a later row (R300). -/
def State.rowBlocks (s : State) (scr : Bool) (p q : LaneReq) : Bool :=
  p.pg < q.pg && if scr then sameOffsets p.va q.va (max p.op.size q.op.size) else s.maySame s.die p.va q.va (max p.op.size q.op.size)

/-- The writes of an MST: in a step that serves all lanes row by row; in another one any write that comes after none of the others
(R300, R326). MP counts the rows of which no write is left. -/
def State.mstGo (s : State) (t : Nat) (bf scr : Bool) (addr : Nat → Nat) (fl : Flight) : Res :=
  if s.whole || fl.fault.isSome then s.mstRows t bf scr addr 97 fl
  else
    let all := s.mstPool t bf scr addr fl
    let bound := all.filter (fun q => all.any (fun p => s.rowBlocks scr p q))
    let fl := { fl with
      reqs := all.filter (fun q => !bound.contains q), pool := some bound
      step := some (all.foldl (fun m q => min m q.pg) (if all.isEmpty then 96 else (all.headD default).pg)) }
    match s.fly (fl.reqs.length + 1) fl with
    | .done s => if bound.isEmpty then .done s.landed
      else .wait (s.setF { s.f with flight := some { s.f.flight.getD {} with reqs := [], got := [] } }) .busy
    | r => r

/-- MST. -/
def execMst (o : OpR) (s : State) : Host.Outcome State Fault Refusal :=
  let t := o.d.toNat % 4
  let s := s.noteTile t
  let a := (s.S o.a).toNat
  let stride := (s.S o.b).toNat
  let scr := o.xm.getLsbD 0
  let gang := o.xm.getLsbD 1
  let es := if o.m then 2 else 4
  let off := s.gangOffset gang
  let addr (r : Nat) : Nat := a + (off.1 + r) * stride + off.2 * es
  let rows := s.tileRows
  let check : Chk Unit :=
    if gang && s.t.gang = 1 then .error (0x1D3, matData t 3 0)
    else if a % es != 0 then .error (0x1D5, matData t 3 a)
    else if stride % es != 0 then .error (0x1D5, matData t 3 stride)
    else if scr then match hullOut (some (addr (rows.headD 0), addr (rows.getLastD 0) + 192 * es)) s.window with
      | some h => .error (0x125, w64 h)
      | none => .ok ()
    else .ok ()
  let run (s : State) (fl : Flight) : Res := (s.mstGo t o.m scr addr fl).bind (fun s => .done s.endRows)
  (match s.f.flight with
  | some fl => run s fl
  | none => check.run s (fun _ =>
      let fl : Flight := { type := 5, plain := true, free := true, commits := !scr, step := some s.firstStep }
      run (s.begun false fl (s.mstPool t o.m scr addr fl)) fl)).out

end Sys2Proof.Machine
end

