-- ==== Sys2Proof/Machine/Spinel.lean ====
section
/-! DEFINITION. The Spinel search-tree engine (R302 to R319). A tree instruction is carried out access by access; a
step that serves all lanes does everything that it can. -/

namespace Sys2Proof.Machine

/-! ### Nodes, descriptors and the engine's state. -/

/-- NONE of a node index (R305). -/
def noNode : Nat := 2 ^ 32 - 1

def nodeN (v : Nat) : Nat := bitsOf v 31 0
def nodeVl (v : Nat) : Nat := bitsOf v 47 32
def nodeNch (v : Nat) : Nat := bitsOf v 55 48
def nodeExp (v : Nat) : Bool := bitOf v 56
def nodeTerm (v : Nat) : Bool := bitOf v 57
def nodePend (v : Nat) : Bool := bitOf v 58
def nodeChild (v : Nat) : Nat := bitsOf v 223 192
def nodeAct (v : Nat) : Nat := bitsOf v 191 160

/-- The descriptor's fields by byte offset (R307). -/
def descWord (v off : Nat) : Nat := v / 2 ^ (8 * off) % 2 ^ 32

/-- TRAPDATA of the tree causes (R319). -/
def treeData (value depth : Nat) : Word64 := BitVec.ofNat 64 (value % 2 ^ 32 + depth % 256 * 2 ^ 32)

def State.spinel (s : State) : Spinel := (s.device s.die).spinel
def State.setSpinel (s : State) (d : Nat) (x : Spinel) : State := s.setDevice d { s.device d with spinel := x }
def State.ctx (s : State) (i : Nat) : TreeCtx := Tab.get s.spinel.ctxs {} i
def State.setCtx (s : State) (i : Nat) (x : TreeCtx) : State :=
  s.setSpinel s.die { s.spinel with ctxs := Tab.set s.spinel.ctxs i x }
def State.slot (s : State) (i : Nat) : PathSlot := Tab.get s.spinel.slots {} i
def State.setSlot (s : State) (i : Nat) (x : PathSlot) : State :=
  s.setSpinel s.die { s.spinel with slots := Tab.set s.spinel.slots i x }

/-- Frees a path slot; its generation stays. -/
def State.freeSlot (s : State) (i : Nat) : State := s.setSlot i { gen := (s.slot i).gen }

/-- The path slots that a tree holds. -/
def State.slotsOf (s : State) (ctx : Nat) : Nat :=
  (s.spinel.slots.filter (fun e => e.2.held && e.2.ctx = ctx)).length

/-- The handle of a slot (R311). -/
def PathSlot.handle (x : PathSlot) (i : Nat) : Nat := i + x.gen % 1024 * 64

/-- The depth of a slot's leaf, and the leaf. -/
def PathSlot.depth (x : PathSlot) : Nat := x.path.length - 1
def PathSlot.leaf (x : PathSlot) : Nat := x.path.getLastD 0

/-- The context that a tree handle names (R308). -/
def State.treeOf (s : State) (h : Word64) : Chk Nat :=
  let v := h.toNat % 2 ^ 32
  let x := s.ctx (v % 16)
  if bitsOf v 15 4 != 0 || !x.bound || x.gen != v / 2 ^ 16 then .error (0x200, treeData v 0) else .ok (v % 16)

/-- The slot that a slot reference names (R311). -/
def State.slotRef (s : State) (r : Word64) : Chk Nat :=
  let h := bitsOf r.toNat 47 32
  let x := s.slot (h % 64)
  if !x.held || x.gen % 1024 != h / 64 then .error (0x201, treeData h 0) else .ok (h % 64)

/-! ### Accesses of the engine (R303). -/

/-- The engine's actor for the fragment in focus. -/
def State.treeActor (s : State) : Actor :=
  { party := .spinel s.die, dev := s.die, task := some s.g.task, type := 6, waiter := .lane s.focusRef 64 }

/-- The engine's actor for a reclaim walk. -/
def walkActor (d i task : Nat) : Actor :=
  { party := .spinel d, dev := d, task := some task, type := 6, waiter := .engine (192 + d) i }

def TreeCtx.node (x : TreeCtx) (i : Nat) : Nat := x.pool + 64 * i

/-- The fragment in focus as the holder of a tree's lock. -/
def State.me (s : State) : Nat × Nat × Nat := (s.focus.core, s.focus.slot, s.focus.frag)

/-- Whether the appends, allocations and frees of a tree wait for those of another fragment or of the reclaim walk (R304). -/
def State.treeHeld (s : State) (x : TreeCtx) (me : Nat × Nat × Nat) : Bool :=
  match x.lock with
  | none => false
  | some (c, k, f) => (c, k, f) != me &&
      if 192 ≤ c then x.walk.isSome && x.freeing.isSome
      else ((s.frag c k f).flight.bind (fun fl => fl.tree)).isSome

/-- What the tree word of a fragment works on while it is under way: a context, or the path slot that a reference names (R308, R311). -/
def State.treeUse (s : State) (c k f : Nat) : Option (Instr × Nat) :=
  let x := s.frag c k f
  match x.flight.bind (fun fl => fl.tree), x.words with
  | some _, d :: _ =>
    let on := s.focusOn c k f
    let ctx (a : BitVec 6) : Option (Instr × Nat) := some (d.instr, (on.S a).toNat % 16)
    let slot (a : BitVec 6) : Option (Instr × Nat) := some (d.instr, bitsOf (on.S a).toNat 47 32 % 64)
    match d.instr with
    | .tsbind o => if o.m then ctx o.a else none
    | .tsroot o => ctx o.a
    | .tsexp o => slot o.a
    | .tsback o => slot o.a
    | _ => none
  | _, _ => none

/-- The tree words that another fragment of the die has under way. -/
def State.treeUses (s : State) : List (Instr × Nat) :=
  (coresOf s.die).flatMap (fun c => (s.core c).warps.flatMap (fun e => e.2.frags.filterMap (fun g =>
    if (c, e.1, g.1) == s.me then none else s.treeUse c e.1 g.1)))

/-- Whether another fragment's release or re-rooting of a tree is under way: a word that would begin on the tree waits for it. -/
def State.ctxTaken (s : State) (i : Nat) : Bool := s.treeUses.any (fun e => e.2 = i && match e.1 with
  | .tsbind _ => true
  | .tsroot _ => true
  | _ => false)

/-- Whether another fragment's TSEXP or TSBACK of a path slot is under way: a second one waits for it. -/
def State.slotTaken (s : State) (k : Nat) : Bool := s.treeUses.any (fun e => e.2 = k && match e.1 with
  | .tsexp _ => true
  | .tsback _ => true
  | _ => false)

/-- The fragment in focus begins, or has ended, an allocation, a free or an append of a tree. -/
def State.lockTree (s : State) (i : Nat) : State := s.setCtx i { s.ctx i with lock := some s.me }
def State.unlockTree (s : State) (i : Nat) : State := s.setCtx i { s.ctx i with lock := none }

/-- The accesses that free a block of `g` granules (R306), in order: the descriptor is read for the list's head, the block's
CHILD takes the head, and the block becomes the head. -/
def TreeCtx.freeOp (x : TreeCtx) (blk g k head : Nat) : Nat × MemOp :=
  match k with
  | 0 => (x.addr, .read 128)
  | 1 => (x.node blk + 24, .write 4 head)
  | _ => (x.addr + 64 + 4 * (g - 1), .write 4 blk)

/-- The list head that the first of them has read. -/
def freeHead (g k v head : Nat) : Nat := if k = 0 then descWord v (64 + 4 * (g - 1)) else head

/-! ### The score (R310). -/

def r32 (x : FVal) : Nat := Fmt.f32.round x .rn false
def v32 (x : Nat) : FVal := Fmt.f32.val x

/-- The score of a child, given the rounded root of N(p). -/
def score (x : TreeCtx) (r : Nat) (v : Nat) : FVal :=
  let vl := nodeVl v
  let n := nodeN v + vl
  let w : FVal := match FVal.ofInt (signedOf 64 (bitsOf v 127 64)) with
    | .fin neg m e => .fin neg m (e - 32)
    | y => y
  let q := if n = 0 then x.fpu.toNat
    else
      let d := r32 (FVal.sum [w, ((FVal.ofInt vl).mul (v32 x.vlv.toNat)).neg] .rn)
      r32 ((v32 d).div (FVal.ofInt n))
  let u := r32 ((v32 x.c.toNat).mul (v32 (bitsOf v 159 128)))
  let u := r32 ((v32 u).mul (v32 r))
  let u := r32 ((v32 u).div (FVal.ofInt (1 + n)))
  v32 (r32 (FVal.sum [v32 q, v32 u] .rn))

/-- Whether a score is greater than another; a NaN is below every other score. -/
def better (a b : FVal) : Bool := if a.isNan then false else b.isNan || decide (0 < FVal.cmp a b)

/-- The index of the greatest score, the lowest among equals. -/
def bestOf : List FVal → Nat
  | [] => 0
  | x :: xs => ((List.range xs.length).foldl (fun (b : Nat × FVal) i =>
      let y := xs.getD i .nan
      if better y b.2 then (i + 1, y) else b) (0, x)).1

/-! ### One access of an instruction. -/

/-- What follows one access of a tree instruction. -/
inductive Micro where
  | go (s : State) (st : TreeStage)
  | done (s : State) (v : Word64)
  | trap (s : State) (cause : BitVec 10) (data : Word64)
  | wait (s : State) (p : Park)
  deriving Inhabited

/-- The stage after an access, or what stopped it; `fail` takes a cause that ends the instruction. -/
def Acc.micro (r : Acc) (s : State) (va : Nat) (next : Nat → Micro) (fail : BitVec 10 → Word64 → Micro) : Micro :=
  match r with
  | .ok v => next v
  | .fault c => fail c (BitVec.ofNat 64 va)
  | .pager h => .wait s (.pager h)
  | .stall p => .wait s (.reclass p)
  | .remote i => .wait s (.peer i)

/-- Whether an access has not ended yet. -/
def Acc.waits : Acc → Bool
  | .ok _ => false
  | .fault _ => false
  | _ => true

/-- A trap of a descent undoes it first (R312). -/
def State.descFail (s : State) (slot : Nat) (pend : Bool) (c : BitVec 10) (d : Word64) : Micro :=
  .go s (.undo slot (s.slot slot).path.length pend c d)

/-- The end of a descent with a status (R312). -/
def State.descEnd (s : State) (slot st : Nat) : Micro :=
  let x := s.slot slot
  let s := s.setSlot slot { x with status := st, progress := some x.depth }
  .done s (BitVec.ofNat 64 (x.leaf + x.handle slot * 2 ^ 32 + x.depth * 2 ^ 48 + st * 2 ^ 56))

/-- The Perform on a node of a descent (R312). -/
def State.visitNode (s : State) (slot x : Nat) : Micro :=
  let p := s.slot slot
  let t := s.ctx p.ctx
  let d := p.path.length
  if t.nodes ≤ x then s.descFail slot false 0x204 (treeData x d)
  else
    let (r, s) := s.access s.treeActor none (t.node x) (.node (.visit (d < 128)))
    r.micro s (t.node x) (fun old =>
      let s := s.setSlot slot { s.slot slot with path := p.path ++ [x] }
      if nodeTerm old then s.descEnd slot 1
      else if !nodeExp old then
        if nodePend old then s.descEnd slot 2
        else if d = 128 then s.descEnd slot 3
        else .go s (.descEntry slot (nodeAct old))
      else if d = 128 then s.descEnd slot 3
      else if nodeNch old = 0 || 64 < nodeNch old then s.descFail slot false 0x204 (treeData x d)
      else if t.nodes < nodeChild old + nodeNch old then
        s.descFail slot false 0x204 (treeData (max t.nodes (nodeChild old)) (d + 1))
      else .go s (.descKids slot (nodeN old) (nodeChild old) (nodeNch old)))
      (fun c v => s.descFail slot false c v)

/-- Of the accesses that are left, those that this step makes: all, or the one that it names by its place. -/
def State.pickOf (s : State) (todo : List Nat) : List Nat :=
  if s.whole then todo else (todo[s.focus.lanes.toNat % todo.length]?).toList

/-- The reads of a node's children, unordered among themselves, and the choice (R310, R312). -/
def State.readKids (s : State) (slot n child nch : Nat) : Micro :=
  let p := s.slot slot
  let t := s.ctx p.ctx
  let a := s.treeActor
  let fl := s.f.flight.getD {}
  let mine := s.pickOf ((List.range nch).filter (fun i => (Tab.find fl.got i).isNone))
  let rec go (s : State) (got : Tab Nat) : List Nat → State × Tab Nat × Option (Acc × Nat)
    | [] => (s, got, none)
    | i :: is =>
      match s.access { a with waiter := .lane s.focusRef (65 + i) } none (t.node (child + i)) (.read 64) with
      | (.ok v, s) => go s (Tab.set got i v) is
      | (r, s) => (s, got, some (r, t.node (child + i)))
  let (s, got, stop) := go s fl.got mine
  match stop with
  | some (r, va) => r.micro (s.setF { s.f with flight := some { fl with got := got } }) va
      (fun _ => .wait s .busy) (fun c v => s.descFail slot false c v)
  | none =>
    if got.length = nch then
      let s := s.setF { s.f with flight := some { fl with got := [] } }
      let r := r32 (FVal.sqrt (FVal.ofInt n))
      let best := bestOf ((List.range nch).map (fun i => score t r (Tab.get got 0 i)))
      -- a wrong score, which no check finds, chooses another child (R384)
      .go s (.descNode slot (child + match s.upset with | some (.wrong m) => m.toNat % nch | _ => best))
    else .wait (s.setF { s.f with flight := some { fl with got := got } }) .busy

/-- The read of ROOT, once the slot is taken (R312). -/
def State.rootOf (s : State) (slot : Nat) : Micro :=
  let t := s.ctx (s.slot slot).ctx
  let (r, s) := s.access s.treeActor none t.addr (.read 128)
  r.micro s t.addr (fun v => .go s (.descNode slot (descWord v 12))) (fun c v => s.descFail slot false c v)

/-- The steps of an append (R313), under the tree's lock. -/
def State.appendStep (s : State) (st : TreeStage) : Micro :=
  let run (slot : Nat) (s : State) (va : Nat) (op : MemOp) (next : State → Nat → Micro) : Micro :=
    let (r, s) := s.access s.treeActor none va op
    r.micro s va (next s) (fun c v => (s.unlockTree (s.slot slot).ctx).descFail slot true c v)
  match st with
  | .descEntry slot act =>
    let p := s.slot slot
    let t := s.ctx p.ctx
    if s.treeHeld t s.me then .wait s .busy
    else run slot (s.lockTree p.ctx) t.addr (.read 128) (fun s d =>
      let tail := descWord d 52
      if 2 ^ t.rlog ≤ (tail + 2 ^ 32 - descWord d 48) % 2 ^ 32 then .go (s.unlockTree p.ctx) (.descFull slot)
      else .go s (.descWrite slot act tail))
  | .descWrite slot act tail =>
    let p := s.slot slot
    let t := s.ctx p.ctx
    let entry := p.leaf + p.handle slot * 2 ^ 32 + p.depth * 2 ^ 48 + act * 2 ^ 64
    run slot s (t.rbase + 16 * (tail % 2 ^ t.rlog)) (.write 16 entry) (fun s _ => .go s (.descTail slot tail))
  | .descTail slot tail =>
    run slot s ((s.ctx (s.slot slot).ctx).addr + 52) (.write 4 (tail + 1)) (fun s _ => .go s (.descCount slot))
  | .descCount slot =>
    let p := s.slot slot
    let t := s.ctx p.ctx
    if t.rcw = 0 then (s.unlockTree p.ctx).descEnd slot 0
    else run slot s t.rcw.toNat (.cwAdd 1 true) (fun s _ => (s.unlockTree p.ctx).descEnd slot 0)
  | .descFull slot =>
    let p := s.slot slot
    let va := (s.ctx p.ctx).node p.leaf
    let (r, s) := s.access s.treeActor none va (.node .unpend)
    r.micro s va (fun _ => s.descEnd slot 4) (fun c v => s.descFail slot true c v)
  | _ => .wait s .busy

/-- The undoing of a descent, node by node, before its trap (R312). A node that cannot be reached is passed over. -/
def State.undoStep (s : State) (slot j : Nat) (pend : Bool) (c : BitVec 10) (d : Word64) : Micro :=
  match j with
  | 0 => .trap (s.freeSlot slot) c d
  | j + 1 =>
    let p := s.slot slot
    let va := (s.ctx p.ctx).node (p.path.getD j 0)
    let (r, s) := s.access s.treeActor none va (.node (.leave (pend && j = p.depth)))
    let next : Micro := .go s (.undo slot j pend c d)
    r.micro s va (fun _ => next) (fun _ _ => next)

/-- The granules of a block of `n` children (R306). -/
def granules (n : Nat) : Nat := (n + 7) / 8

/-- The i-th node of a new block (R306, R315): a child with its prior, or a free node. -/
def newNode (gen leaf n arr i : Nat) : Nat :=
  if i < n then gen * 2 ^ 60 + arr / 2 ^ (64 * i) % 2 ^ 64 * 2 ^ 128 + noNode * 2 ^ 192 + leaf * 2 ^ 224
  else noNode * 2 ^ 224

/-- The steps of an expansion after its array has been read (R315). Allocation and freeing hold the tree's lock. A trap while the
virtual losses are taken back restores those taken back already (R90). -/
def State.expStep (s : State) (slot n : Nat) (st : TreeStage) : Micro :=
  let p := s.slot slot
  let t := s.ctx p.ctx
  let g := granules n
  let a := s.treeActor
  let fl := s.f.flight.getD {}
  let arr := ((List.range 5).map (fun i => Tab.get fl.got 0 i)).foldr (fun x acc => x % 2 ^ 1024 + 2 ^ 1024 * acc) 0
  let leaf := t.node p.leaf
  -- an access under the lock: a failure ends the allocation with its trap
  let locked (s : State) (va : Nat) (op : MemOp) (next : State → Nat → Micro) : Micro :=
    let (r, s) := s.access a none va op
    r.micro s va (next s) (fun c v => .trap (s.unlockTree p.ctx) c v)
  match st with
  | .expAlloc =>
    if s.treeHeld t s.me then .wait s .busy
    else locked (s.lockTree p.ctx) t.addr (.read 128) (fun s d =>
      let gen := d / 2 ^ 224 % 16
      let head := descWord d (64 + 4 * (g - 1))
      let bump := descWord d 56
      if head != noNode then .go s (.expHead gen head)
      else if bump + 8 * g ≤ t.nodes then .go s (.expTake gen bump 56 (bump + 8 * g))
      else .go (s.unlockTree p.ctx) (.expUndo (p.depth + 1)))
  | .expHead gen head =>
    locked s (t.node head) (.read 64) (fun s v => .go s (.expTake gen head (64 + 4 * (g - 1)) (nodeChild v)))
  | .expTake gen blk off v =>
    locked s (t.addr + off) (.write 4 v) (fun s _ => .go (s.unlockTree p.ctx) (.expNodes blk gen 0))
  | .expNodes blk gen i =>
    if 8 * g ≤ i then .go s (.expLink blk)
    else
      let va := t.node (blk + i)
      let (r, s) := s.access a none va (.write 64 (newNode gen p.leaf n arr i))
      r.micro s va (fun _ => .go s (.expNodes blk gen (i + 1))) (fun c v => .go s (.expFree blk (some (c, v)) 0 0))
  | .expLink blk =>
    let (r, s) := s.access a none leaf (.node (.link blk n))
    r.micro s leaf (fun old => if nodeExp old || nodeTerm old then .go s (.expFree blk none 0 0) else .done s 0)
      (fun c v => .go s (.expFree blk (some (c, v)) 0 0))
  | .expFree blk after k head =>
    if k = 0 && s.treeHeld t s.me then .wait s .busy
    else
      let e := t.freeOp blk g k head
      let (r, s) := (s.lockTree p.ctx).access a none e.1 e.2
      let ends (s : State) (m : State → Micro) : Micro :=
        match after with
        | some (c, d) => .trap (s.unlockTree p.ctx) c d
        | none => m (s.unlockTree p.ctx)
      r.micro s e.1
        (fun v => if k < 2 then .go s (.expFree blk after (k + 1) (freeHead g k v head)) else ends s (fun s => .done s 1))
        (fun c v => ends s (fun s => .trap s c v))
  | .expUndo 0 => if p.status = 0 then .go s .expPend else .done (s.freeSlot slot) 2
  | .expUndo (j + 1) =>
    let va := t.node (p.path.getD j 0)
    let (r, s) := s.access a none va (.node (.leave false))
    r.micro s va (fun _ => .go s (.expUndo j)) (fun c v => .go s (.expRedo (j + 1) c v))
  | .expRedo j c d =>
    if p.depth < j then .trap s c d
    else
      let va := t.node (p.path.getD j 0)
      let (r, s) := s.access a none va (.node (.visit false))
      let next : Micro := .go s (.expRedo (j + 1) c d)
      r.micro s va (fun _ => next) (fun _ _ => next)
  | .expPend =>
    let (r, s) := s.access a none leaf (.node .unpend)
    r.micro s leaf (fun _ => .done (s.freeSlot slot) 2) (fun c v => .go s (.expRedo 0 c v))
  | _ => .wait s .busy

/-- One node of a backup (R316). -/
def State.backStep (s : State) (slot : Nat) (x : Word64) (rel : Bool) : Micro :=
  let p := s.slot slot
  let t := s.ctx p.ctx
  match p.progress with
  | none => .done (s.freeSlot slot) (BitVec.ofNat 64 (p.depth + 1))
  | some j =>
    let v := if (p.depth - j) % 2 = 0 then x else -x
    let va := t.node (p.path.getD j 0)
    let (r, s) := s.access s.treeActor none va (.node (.backup v (!rel) (j = p.depth && p.status = 0)))
    r.micro s va (fun _ =>
      let left := if j = 0 then none else some (j - 1)
      let s := s.setSlot slot { p with progress := left }
      if j = 0 then .done (s.freeSlot slot) (BitVec.ofNat 64 (p.depth + 1)) else .go s .back)
      (fun c d => .trap s c d)

/-- Whether a write of a node would pass translation and protection, without being made (R317): at its home, at the logical
device of this module that a peer window leads to, or, behind a window to another module, as far as a read of the node shows
it (log 75). -/
def State.probe (s : State) (a : Actor) (va : Nat) (op : MemOp) : Acc × State :=
  if 2 ^ 57 ≤ va then (.fault (BitVec.ofNat 10 (0x110 + a.type)), s)
  else match s.takeFailed a va with
    | (some c, s) => (.fault c, s.dropNear a.waiter)
    | (none, s) => match s.translate a va with
    | (.error, s) => (.fault (BitVec.ofNat 10 (0x108 + a.type)), s)
    | (.lost pa, s) => s.unreadable a pa va
    | (.host, s) => (.fault (BitVec.ofNat 10 (0x2B0 + a.type)), s)
    | (.full, s) => (.stall missPage, s)
    | (.absent pgr, s) => s.notPresent a.dev pgr va a true
    | (.leaf l, s) => match protection l va a.type op with
      | some c => (.fault c, s)
      | none =>
        if !l.peer then
          let pa := l.pa + va % 65536
          if s.lineLost pa op.size then s.unreadable a pa va else (.ok 0, s)
        else match s.importOf a.dev l with
          | none => (.fault (BitVec.ofNat 10 (0x118 + a.type)), s)
          | some e =>
            if !e.wr then (.fault (BitVec.ofNat 10 (0x160 + a.type)), s)
            else if e.rmod != s.io.mymod then s.accessLeaf a l va (.read op.size)
            else match s.targetLeaf e.rdev a (e.rbase + 65536 * l.ipage + va % 65536) op with
              | (.error r, s) => (r, s)
              | (.ok _, s) => (.ok 0, s)

/-- The steps of a re-rooting after its root is known (R317). -/
def State.rootStep (s : State) (i : Nat) (k : Nat) (reclaim : Bool) (st : TreeStage) : Micro :=
  let t := s.ctx i
  let a := s.treeActor
  let trap (s : State) (c : BitVec 10) (v : Word64) : Micro := .trap s c v
  match st with
  | .rootNode p =>
    let (r, s) := s.access a none (t.node p) (.read 64)
    r.micro s (t.node p) (fun old =>
      if !nodeExp old || nodeNch old ≤ k then .done s 2 else .go s (.rootProbe (nodeChild old) (nodeNch old))) (trap s)
  | .rootProbe child nch =>
    let (r, s) := s.probe a (t.node (child + k)) (.write 64 0)
    r.micro s (t.node (child + k)) (fun _ => .go s (.rootSwap child nch)) (trap s)
  | .rootSwap child nch =>
    let (r, s) := s.access a none t.addr (.node (.swap (child + k) child (granules nch)))
    r.micro s t.addr (fun old => .go s (.rootParent child nch (descWord old 60) (old / 2 ^ 776 % 16))) (trap s)
  | .rootParent child nch ob og =>
    let va := t.node (child + k)
    let (r, s) := s.access a none va (.node .orphan)
    r.micro s va (fun _ =>
      let others := ((List.range nch).filter (· != k)).map (fun j => (child + j, 0, false))
      let walk := (if ob = noNode then [] else [(ob, og, true)]) ++ others
      .done (if reclaim then s.setCtx i { s.ctx i with walk := some walk, task := s.g.task } else s) 0) (trap s)
  | _ => .wait s .busy

/-! ### Running an instruction. -/

/-- The stage that the flight of the fragment in focus has reached. -/
def State.stage (s : State) : Option TreeStage := s.f.flight.bind (fun fl => fl.tree)

def State.setStage (s : State) (st : TreeStage) : State :=
  let fl := s.f.flight.getD {}
  s.setF { s.f with flight := some { fl with tree := some st } }

/-- Runs stages from `st` on: at most `n`, or one where the step serves only some lanes. The result goes to sd. -/
def State.runTree (s : State) (d : BitVec 6) (step : State → TreeStage → Micro) : Nat → TreeStage → Res
  | 0, st => .wait (s.setStage st) .busy
  | n + 1, st =>
    match step (s.setStage st) st with
    | .done s v => .done ((s.setF { s.f with flight := none }).putS 0 d v)
    | .trap s c v => .trap (s.setF { s.f with flight := none }) c v
    | .wait s p => .wait s p
    | .go s st => if s.whole then s.runTree d step n st else .wait (s.setStage st) .busy

/-- Enough stages for any tree instruction. -/
def treeFuel : Nat := 1024

/-- The stages of an instruction that begins at `st`: all that it can take now where the step serves all lanes. -/
def State.startTree (s : State) (d : BitVec 6) (step : State → TreeStage → Micro) (st : TreeStage) : Res :=
  if s.whole then s.runTree d step treeFuel st else .wait (s.setStage st) .busy

/-! ### TSBIND (R309). -/

/-- The offset of the lowest failing field of a descriptor (R309). -/
def descFault (v : Nat) : Option Nat :=
  let nodes := descWord v 8
  let bump := descWord v 56
  let rsv (lo n : Nat) : Option Nat := (lowBit v lo n).map (· / 8)
  let chk (bad : Bool) (off : Nat) : Option Nat := if bad then some off else none
  let all := [chk (v % 64 != 0) 0, rsv 57 7, chk (nodes < 8 || 2 ^ 24 < nodes || nodes % 8 != 0) 8,
    chk (nodes ≤ descWord v 12) 12, chk (v / 2 ^ 228 % 16 = 0 || 12 < v / 2 ^ 228 % 16) 28, rsv 232 24,
    chk (v / 2 ^ 256 % 16 != 0) 32, rsv 313 7, chk (v / 2 ^ 320 % 8 != 0) 40, chk (nodes < bump || bump % 8 != 0) 56,
    rsv 771 5, rsv 780 52, rsv 832 192]
  all.findSome? id

/-- The context that TSBIND makes of a descriptor (R307). -/
def bindCtx (gen addr v : Nat) : TreeCtx :=
  { gen := gen, bound := true, addr := addr, pool := v % 2 ^ 57, nodes := descWord v 8
    c := BitVec.ofNat 32 (descWord v 16), vlv := BitVec.ofNat 32 (descWord v 20), fpu := BitVec.ofNat 32 (descWord v 24)
    rlog := v / 2 ^ 228 % 16, rbase := v / 2 ^ 256 % 2 ^ 57, rcw := BitVec.ofNat 64 (v / 2 ^ 320) }

/-- The lowest context that is neither bound nor kept for a TSBIND under way. -/
def State.freeCtx (s : State) : Option Nat :=
  firstFree ((s.spinel.ctxs.filter (fun e => e.2.bound || s.treeHeld e.2 s.me)).map (fun e => e.1)) 0 16

/-- The OWNER Perform and the taking of the context that is kept for it. -/
def State.bindStep (s : State) (va : Nat) (st : TreeStage) : Micro :=
  match st with
  | .bindOwn rec i =>
    let (r, s) := s.access s.treeActor none (va + 96) (.node (.own (s.die + 1)))
    let s := if r.waits then s else s.unlockTree i
    r.micro s (va + 96) (fun old =>
      if old % 8 != 0 then .done s (w64 (-2))
      else
        let x := bindCtx (((s.ctx i).gen + 1) % 2 ^ 16) va rec
        .done (s.setCtx i x) (BitVec.ofNat 64 (i + x.gen * 2 ^ 16)))
      (fun c v => .trap s c v)
  | _ => .wait s .busy

/-- The binding of a descriptor: its reading and its checks, the ring's count word, a free context, and OWNER. -/
def State.bind (s : State) (d : BitVec 6) (sa : Word64) : Res :=
  let va := sa.toNat
  match s.stage with
  | some st => s.runTree d (fun s st => s.bindStep va st) treeFuel st
  | none =>
    let s := s.commit
    if va % 128 != 0 then .trap s 0x202 (treeData (2 ^ 32 - 1) 0)
    else match s.access s.treeActor none va (.read 128) with
      | (.ok rec, s) =>
        match descFault rec with
        | some off => .trap s 0x202 (treeData off 0)
        | none =>
          s.namedCount s.treeActor (BitVec.ofNat 64 (rec / 2 ^ 320)) (fun s =>
            match s.freeCtx with
            | none => .done (s.putS 0 d (w64 (-1)))
            | some i => (s.lockTree i).startTree d (fun s st => s.bindStep va st) (.bindOwn rec i))
      | (r, s) => r.stop s sa

/-- The OWNER Perform of a release, and the freeing of the context. -/
def State.unbindStep (s : State) (st : TreeStage) : Micro :=
  match st with
  | .unbindOwn i =>
    let x := s.ctx i
    let (r, s) := s.access s.treeActor none (x.addr + 96) (.node .free)
    r.micro s (x.addr + 96) (fun _ => .done (s.setCtx i { gen := x.gen }) 0) (fun c v => .trap s c v)
  | _ => .wait s .busy

/-- The release of a bound context. It waits for a release or a re-rooting, and for an allocation, a free or an append of the tree
that is under way, and the words that would begin on the tree wait for it, so that what it has tested stands. -/
def State.unbind (s : State) (d : BitVec 6) (sa : Word64) : Res :=
  let step (s : State) (st : TreeStage) : Micro := s.unbindStep st
  match s.stage with
  | some st => s.runTree d step treeFuel st
  | none => (s.treeOf sa).run s.commit (fun i =>
    let s := s.commit
    let x := s.ctx i
    if 0 < s.slotsOf i || x.walk.isSome then .done (s.putS 0 d (w64 (-3)))
    else if s.ctxTaken i || s.treeHeld x s.me then .wait s .busy
    else s.startTree d step (.unbindOwn i))

/-- TSBIND (R309): with m = 1 it unbinds. -/
def execTsbind (o : OpR) (s : State) : Host.Outcome State Fault Refusal :=
  (if o.m then s.unbind o.d (s.S o.a) else s.bind o.d (s.S o.a)).out

/-! ### TSDESC, TSLEAF (R312, R314). -/

/-- The stages of TSDESC (R312). -/
def State.descStep (s : State) (st : TreeStage) : Micro :=
  match st with
  | .descRoot slot => s.rootOf slot
  | .descNode slot x => s.visitNode slot x
  | .descKids slot n child nch => s.readKids slot n child nch
  | .undo slot j pend c d => s.undoStep slot j pend c d
  | st => s.appendStep st

/-- TSDESC: the lowest free slot is taken before ROOT is read. -/
def State.descend (s : State) (d : BitVec 6) (h : Word64) : Res :=
  match s.stage with
  | some st => s.runTree d (fun s st => s.descStep st) treeFuel st
  | none => (s.treeOf h).run s.commit (fun i =>
      let s := s.commit
      if s.ctxTaken i then .wait s .busy else
      let used := (s.spinel.slots.filter (fun e => e.2.held)).map (fun e => e.1)
      match firstFree used 0 64 with
      | none => .done (s.putS 0 d (BitVec.ofNat 64 (5 * 2 ^ 56)))
      | some k =>
        (s.setSlot k { gen := ((s.slot k).gen + 1) % 1024, held := true, ctx := i }).startTree d
          (fun s st => s.descStep st) (.descRoot k))

/-- TSDESC (R312). -/
def execTsdesc (o : OpR) (s : State) : Host.Outcome State Fault Refusal := (s.descend o.d (s.S o.a)).out

/-- The accesses of TSLEAF, under the tree's lock (R304, R314). -/
def State.leafStep (s : State) (i : Nat) (st : TreeStage) : Micro :=
  let x := s.ctx i
  let locked (s : State) (va : Nat) (op : MemOp) (next : State → Nat → Micro) : Micro :=
    let (r, s) := s.access s.treeActor none va op
    r.micro s va (next s) (fun c v => .trap (s.unlockTree i) c v)
  match st with
  | .leafRing =>
    if s.treeHeld x s.me then .wait s .busy
    else locked (s.lockTree i) x.addr (.read 128) (fun s v =>
      if descWord v 48 = descWord v 52 then .done (s.unlockTree i) (w64 (-1)) else .go s (.leafEntry (descWord v 48)))
  | .leafEntry head =>
    locked s (x.rbase + 16 * (head % 2 ^ x.rlog)) (.read 16) (fun s e => .go s (.leafHead head e))
  | .leafHead head e =>
    locked s (x.addr + 48) (.write 4 (head + 1)) (fun s _ => .done (s.unlockTree i) (BitVec.ofNat 64 e))
  | _ => .wait s .busy

/-- TSLEAF. -/
def execTsleaf (o : OpR) (s : State) : Host.Outcome State Fault Refusal :=
  ((s.treeOf (s.S o.a)).run s.commit (fun i =>
    let s := s.commit
    let step (s : State) (st : TreeStage) : Micro := s.leafStep i st
    match s.stage with
    | some st => s.runTree o.d step treeFuel st
    | none => if s.ctxTaken i then .wait s .busy else s.startTree o.d step .leafRing)).out

/-! ### TSEXP (R315). -/

/-- The reads of the priors array, one per line, each named by its place: those still to be made that this step makes. -/
def State.priorReads (s : State) (sb n : Nat) (got : Tab Nat) : State × Tab Nat × Option (Acc × Nat) :=
  let pieces := linePieces sb 6 (8 * n)
  (s.pickOf ((List.range pieces.length).filter (fun i => (Tab.find got i).isNone))).foldl (fun r i =>
    match r.2.2 with
    | some _ => r
    | none =>
      let e := pieces.getD i (0, 0)
      match r.1.access { r.1.treeActor with waiter := .lane r.1.focusRef (65 + i) } none e.1 (.read e.2) with
        | (.ok v, s) => (s, Tab.set r.2.1 i v, none)
        | (a, s) => (s, r.2.1, some (a, e.1))) (s, got, none)

/-- The array's bytes as pieces of 128 bytes from its start, in the places that the expansion reads. -/
def joinPieces (sb n : Nat) (got : Tab Nat) : Tab Nat :=
  let pieces := linePieces sb 6 (8 * n)
  let v := (List.range pieces.length).foldr (fun i acc =>
    Tab.get got 0 i + 2 ^ (8 * (pieces.getD i (0, 0)).2) * acc) 0
  (List.range 5).map (fun i => (i, v / 2 ^ (1024 * i) % 2 ^ 1024))

/-- The marking of a leaf as terminal (R315). -/
def State.termStep (s : State) (slot : Nat) : Micro :=
  let p := s.slot slot
  let va := (s.ctx p.ctx).node p.leaf
  let (r, s) := s.access s.treeActor none va (.node .term)
  r.micro s va (fun old => .done s (if nodeExp old then 1 else 0)) (fun c v => .trap s c v)

/-- TSEXP. -/
def execTsexp (o : OpR) (s : State) : Host.Outcome State Fault Refusal :=
  let n := o.xm.toNat % 64 + 1
  (match s.slotRef (s.S o.a) with
  | .error e => Res.trap s.commit e.1 e.2
  | .ok slot =>
    let s := s.commit
    if s.stage.isNone && s.slotTaken slot then .wait s .busy
    else if o.m then
      match s.stage with
      | some st => s.runTree o.d (fun s _ => s.termStep slot) treeFuel st
      | none => s.startTree o.d (fun s _ => s.termStep slot) .expTerm
    else
      let sb := (s.S o.b).toNat
      let step (s : State) (st : TreeStage) : Micro := s.expStep slot n st
      match s.stage with
      | some st => s.runTree o.d step treeFuel st
      | none =>
        if sb % 8 != 0 then .trap s 0x0A0 (alignData o.b (s.S o.b))
        else
          let fl := s.f.flight.getD {}
          match s.priorReads sb n fl.got with
          | (s, got, some (r, va)) =>
            match r with
            | .fault c => .trap (s.setF { s.f with flight := none }) c (BitVec.ofNat 64 va)
            | r => r.stop (s.setF { s.f with flight := some { fl with got := got } }) (BitVec.ofNat 64 va)
          | (s, got, none) =>
            let all := (List.range (linePieces sb 6 (8 * n)).length).all (fun i => (Tab.find got i).isSome)
            if s.whole || all then
              (s.setF { s.f with flight := some { got := joinPieces sb n got } }).startTree o.d step .expAlloc
            else .wait (s.setF { s.f with flight := some { fl with got := got } }) .busy).out

/-! ### TSBACK (R316). -/

/-- The value of a backup in Q31.32, or TREE_VALUE. -/
def backValue (f rel : Bool) (b : Word64) : Chk Word64 :=
  if rel then .ok 0
  else if f then match v32 (b.toNat % 2 ^ 32) with
    | .nan => .error (0x203, treeData b.toNat 0)
    | .inf neg => .ok (if neg then 2 ^ 63 else 2 ^ 63 - 1)
    | .fin neg m e => .ok (w64 (satInt true 64 (FVal.roundInt .rn (.fin neg m (e + 32)))))
  else .ok b

/-- TSBACK. -/
def execTsback (o : OpR) (s : State) : Host.Outcome State Fault Refusal :=
  let rel := o.xm.getLsbD 0
  let check : Chk (Nat × Word64) := do
    let slot ← s.slotRef (s.S o.a)
    let x ← backValue o.m rel (s.S o.b)
    return (slot, x)
  (check.run s.commit (fun e =>
    let s := s.commit
    if s.stage.isNone && s.slotTaken e.1 then .wait s .busy
    else s.runTree o.d (fun s _ => s.backStep e.1 e.2 rel) treeFuel .back)).out

/-! ### TSROOT and the reclaim walk (R317). -/

/-- TSROOT. -/
def execTsroot (o : OpR) (s : State) : Host.Outcome State Fault Refusal :=
  let k := (s.S o.b).toNat
  ((s.treeOf (s.S o.a)).run s.commit (fun i =>
    let s := s.commit
    let x := s.ctx i
    let step (s : State) (st : TreeStage) : Micro := s.rootStep i k o.m st
    match s.stage with
    | some st => s.runTree o.d step treeFuel st
    | none =>
      if 0 < s.slotsOf i || x.walk.isSome then .done (s.putS 0 o.d 1)
      else if s.ctxTaken i then .wait s .busy
      else match s.access s.treeActor none x.addr (.read 128) with
        | (.ok v, s) =>
          s.startTree o.d step (.rootNode (descWord v 12))
        | (r, s) => r.stop s (BitVec.ofNat 64 x.addr))).out

/-- One access of a reclaim walk: a node is visited, or a block is a step nearer to being free, under the tree's lock (R304). A
fault ends the walk and is logged. -/
def execReclaimWalk (die : Fin 4) (ctx : Fin 16) (s : State) : Host.Outcome State Fault Refusal :=
  let d := die.val
  let eng := (s.device d).spinel
  let x := Tab.get eng.ctxs {} ctx.val
  let put (s : State) (x : TreeCtx) : State :=
    s.setSpinel d { (s.device d).spinel with ctxs := Tab.set (s.device d).spinel.ctxs ctx.val x }
  let a := walkActor d ctx.val x.task
  let me := (192, d, ctx.val)
  let free := { x with freeing := none, lock := if x.lock = some me then none else x.lock }
  let closed := x.endWalk d ctx.val
  let ends (va : Nat) (r : Acc × State) (next : State → Nat → State) : Host.Outcome State Fault Refusal :=
    match r with
    | (.ok v, s) => .next (next s v)
    | (.fault c, s) =>
      .next ((put s closed).logEvent
        { cause := c, src := d, addr := BitVec.ofNat 64 va, task := some x.task })
    | (.pager h, s) => .next (put s { x with held := some { h with data := BitVec.ofNat 64 va } })
    | (_, s) => .next s
  match x.walk with
  | none => .next s
  | some [] => .next (put s { x with walk := none })
  | some ((i, g, true) :: rest) =>
    let at_ := x.freeing.getD (0, 0)
    let e := x.freeOp i g at_.1 at_.2
    if x.freeing.isNone && s.treeHeld x me then .next s
    else ends e.1 (s.access a none e.1 e.2) (fun s v =>
      if at_.1 < 2 then put s { x with freeing := some (at_.1 + 1, freeHead g at_.1 v at_.2), lock := some me }
      else put s { free with walk := some rest })
  | some ((i, _, false) :: rest) =>
    ends (x.node i) (s.access a none (x.node i) (.read 64)) (fun s v =>
      let kids := if nodeExp v then
        (List.range (nodeNch v)).map (fun j => (nodeChild v + j, 0, false)) ++ [(nodeChild v, granules (nodeNch v), true)]
        else []
      put s { x with walk := some (kids ++ rest) })

/-! ### TSSTAT (R318). -/

/-- TSSTAT. -/
def execTsstat (o : OpR) (s : State) : Host.Outcome State Fault Refusal :=
  ((s.treeOf (s.S o.a)).run s (fun i =>
    let x := s.ctx i
    match s.access s.treeActor none x.addr (.read 128) with
    | (.ok v, s) =>
      let r := match o.b.toNat with
        | 0 => descWord v 12 + v / 2 ^ 224 % 16 * 2 ^ 32 + bit x.walk.isSome * 2 ^ 36
        | 1 => descWord v 56 + s.slotsOf i * 2 ^ 32
        | 2 => (descWord v 52 + 2 ^ 32 - descWord v 48) % 2 ^ 32 + descWord v 52 * 2 ^ 32
        | _ => ((List.range 8).map (fun j => if descWord v (64 + 4 * j) != noNode then 2 ^ j else 0)).foldl (· + ·) 0
      .done (s.putS 0 o.d (BitVec.ofNat 64 r))
    | (r, s) => r.stop s (BitVec.ofNat 64 x.addr))).out

end Sys2Proof.Machine
end

