-- ==== Sys2Proof/Machine/Fetch.lean ====
section
/-! DEFINITION. Instruction fetch (R63 to R66). -/

namespace Sys2Proof.Machine

/-- The fetch of the fragment in focus, on behalf of its lowest lane. -/
def State.fetchActor (s : State) : Actor := s.laneActor 3 (lowLane s.active)

/-- One code word through a leaf: the cached copy, or the word as it stands now (R65), whose slice read sets the accessed bit
(R214). A fetch changes no class. -/
def State.codeWord (s : State) (a : Actor) (l : Leaf) (va : Nat) (fresh : Bool) : Acc × State :=
  let c := s.focus.core
  let keep (s : State) (v : Nat) : Acc × State :=
    (.ok v, s.setCore c { s.core c with icache := Tab.set (s.core c).icache va (BitVec.ofNat 32 v) })
  match Tab.find (s.core c).icache va, fresh with
  | some w, false => (.ok w.toNat, s)
  | _, _ =>
    if l.peer then
      match s.peerAccess a l va (.read 4) with
      | (.ok v, s) => keep s v
      | r => r
    else
      let pa := l.pa + va % 65536
      let (found, s) := s.meet a false
      if s.lineLost pa 4 || found = some 0 then s.unreadable a pa va
      else if found.isSome then (.fault (BitVec.ofNat 10 (0x2C3 + 8 * found.getD 0)), s)
      else keep (s.markUsed (pa / 65536) true false) (Memory.read s.mem pa 4)

/-- The fetch unit reads a word ahead of every fragment, where the TLB holds its page (R66): a fetch may then see what the word
held at this moment. It sets no bit, and one that fails leaves nothing. -/
def State.readAhead (s : State) (c va : Nat) : State :=
  match (s.core c).tlbAt va with
  | some e =>
    let pa := e.leaf.pa + va % 65536
    if va % 4 != 0 || e.leaf.peer || (protection e.leaf va 3 (.read 4)).isSome || s.lineLost pa 4 then s
    else s.setCore c { s.core c with icache := Tab.set (s.core c).icache va (BitVec.ofNat 32 (Memory.read s.mem pa 4)) }
  | none => s

/-- The fetch of one word (R65, R66). -/
def State.fetchWord (s : State) (va : Nat) (fresh : Bool) : Acc × State :=
  let a := s.fetchActor
  if nonCanon va then (.fault 0x113, s)
  else match s.takeFailed a va with
    | (some c, s) => (.fault c, s)
    | (none, s) =>
      if s.upset = some .walker && ((s.core s.focus.core).tlbAt va).isNone then (.fault 0x2FC, { s with upset := none })
      else match s.tlbWalk s.focus.core va with
      | (.error, s) => (.fault 0x10B, s)
      | (.lost pa, s) => s.unreadable a pa va
      | (.host, s) => (.fault 0x2B3, s)
      | (.full, s) => (.stall missPage, s)
      | (.absent pgr, s) => s.notPresent s.die pgr va a true
      | (.leaf l, s) => match protection l va 3 (.read 4) with
        | some c => (.fault c, s)
        | none => s.codeWord a l va fresh

/-- The fetch of the words from `i` to 2 of the packet at `va`. A word is read anew where the step's `lanes` has its
bit, and else comes from the cache if it holds it: either may be what a fetch sees (R65). -/
def State.fetchWords (s : State) (va : Nat) : Nat → List Word32 → (Acc × State) ⊕ (List Word32 × State)
  | 0, ws => .inr (ws.reverse, s)
  | n + 1, ws =>
    match s.fetchWord (va + 4 * ws.length) (s.focus.lanes.getLsbD ws.length) with
    | (.ok v, s) => s.fetchWords va n (BitVec.ofNat 32 v :: ws)
    | r => .inl r

/-- Whether an address is that of a packet of the kernel (R63, R64). -/
def Desc.holdsPacket (d : Desc) (va : Nat) : Bool :=
  d.code ≤ va && (va - d.code) % 12 = 0 && va < d.code + 12 * d.codeLen

/-- The packet at an address: what follows its words, or how the fetch ended, as a fetch by the fragment in focus at
that address (R66). -/
def State.fetchPacket (s : State) (va : Nat) (next : List Word32 → State → Res) : Res :=
  match s.fetchWords va 3 [] with
  | .inr (ws, s) => next ws s
  | .inl (r, s) => r.stop s (BitVec.ofNat 64 va)

end Sys2Proof.Machine
end

