-- ==== Sys2Proof/Machine/System.lean ====
section
/-! DEFINITION. The system words: software traps and their return (R362, R363), breakpoints (R364), region marks (R366),
PGSUPPLY (R365), SLEEP (R375), MFLOG (R376) and ENQ (R39, R130). -/

namespace Sys2Proof.Machine

/-! ### Traps (R362 to R364). -/

def execTrapL (o : OpL) (s : State) : Host.Outcome State Fault Refusal :=
  (Res.trap s (BitVec.ofNat 10 (0x380 + o.immN)) (s.S o.d)).out
def execTrapR (o : OpR) (s : State) : Host.Outcome State Fault Refusal :=
  (Res.trap s (BitVec.ofNat 10 (0x380 + (s.S o.a).toNat % 64)) (s.S o.b)).out

/-- TRET (R363). -/
def execTret (o : OpR) (s : State) : Host.Outcome State Fault Refusal := (s.returnFromTrap o.m).out

/-- BKPT (R364). -/
def execBkpt (o : OpL) (s : State) : Host.Outcome State Fault Refusal :=
  (Res.trap s (BitVec.ofNat 10 (0x340 + o.immN)) 0).out

/-! ### SLEEP and MFLOG. -/

/-- SLEEP (R375): parked from its issue cycle on. -/
def execSleep (o : OpI) (s : State) : Host.Outcome State Fault Refusal :=
  (Res.wait s (.sleep (s.counted s.die) o.immN)).out

/-- MFLOG (R376). -/
def execMflog (o : OpR) (s : State) : Host.Outcome State Fault Refusal :=
  let v : Nat := match o.b.toNat with
    | 0 => s.module.elseq
    | 1 => s.t.events
    | 2 => Tab.get s.t.entries (2 ^ 64 - 1) (32 * s.g.linear + s.w.warpId)
    | _ => s.module.ellost
  (Res.done (s.putS 0 o.d (BitVec.ofNat 64 v))).out

/-! ### REGION (R366). -/

/-- The completion of a REGION: the mark, and a warp no longer committed, which a pre-emption then keeps (R368). The
tiles that the warp keeps are written anew after it (R296). -/
def State.setMark (s : State) (mask : Word64) : State :=
  let w := s.w
  let g := s.g
  let kept := (g.keeper.filter (fun e => e.2 = w.warpId)).map (fun e => e.1)
  let s := s.setG { g with written := g.written.filter (fun t => !kept.contains t) }
  s.setW { w with mark := some { pc := s.f.pc + 12, mask := s.active, save := mask }, committed := false,
                  kept := g.preempt.isSome }

/-- The frame slots of a warp (R366). -/
def State.frameSlot (s : State) (j : Nat) : Nat := s.framePage + 128 * s.w.warpId + 8 * j

/-- The registers of a save set, ascending. -/
def saveSet (mask : Word64) : List Nat := (List.range 64).filter (fun i => mask.getLsbD i)

/-- The stores of a save set to the warp's frame. -/
def State.saveFlight (s : State) (mask : Word64) : Flight :=
  { type := 1, plain := true, logs := true, single := true
    got := [(100, mask.toNat)]
    reqs := (List.zipIdx (saveSet mask)).map (fun e =>
      { lane := e.2, va := s.frameSlot e.2, op := .write 8 (s.S (BitVec.ofNat 6 e.1)).toNat }) }

/-- The scoreboard cause of a REGION that could not fetch its packet at issue: a saved register with a fixed-latency write that had not
completed in the cycle of its issue (R99). -/
def State.boardSave (s : State) (mask : Word64) : Option Word64 :=
  if !s.t.desc.check then none
  else ((saveSet mask).find? (fun r => s.focus.issue < s.w.pendsUntil (.s, r))).map (fun r =>
    boardData (.s, r) (s.w.pendsUntil (.s, r) - s.focus.issue) s.focus.pos)

/-- REGION: the save-set packet is fetched before it is tested. -/
def execRegion (o : OpG) (s : State) : Host.Outcome State Fault Refusal :=
  let pkt := s.packetAt o.offI
  let run (s : State) (fl : Chk Flight) : Res :=
    s.runFlight fl false (fun s fl => .done (s.setMark (BitVec.ofNat 64 (Tab.get fl.got 0 100))))
  let bad (s : State) : Res := .trap s 0x306 pkt
  (if s.f.flight.isSome then run s (.error (0, 0))
  else if s.t.desc.frame = 0 then Res.trap s 0x305 0
  else if !s.w.hidden.isEmpty || 1 < s.w.frags.length || !s.w.tokens.isEmpty then .trap s 0x307 0
  else s.fetchPacket pkt.toNat (fun ws s =>
    let mask : Word64 := ws.getD 1 0 ++ ws.getD 0 0
    if let some data := s.boardSave mask then .trap s 0x0FC data
    else if !s.t.desc.holdsPacket pkt.toNat || ws.getD 2 0 != 0xE8000000#32 || 16 < (saveSet mask).length then bad s
    else run s (.ok (s.saveFlight mask)))).out

/-! ### PGSUPPLY (R365). -/

/-- The fragments, engine items and requests of other modules that wait on an upcall entry go on; with `fail` each
finds its page refused, and a count-word add of an engine is over. So does a store that waits for room in the side log of a
core of the die. -/
def State.releaseFrags (s : State) (d e : Nat) (fail : Bool) : State :=
  let page := (Tab.get (s.device d).upcalls {} e).page
  let frag (c : Nat) (f : Frag) : Frag := match f.park with
    | .pager h => if h.dev = d && h.entry = e then { f with park := .none, failed := if fail then some h else f.failed } else f
    | .logFull p =>
      if fail && dieOf c = d && p = page then
        { f with park := .busy, failed := some { dev := d, entry := e, page := p,
                                                 cause := BitVec.ofNat 10 (0x100 + (f.flight.getD {}).type) } } else f
    | _ => f
  { s with cores := s.cores.map (fun c => (c.1, { c.2 with
      warps := c.2.warps.map (fun w => (w.1, { w.2 with frags := w.2.frags.map (fun f => (f.1, frag c.1 f.2)) })) })) }

/-- Copies and shuffles of a core that wait on an upcall entry. -/
def State.releaseEngines (s : State) (c d e : Nat) (fail : Bool) : State :=
  let s := (s.core c).copies.foldl (fun s k =>
    match k.2.held with
    | some h =>
      if h.dev != d || h.entry != e then s
      else
        let x := { k.2 with held := none }
        match fail, h.add with
        | false, _ => s.setCopy c k.1 x
        | true, none => s.setCopy c k.1 { x with failed := some (h.cause, h.data) }
        | true, some i =>
          let s := s.addFailed (x.actor c k.1) x.cw h.cause
          match x.items[i]? with
          | some it => s.endItem c k.1 x i it
          | none => s.endCopy c k.1 x
    | none => s) s
  match (s.core c).shuffles with
  | [] => s
  | x :: rest => match x.held with
    | some h =>
      if h.dev != d || h.entry != e then s
      else if fail then
        (s.setCore c { s.core c with shuffles := rest }).logEvent
          { cause := h.cause, src := dieOf c, core := c, addr := x.cw, task := some x.task }
      else s.setCore c { s.core c with shuffles := { x with held := none } :: rest }
    | none => s

/-- Reclaim walks that wait on an upcall entry. -/
def State.releaseWalks (s : State) (d e : Nat) (fail : Bool) : State :=
  s.devices.foldl (fun s v => v.2.spinel.ctxs.foldl (fun s k =>
    match k.2.held with
    | some h =>
      if h.dev != d || h.entry != e then s
      else
        let x := s.device v.1
        let t := if fail then k.2.endWalk v.1 k.1 else { k.2 with held := none }
        let s := s.setDevice v.1 { x with spinel := { x.spinel with ctxs := Tab.set x.spinel.ctxs k.1 t } }
        if fail then (s.logEvent { cause := h.cause, src := v.1, addr := h.data, task := some t.task }).dropWaiter (.engine (192 + v.1) k.1)
        else s
    | none => s) s) s

/-- Requests of other modules that wait on an upcall entry (R255): refused ones are answered with a fault, the others wait
on no entry any more and are taken up again. -/
def State.releasePeers (s : State) (d e : Nat) (fail : Bool) : State :=
  let (mine, rest) := s.io.heldPeers.partition (fun p => p.1.dev.val = d && p.2 = e)
  let s := { s with io := { s.io with heldPeers := rest } }
  if fail then mine.foldl (fun s p =>
    (s.logEvent { cause := BitVec.ofNat 10 (0x100 + p.1.acc.toNat), src := d, addr := p.1.va }).send
      (.peerAnswer p.1.srcMod.toNat p.1.srcDev.val ((p.1.tag.map (fun t => t.toNat)).getD 0) (.fault (BitVec.ofNat 10 (0x100 + p.1.acc.toNat))))) s
  else { s with io := { s.io with heldPeers := rest ++ mine.map (fun p => (p.1, 64)) } }

/-- Tasks that dispatch holds on an upcall entry (R410), and the adds of SIGNAL tasks: one that fails is logged (R335). -/
def State.releaseTasks (s : State) (d e : Nat) (fail : Bool) : State :=
  s.tasks.foldl (fun s t => match t.2.hold with
    | some h =>
      if h.dev != d || h.entry != e then s
      else if fail && h.add.isSome then
        (s.addFailed { party := .ct, dev := t.2.dev, task := some t.1, type := 2 } h.data h.cause).setTask t.1
          { t.2 with hold := none, phase := .ending, left := 0 }
      else s.setTask t.1 { t.2 with hold := none, refused := if fail then some h.page else t.2.refused }
    | none => s) s

/-- Everything that waits on an upcall entry goes on. -/
def State.releaseEntry (s : State) (d e : Nat) (fail : Bool) : State :=
  let s := (s.releaseFrags d e fail).releaseTasks d e fail
  let s := s.cores.keys.foldl (fun s c => s.releaseEngines c d e fail) s
  (s.releaseWalks d e fail).releasePeers d e fail

/-- An upcall entry is freed, and its generation advances. -/
def State.freeEntry (s : State) (d e : Nat) : State :=
  let x := s.device d
  s.setDevice d { x with upcalls := Tab.del x.upcalls e,
                         upcallGen := Tab.set x.upcallGen e ((Tab.get x.upcallGen 0 e + 1) % 2 ^ 26) }

/-- A logged store or reduction of a page is discarded (R365): each entry writes an event and gives its task status
0x62. -/
def State.discardLog (s : State) (c : Nat) (es : List LogEntry) : State :=
  es.foldl (fun s e =>
    let cause : BitVec 10 := match e.op with | .write _ _ => 0x101 | _ => 0x102
    if e.fresh then
      (s.logEvent { cause := cause, src := dieOf c, core := c, addr := BitVec.ofNat 64 e.va, task := some e.task }).taskFault
        e.task 0x62 cause
    else s) s

/-- The log entries of a page on one core are taken out of the log, and `f` is done with them. -/
def State.takeLog (s : State) (c page : Nat) (f : State → List LogEntry → State) : State :=
  let x := s.core c
  let (mine, rest) := x.sideLog.partition (fun e => e.va / 65536 = page)
  if mine.isEmpty then s else f (s.setCore c { x with sideLog := rest }) mine

/-- The replay of logged entries (R213), in log order, through the leaf that their page now has, as PRIVATE accesses of the owner
before any class change of the page. An entry that the leaf refuses, or that cannot be performed, is discarded. -/
def State.replayLog (s : State) (c : Nat) (l : Leaf) (es : List LogEntry) : State :=
  es.foldl (fun s e =>
    let type := match e.op with | .write _ _ => 1 | _ => 2
    let a : Actor := { party := .core c, dev := dieOf c, task := some e.task, type := type, waiter := .engine c 34 }
    let r : Acc × State := match protection l e.va type e.op with
      | some k => (.fault k, s)
      | none => if l.peer || l.mt != 0 then s.accessLeaf a l e.va e.op else (s.classFor a l e.va true).2.performNow a l e.va e.op
    match r with
    | (.fault _, s) => s.discardLog c [e]
    | (_, s) => s) s

/-- `fail(e)` (R365), by the warp in focus, whose task the event counts for (R376). -/
def State.failEntry (s : State) (d e : Nat) (u : Upcall) : State :=
  let s := s.releaseEntry d e true
  let s := (coresOf d).foldl (fun (s : State) c => s.takeLog c u.page (fun s es => s.discardLog c es)) s
  (s.logEvent { cause := 0x004, src := d, core := u.core, addr := u.va, task := some s.g.task,
                who := some (s.memberOf s.focus.core s.focus.slot) }).freeEntry d e

/-- PGSUPPLY. -/
def execPgsupply (o : OpR) (s : State) : Host.Outcome State Fault Refusal :=
  let token := (s.S o.a).toNat % 2 ^ 32
  let e := token % 64
  let d := s.die
  let give (s : State) (v : Int) : Res := .done (s.putS 0 o.d (w64 v))
  (match Tab.find (s.device d).upcalls e with
  | none => give s (-1)
  | some u =>
    if Tab.get (s.device d).upcallGen 0 e != token / 64 then give s (-1)
    else match s.readPager d u.pgr 7 with
    | (.error c, s) => .trap (s.pagerLost (s.laneActor 7 (lowLane s.active)) d u.pgr token c).2 c (BitVec.ofNat 64 token)
    | (.ok p, s) =>
    if s.t.descAddr != p.desc then .trap s 0x308 (BitVec.ofNat 64 token)
    else if o.m then give (s.failEntry d e u) 0
    else match s.walkOn d u.va.toNat with
      | (.leaf l, s) =>
        let s := (coresOf d).foldl (fun (s : State) c => s.takeLog c u.page (fun s es => s.replayLog c l es)) s
        give ((s.releaseEntry d e false).freeEntry d e) 0
      | (.absent _, s) => give s (-2)
      | (.lost pa, s) => give ((s.unreadable (s.laneActor 7 (lowLane s.active)) pa u.va.toNat).2.failEntry d e u) (-3)
      | (.error, s) => give (s.failEntry d e u) (-3)
      | (.host, s) => give (s.failEntry d e u) (-3)
      | (.full, s) => give s (-2)).out

/-! ### ENQ (R39). -/

/-- The physical address of a byte of a queue's submission or completion ring, by the frames fixed when the queue was
enabled (R33). -/
def ringAddr (frames : List Nat) (base off : Nat) : Nat :=
  let va := base + off
  frames.getD (va / 65536 - base / 65536) 0 + va % 65536

/-- The queue engines read and write their rings as CT's party (R201), at the frames fixed for them: one point, which
waits for no class change. -/
def State.ctTouch (s : State) (pa n : Nat) (write : Bool) : State :=
  if isGuash pa then (linePieces pa (n / 128 + 2) n).foldl (fun s e => s.ctAccess e.1 write) s else s

/-- An access of a queue engine meets an error that cannot be corrected: it fails and is logged (R191, R355). -/
def State.ctLost (s : State) (pa : Nat) : State :=
  s.logEvent { cause := 0x2C7, src := homeDie pa, addr := BitVec.ofNat 64 pa }

/-- A write of a queue engine, not made on a lost line (log 83). -/
def State.ctWrite (s : State) (pa n v : Nat) : State :=
  let s := s.ctTouch pa n true
  if s.lineLost pa n then s.ctLost pa else { s with mem := Memory.write s.mem pa n v }

/-- A packet placed in the next submission slot of a device-fed queue, stamped with the next SEQ (R39): the queue step,
one point at the queue engine. The result is that of the table of ENQ results. -/
def State.queueStep (s : State) (d q : Nat) (bytes : List Byte) : Word64 × State :=
  let x := s.queue d q
  let refuse (v : Nat) : Word64 × State := (BitVec.ofNat 64 (0xFFFFFFFFFFFFFFF0 + v), s)
  if !x.src then refuse 3
  else if !x.en then refuse 2
  else if (x.qtail + 2 ^ 32 - x.qret) % 2 ^ 32 = 2 ^ x.slog then refuse 1
  else if 0xFFFFFFFFFFFFFFF0 ≤ x.qnextseq then refuse 5
  else
    let stamped := bytes.take 8 ++ natBytes 8 x.qnextseq ++ bytes.drop 16
    let pa := ringAddr x.ringFrames x.qbase (256 * (x.qtail % 2 ^ x.slog))
    let s := s.ctWrite pa stamped.length (bytesNat stamped)
    (BitVec.ofNat 64 x.qnextseq, s.setQueue d q { x with qnextseq := x.qnextseq + 1, qtail := (x.qtail + 1) % 2 ^ 32 })

/-- The reads of a packet's bytes by the lowest active lane, one for each line; the first byte tells the length. -/
def packetReads (va len : Nat) : List LaneReq :=
  (linePieces va 4 len).map (fun e => { lane := e.1 - va, va := e.1, op := .read e.2 })

/-- The bytes of a packet from what the reads of its lines returned. -/
def packetBytes (va : Nat) (got : Tab Nat) : List Byte :=
  got.flatMap (fun e => natBytes ((((packetReads va 256).filter (fun r => r.lane = e.1)).map (fun r => r.op.size)).headD 0) e.2)

/-- Where an ENQ in progress keeps the length that its first read gave. -/
def lenKey : Nat := 1000

/-- ENQ (R39, R130). -/
def execEnq (o : OpR) (s : State) : Host.Outcome State Fault Refusal :=
  let q := (s.S o.a).toNat
  let va := (s.S o.b).toNat
  let finish (s : State) (fl : Flight) : Res :=
    let (v, s) := s.queueStep s.die q ((packetBytes va fl.got).take (Tab.get fl.got 16 lenKey))
    .done (s.putS 0 o.d v)
  let run (s : State) (fl : Chk Flight) : Res := s.runFlight fl true finish
  let s := s.commit
  (if 31 < q then Res.done (s.putS 0 o.d 0xFFFFFFFFFFFFFFF4)
  else if s.f.flight.isSome then run s (.error (0, 0))
  else if nonCanon va then .trap s 0x117 (s.S o.b)
  else
    match s.access (s.laneActor 7 (lowLane s.active)) none va (.read 1) with
    | (.ok b, s) =>
      let n := 16 * (b % 16 + 1)
      run s (.ok { type := 7, plain := true, single := true, got := [(lenKey, n)], reqs := packetReads va n })
    | (r, s) => r.stop s (s.S o.b)).out

end Sys2Proof.Machine
end

