-- ==== Sys2Proof/Machine/Queues.lean ====
section
/-! DEFINITION. Queues: host doorbells and enables (R31 to R38), intake and its checks (R13 to R15, R35, R409),
held-task slots (R20 to R23), completion (R22, R377, R378), interrupts (R380) and upcall tasks (R211). -/

namespace Sys2Proof.Machine

/-! ### Host writes of the queue registers. -/

def execQtailWrite (by_ : Stream) (q : Fin 32) (value : BitVec 32) (s : State) :
    Host.Outcome State Fault Refusal :=
  .next (s.inOrder by_ (s.ctlWrite by_.fn.val (0x10000 + 0x80 * q.val + 0x10) 4 value.toNat))
def execQcheadWrite (by_ : Stream) (q : Fin 32) (value : BitVec 32) (s : State) :
    Host.Outcome State Fault Refusal :=
  .next (s.inOrder by_ (s.ctlWrite by_.fn.val (0x10000 + 0x80 * q.val + 0x40) 4 value.toNat))

/-- Setting EN from 0 to 1 (R33). -/
def execQueueEnable (by_ : Stream) (q : Fin 32) (s : State) : Host.Outcome State Fault Refusal :=
  .next (if (s.queue by_.fn.val q.val).en then s
    else s.inOrder by_ (s.hostWrite by_.fn.val 0x10000 (s.enableQueue by_.fn.val q.val)))
def execQueueDisable (by_ : Stream) (q : Fin 32) (s : State) : Host.Outcome State Fault Refusal :=
  .next (s.inOrder by_ (s.hostWrite by_.fn.val 0x10000 (s.disableQueue by_.fn.val q.val)))

/-- A host write of 4 or 8 bytes to a control window, aligned to its width (R12, R393); another one is refused. -/
def State.windowWrite (s : State) (dev : Fin 4) (off : BitVec 30) (n : Nat) (value : Word64) : State :=
  if (n = 4 || n = 8) && off.toNat % n = 0 then s.ctlWrite dev.val off.toNat n (value.toNat % 2 ^ (8 * n))
  else if !s.module.ready && !(s.module.recovery && dev.val = 0) then s
  else
    let x := s.device dev.val
    let s := s.setDevice dev.val { x with indrop := bump32 x.indrop }
    (s.logEvent { cause := 0x00B, src := 5, addr := off.setWidth 64 }).send (.aer dev.val)

/-- REGISTER_WRITE. -/
def execRegisterWrite (by_ : Stream) (off : BitVec 30) (bytes : Fin 4097) (value : Word64) (s : State) :
    Host.Outcome State Fault Refusal :=
  .next (s.inOrder by_ (s.windowWrite by_.fn off bytes.val value))

/-! ### The fields of a packet (R13, R16, R18). -/

def Task.len (t : Task) : Nat := bitsOf (t.word 0) 3 0
def Task.kind (t : Task) : Nat := bitsOf (t.word 0) 5 4
def Task.quiet (t : Task) : Bool := bitOf (t.word 0) 11
def Task.nsucc (t : Task) : Nat := bitsOf (t.word 0) 15 12
def Task.pred (t : Task) : Nat := bitsOf (t.word 0) 31 16
def Task.self (t : Task) : Nat := bitsOf (t.word 0) 63 32

/-- A handle position of the successor array. -/
def Task.handle (t : Task) (i : Nat) : Nat := t.word (2 + i / 2) / 2 ^ (32 * (i % 2)) % 2 ^ 32

/-- The units that the header, the successors and the payload require (R409). -/
def Task.need (t : Task) : Nat := 1 + (t.nsucc + 3) / 4 + if t.kind = 1 then 2 else 1

/-- The successor handles that receive decrements: those below NSUCC that lie in the packet, but none whose bits [15:14]
are set (R20), and none of a packet with no array to read. -/
def Task.successors (t : Task) : List Nat :=
  if 8 < t.nsucc then []
  else ((List.range t.nsucc).filter (fun i => 16 + 4 * i + 4 ≤ 16 * (t.len + 1))).map t.handle |>.filter
    (fun h => bitsOf h 15 14 = 0)

/-- The first failing check of a packet at intake (R15, R409), but for the slot of SELF. -/
def Task.packetStatus (t : Task) : Option Nat :=
  let p := t.payload
  let reserved := bitsOf (t.word 0) 7 6 != 0 || (List.range t.nsucc).any (fun i => bitsOf (t.handle i) 15 14 != 0) ||
    (t.kind = 0 && (bitsOf (t.word p) 63 57 != 0 || bitsOf (t.word (p + 1)) 63 50 != 0))
  let sized := t.kind < 3 && t.nsucc ≤ 8
  if t.len = 0 || (sized && (t.len + 1 < t.need || (t.kind != 0 && t.len + 1 != t.need))) then some 0x10
  else if t.kind = 3 then some 0x11
  else if 8 < t.nsucc ||
      ((List.range (4 * ((t.nsucc + 3) / 4))).drop t.nsucc).any (fun i => t.handle i != 0xFFFFFFFF) then some 0x12
  else if reserved then some 0x13
  else if (t.self = 0xFFFFFFFF) != (t.pred = 0) || (t.self != 0xFFFFFFFF && bitsOf t.self 15 14 != 0) then some 0x14
  else none

/-! ### Eligibility and held-task slots (R21, R23). -/

/-- A task that will not run, or has ended, waits for its completion with a status. -/
def State.endTask (s : State) (t status detail : Nat) : State :=
  s.setTask t { s.task t with status := status, detail := detail, phase := .ending }

/-- A task becomes eligible (R23), or, with the failed flag, completes with PRED_FAILED (R21). -/
def State.makeEligible (s : State) (t : Nat) (failed : Bool) : State :=
  if failed then s.endTask t 0x1A 0
  else
    let x := s.task t
    let d := s.device x.dev
    let s := s.setTask t { x with phase := .eligible, order := d.order, since := s.now }
    s.setDevice x.dev { s.device x.dev with order := d.order + 1 }

def State.setHeld (s : State) (d i : Nat) (h : HeldSlot) : State :=
  s.setDevice d { s.device d with held := Tab.set (s.device d).held i h }

/-- A packet with SELF arrives at its slot (R21). -/
def State.arriveHeld (s : State) (t : Nat) : State :=
  let x := s.task t
  let i := x.self % 2 ^ 14
  let h := Tab.get (s.device x.dev).held {} i
  if h.task.isSome || h.gen != x.self / 2 ^ 16 then s.endTask t 0x14 0
  else
    let gone : HeldSlot := { gen := (h.gen + 1) % 65536 }
    if x.pred < h.early then (s.setHeld x.dev i gone).endTask t 0x1C 0
    else if x.pred = h.early then (s.setHeld x.dev i gone).makeEligible t h.failed
    else s.setHeld x.dev i { h with early := 0, rem := x.pred - h.early, task := some t }

/-- A decrement reaches a slot (R21): whether it was stale. -/
def State.decrement (s : State) (d handle : Nat) (fail : Bool) : Bool × State :=
  let i := handle % 2 ^ 14
  let h := Tab.get (s.device d).held {} i
  if h.gen != handle / 2 ^ 16 then (true, s)
  else match h.task with
    | none =>
      if h.early = 65535 then (true, s)
      else (false, s.setHeld d i { h with early := h.early + 1, failed := h.failed || fail })
    | some t =>
      let failed := h.failed || fail
      if h.rem ≤ 1 then (false, (s.setHeld d i { gen := (h.gen + 1) % 65536 }).makeEligible t failed)
      else (false, s.setHeld d i { h with rem := h.rem - 1, failed := failed })

/-! ### Intake (R14, R35, R36). -/

/-- The queues of a device that intake may serve now. -/
def State.intakeReady (s : State) (d q : Nat) : Bool :=
  let x := s.queue d q
  x.en && x.qhead != x.qtail && x.room < 2 ^ x.clog

/-- The next queue to serve, round-robin from the pointer, which starts at queue 0: R36 names no first queue (log 79). -/
def State.nextQueue (s : State) (d : Nat) : Option Nat :=
  (((List.range 32).map (fun i => ((s.device d).rr + i) % 32)).find? (fun q => s.intakeReady d q))

/-- The address of the first inline argument byte of a KERNEL packet (R19). -/
def Queue.argBase (x : Queue) (t : Task) : Word64 :=
  if t.kind = 0 && t.need < t.len + 1 then
    BitVec.ofNat 64 (x.qbase + 256 * (x.qhead % 2 ^ x.slog) + 16 * t.need)
  else 0

/-- The words of a packet, as the queue engine reads them: the whole slot, of which the spec does not say how much is read (log 83).
The spec does not say what a packet holds whose read meets an error
that cannot be corrected (R191): the error is logged, and each word is a free value (log 83). -/
def State.packetWords (s : State) (pa : Nat) : List Word64 × State :=
  let s := s.ctTouch pa 256 false
  if s.lineLost pa 256 then ((List.range 32).map (fun i => Config.lostPacket s.nextTask i), s.ctLost pa)
  else ((List.range 32).map (fun i => BitVec.ofNat 64 (Memory.read s.mem (pa + 8 * i) 8)), s)

/-- The packet at QHEAD of a queue is taken and checked (R35). After 2^64 − 1 the number that a host-fed queue expects is 0: the
spec gives it no end (log 94). -/
def State.take (s : State) (d q : Nat) : State :=
  let x := s.queue d q
  let (words, s) := s.packetWords (ringAddr x.ringFrames x.qbase (256 * (x.qhead % 2 ^ x.slog)))
  let t : Task := { dev := d, queue := q, index := x.qhead, era := x.era, words := words, seq := words.getD 1 0 }
  let t := { t with argBase := x.argBase t }
  let id := s.nextTask
  let s := { s with nextTask := id + 1 }.setTask id t
  let dv := s.device d
  let s := s.setDevice d { dv with rr := (q + 1) % 32, lastIntake := some s.now }
  let x := { x with qhead := (x.qhead + 1) % 2 ^ 32, taken := x.taken + 1 }
  if !x.src && t.seq.toNat != x.qnextseq then
    (s.setQueue d q { x with seqerr := true }).endTask id 0x20 (x.qnextseq % 2 ^ 32)
  else
    let s := s.setQueue d q (if x.src then x else { x with qnextseq := (x.qnextseq + 1) % 2 ^ 64 })
    match t.packetStatus with
    | some st => s.endTask id st 0
    | none => if t.pred = 0 then s.makeEligible id false else s.arriveHeld id

/-- PACKET_INTAKE: at most one packet every 8 cycles. -/
def execPacketIntake (dev : Fin 4) (s : State) : Host.Outcome State Fault Refusal :=
  let d := dev.val
  let x := s.device d
  let due := match x.lastIntake with | some t => t + 8 ≤ s.now | none => true
  if due && s.module.fatal.isNone && !x.drst then
    match s.nextQueue d with
    | some q => .next (s.take d q)
    | none => .next s
  else .next s

/-! ### Completion (R22, R37, R38, R377, R380). -/

/-- Whether the work of a task is done: its workgroups, its engine operations and its logged stores (R22, R133). -/
def State.taskDone (s : State) (t : Nat) : Bool :=
  let x := s.task t
  (x.phase = .ending || x.phase = .running) && x.left = 0 && s.cores.all (fun c =>
      c.2.copies.all (fun k => k.2.task != t) && c.2.shuffles.all (fun k => k.task != t) &&
      c.2.sideLog.all (fun e => e.task != t)) &&
      s.devices.all (fun v => v.2.spinel.ctxs.all (fun k => k.2.task != t || k.2.walk.isNone))

/-- The status and the detail of a task before its decrements (R132, R361, R378); a status that the dispatcher gave, NO_FIT and
NO_BACKING too, comes before the fault and the exit status of its units (log 48). -/
def Task.result (x : Task) : Nat × Nat :=
  if x.status != 0 then (x.status, x.detail)
  else match x.fault with
    | some (st, c) => (st, c.toNat)
    | none => if x.xst != 0 then (0x40, x.xst) else (0, 0)

/-- The decrements to the successors in array order: the number of stale ones (R22). -/
def State.sendDecrements (s : State) (t : Nat) (fail : Bool) : List Nat → Nat → Nat × State
  | [], n => (n, s)
  | h :: hs, n =>
    match s.decrement (s.task t).dev h fail with
    | (true, s) => (s.logEvent { cause := 0x006, task := some t }).sendDecrements t fail hs (n + 1)
    | (false, s) => s.sendDecrements t fail hs n

/-- QRET advances past released slots (R38). -/
def Queue.release : Nat → Queue → Queue
  | 0, x => x
  | n + 1, x =>
    if x.retiredIdx.contains x.qret then
      Queue.release n { x with qret := (x.qret + 1) % 2 ^ 32, retiredIdx := x.retiredIdx.filter (· != x.qret) }
    else x

/-- An MSI-X message of a queue, when one is due (R380). -/
def State.signalQueue (s : State) (d q : Nat) (late : Bool) : State :=
  let x := s.queue d q
  if x.ien && 0 < x.unsignalled && (max 1 x.icoal ≤ x.unsignalled || late) then
    (s.setQueue d q { x with unsignalled := 0 }).send (.msix d x.ivec)
  else s

/-- A completion record is written and signalled (R37, R377). A task that retires after EN was cleared has its record written in
the frames of the last enable, at the slot that QCBASE and CLOG as they then stand give (log 78: R33 fixes the frames only until
EN is cleared). -/
def State.writeRecord (s : State) (t status detail : Nat) : State :=
  let k := s.task t
  let x := s.queue k.dev k.queue
  let pa := ringAddr x.recFrames x.qcbase (32 * (x.qctail % 2 ^ x.clog))
  let word := status % 256 + k.kind * 256 + detail % 2 ^ 32 * 2 ^ 32
  let s := s.ctWrite pa 32 (pack 64 [k.seq.toNat, x.qcseq, word, k.kid.toNat])
  let x := { x with qctail := (x.qctail + 1) % 2 ^ 32, qcseq := (x.qcseq + 1) % 2 ^ 64,
                    unsignalled := x.unsignalled + 1, oldest := if x.unsignalled = 0 then s.now else x.oldest }
  (s.setQueue k.dev k.queue x).signalQueue k.dev k.queue false

/-- A task retires (R22): its decrements, then its record, then its slot, if that belongs to the ring as it was last enabled. -/
def State.retireTask (s : State) (t : Nat) : State :=
  let k := s.task t
  let (st, detail) := k.result
  let (stale, s) := s.sendDecrements t (st != 0) k.successors 0
  let (st, detail) := if st = 0 && 0 < stale then (0x1B, stale) else (st, detail)
  let s := if k.quiet && (st = 0 || st = 0x1B) then s else s.writeRecord t st detail
  let x := s.queue k.dev k.queue
  let idx := if k.era = x.era then k.index :: x.retiredIdx else x.retiredIdx
  let x := Queue.release (idx.length + 1) { x with taken := x.taken - 1, retiredIdx := idx }
  { s.setQueue k.dev k.queue x with tasks := Tab.del s.tasks t }

/-- CT's actor for a task: the dispatcher of a device, of access type 7, or the add of a SIGNAL task. -/
def ctActor (d t type : Nat) : Actor :=
  { party := .ct, dev := d, task := some t, type := type, waiter := if type = 7 then .engine 196 (4 + d) else .engine 0 (1000 + t) }

/-- The add of a SIGNAL task, made by CT, of access type 2 (R18). A task whose add still waits, for another module or device or
for a class change, keeps no other task from its dispatch. -/
def State.signalAdd (s : State) (t : Nat) : State :=
  let x := s.task t
  let wait (s : State) (h : Option Held) : State :=
    s.setTask t { s.task t with phase := .running, nextUnit := 1, units := 1, left := 1, hold := h }
  match s.engineAdd (ctActor x.dev t 2) (BitVec.ofNat 64 (x.word x.payload)) (x.word (x.payload + 1)) 0 with
  | (.over, s) => s.setTask t { s.task t with phase := .ending, left := 0 }
  | (.held h, s) => wait s (some h)
  | (.again, s) => wait s none

/-- TASK_COMPLETION: the add of a SIGNAL task that still waits is tried again. No record is written after a fatal event (R248,
R391). -/
def execTaskCompletion (task : Nat) (s : State) : Host.Outcome State Fault Refusal :=
  match Tab.find s.tasks task with
  | none => .next s
  | some x =>
    if s.module.fatal.isSome || (s.device x.dev).drst then .next s
    else if x.kind = 2 && x.phase = .running then .next (if x.hold.isSome then s else s.signalAdd task)
    else if s.taskDone task then .next (s.retireTask task)
    else .next s

/-- INTERRUPT_DELAY (R380). -/
def execInterruptDelay (dev : Fin 4) (q : Fin 32) (s : State) : Host.Outcome State Fault Refusal :=
  .next (s.signalQueue dev.val q.val (decide ((s.queue dev.val q.val).oldest + 4096 ≤ s.now)))

/-! ### Upcalls (R211). -/

/-- The packet of an upcall task, by what the pager's entry said when the upcall was taken (log 96). -/
def State.upcallPacket (s : State) (d e : Nat) (u : Upcall) : List Byte :=
  let token := e + Tab.get (s.device d).upcallGen 0 e * 64
  let info := u.type % 8 + u.core % 256 * 8 + u.pgr % 256 * 2 ^ 11 + token % 2 ^ 32 * 2 ^ 32
  [2 + u.prio * 256 + 0xFFFFFFFF * 2 ^ 32, 0, u.desc, 0x000100010001, u.va.toNat % 2 ^ 57, info].flatMap (natBytes 8)

/-- The event of a posted upcall: it is one of the task, and of the warp, whose access made the upcall, while the task is here
(R376). -/
def State.postedEvent (s : State) (u : Upcall) : Event :=
  let here := (u.task.map (fun t => (Tab.find s.tasks t).isSome)).getD false
  { cause := 0x003, core := u.core, addr := u.va, task := if here then u.task else none, who := if here then u.who else none }

/-- UPCALL_POST: an entry that has no task yet gets one, once its queue has room. -/
def execUpcallPost (dev : Fin 4) (entry : Fin 64) (s : State) : Host.Outcome State Fault Refusal :=
  let d := dev.val
  match Tab.find (s.device d).upcalls entry.val with
  | none => .next s
  | some u =>
    if u.posted then .next s
    else
      let (r, s') := s.queueStep d u.queue (s.upcallPacket d entry.val u)
      if 0xFFFFFFFFFFFFFFF0 ≤ r.toNat then .next s
      else
        let x := s'.device d
        let s := s'.setDevice d { x with upcalls := Tab.set x.upcalls entry.val { u with posted := true } }
        .next (s.logEvent (s.postedEvent u))

end Sys2Proof.Machine
end

