-- ==== Sys2Proof/Machine/Placement.lean ====
section
/-! DEFINITION. Dispatch of tasks (R23 to R27, R410), the order of units (R55), placement and its capacities (R49 to R54,
R58, R59), reservations and residency deadlocks (R56), restoration (R370), and the release of workgroups (R60). -/

namespace Sys2Proof.Machine

/-! ### Dispatch checks (R15, R25, R410). -/

/-- How the test of an address at dispatch ends: it translates, it does not, or the task is held. -/
inductive Test where
  | pass (l : Leaf) (s : State)
  | fail (s : State)
  | hold (s : State)

/-- The hold of a task on an upcall entry. -/
def State.holdTask (s : State) (t : Nat) (h : Held) : State := s.setTask t { s.task t with hold := some h }

/-- Whether an address translates (R410). A task whose upcall finds all 64 entries in use is held until one is free. -/
def State.testAddr (s : State) (t va : Nat) : Test :=
  let k := s.task t
  if nonCanon va || k.refused = some (va / 65536) then .fail s
  else match s.walk k.dev va with
    | (.leaf l, s) => .pass l s
    | (.error, s) => .fail s
    | (.lost pa, s) => .fail (s.unreadable (ctActor k.dev t 7) pa va).2
    | (.host, s) => .fail s
    | (.full, s) => .hold s
    | (.absent pgr, s) => match s.notPresent k.dev pgr va (ctActor k.dev t 7) true with
      | (.pager h, s) => .hold (s.holdTask t h)
      | (.stall p, s) => .hold (s.holdTask t { dev := k.dev, entry := 64, page := p, cause := 0x107 })
      | (_, s) => .fail s

/-- A read of CT at dispatch. An address that translates but whose read fails (an error that cannot be corrected, a page of
another memory type, a peer access that is refused) ends the task as one that does not translate: the spec names no status for
it (log 77). -/
def State.testRead (s : State) (t va n : Nat) : (Nat × State) ⊕ Test :=
  match s.testAddr t va with
  | .pass _ s => match s.readBytes (ctActor (s.task t).dev t 7) va n with
    | (.ok v, s) => .inl (v, s)
    | (.fault _, s) => .inr (.fail s)
    | (.pager h, s) => .inr (.hold (s.holdTask t h))
    | (_, s) => .inr (.hold s)
  | r => .inr r

/-- A kernel descriptor from its sixteen words, or nothing if a field of it is invalid by itself (R24, R25, R27). -/
def Desc.parse (v : Nat) : Option Desc :=
  let w (i : Nat) : Nat := v / 2 ^ (64 * i) % 2 ^ 64
  let d : Desc := {
    code := w 0 % 2 ^ 57, dict := w 1 % 2 ^ 57, trapIdx := bitsOf (w 2) 31 0, codeLen := bitsOf (w 2) 63 32
    frame := w 3 % 2 ^ 57, regs := bitsOf (w 4) 3 0, warps := bitsOf (w 4) 9 4, scratch := bitsOf (w 4) 22 16
    tiles := BitVec.ofNat 4 (bitsOf (w 4) 27 24), persist := BitVec.ofNat 4 (bitsOf (w 4) 31 28), check := bitOf (w 4) 32
    cslots := bitsOf (w 4) 38 33, kid := BitVec.ofNat 64 (w 5) }
  let reserved := bitsOf (w 0) 63 57 != 0 || bitsOf (w 1) 63 57 != 0 || bitsOf (w 3) 63 57 != 0 ||
    bitsOf (w 4) 15 10 != 0 || bitOf (w 4) 23 || bitsOf (w 4) 63 39 != 0 || v / 2 ^ 384 != 0
  if reserved || d.code % 256 != 0 || d.dict % 4096 != 0 || d.frame % 4096 != 0 || d.regs = 0 || 8 < d.regs ||
      d.warps = 0 || 32 < d.warps || 32 < d.cslots || 64 < d.scratch || d.persist &&& ~~~d.tiles != 0 ||
      d.codeLen = 0 || (d.trapIdx != 0xFFFFFFFF && d.codeLen ≤ d.trapIdx) then none
  else some d

/-- The entries of a dictionary. -/
def dictWords (v : Nat) : List Word32 := (List.range 1024).map (fun i => BitVec.ofNat 32 (v / 2 ^ (32 * i)))

/-- Several addresses tested in order. R410 orders only the statuses: here a hold on an address comes before a failure of one that is
tested after it (log 95). -/
def State.testAll (s : State) (t : Nat) : List Nat → Test
  | [] => .pass {} s
  | a :: as => match s.testAddr t a with
    | .pass _ s => s.testAll t as
    | r => r

/-- The number of workgroups of a task (R17). -/
def Task.grid (x : Task) : Nat := x.gridX * x.gridY * x.gridZ

/-- The instruction caches of a die hold nothing older than a dispatch (R65). -/
def State.freshCode (s : State) (d : Nat) : State :=
  { s with cores := s.cores.map (fun c => (c.1, if dieOf c.1 = d then { c.2 with icache := [] } else c.2)) }

/-- The checks of a KERNEL task at dispatch, and its start. -/
def State.dispatchKernel (s : State) (t : Nat) : State :=
  let x := s.task t
  let p := x.payload
  let at_ := x.word p
  let ends (st : Nat) (s : State) : State := s.endTask t st 0
  if at_ % 128 != 0 then ends 0x15 s
  else match s.testRead t at_ 128 with
    | .inr (.fail s) => ends 0x15 s
    | .inr (.hold s) => s
    | .inr (.pass _ s) => s
    | .inl (v, s) =>
      if x.gridX = 0 || x.gridY = 0 || x.gridZ = 0 || bitsOf (x.word (p + 1)) 49 48 = 3 || x.gridX % x.gang != 0 then
        ends 0x16 s
      else
        let s := s.setTask t { s.task t with kid := BitVec.ofNat 64 (v / 2 ^ 320) }
        match Desc.parse v with
        | none => ends 0x18 s
        | some d =>
          let start (s : State) (dict : Option (List Word32)) : State :=
            match s.testAll t [d.code, d.code + 12 * d.codeLen - 1] with
            | .fail s => ends 0x18 s
            | .hold s => s
            | .pass _ s =>
              let k := { s.task t with desc := d, descAddr := at_, dict := dict, phase := .running,
                                       units := x.grid / x.gang, left := x.grid }
              (s.setTask t k).freshCode x.dev
          if d.dict = 0 then start s none
          else match s.testRead t d.dict 4096 with
            | .inl (w, s) => start s (some (dictWords w))
            | .inr (.fail s) => ends 0x18 s
            | .inr (.hold s) => s
            | .inr (.pass _ s) => s

/-- The test of a count word at dispatch (R15, R410). The add of a SIGNAL task may go through a peer window (R20), whose home
tests CNT (R339). A hold on the address comes before its alignment (log 95). -/
def State.testCount (s : State) (t cw : Nat) (remote : Bool) : Test :=
  if cw = 0 then .pass {} s
  else match s.testAddr t cw with
    | .pass l s => if cw % 8 = 0 && (l.cnt || (remote && l.peer)) then .pass l s else .fail s
    | r => r

/-- Whether two ranges of `n` bytes overlap. -/
def rangesMeet (a b n : Nat) : Bool := a < b + n && b < a + n

/-- A COPY task at dispatch (R18). -/
def State.dispatchCopy (s : State) (t : Nat) : State :=
  let x := s.task t
  let p := x.payload
  let src := x.word p
  let dst := x.word (p + 1)
  let n := x.word (p + 2)
  let cw := x.word (p + 3)
  if 2 ^ 40 < n || 2 ^ 57 ≤ src || 2 ^ 57 ≤ dst || 2 ^ 57 ≤ cw || rangesMeet src dst n then s.endTask t 0x17 0
  else match s.testAll t (if n = 0 then [] else [src, src + n - 1, dst, dst + n - 1]) with
    | .fail s => s.endTask t 0x17 0
    | .hold s => s
    | .pass _ s => match s.testCount t cw false with
      | .fail s => s.endTask t 0x17 0
      | .hold s => s
      | .pass _ s => s.setTask t { s.task t with phase := .running, units := 1, left := 1 }

/-- A SIGNAL task at dispatch (R18). -/
def State.dispatchSignal (s : State) (t : Nat) : State :=
  let x := s.task t
  let cw := x.word x.payload
  if 2 ^ 57 ≤ cw then s.endTask t 0x17 0
  else match s.testCount t cw true with
    | .fail s => s.endTask t 0x17 0
    | .hold s => s
    | .pass _ s => s.signalAdd t

/-- The eligible task that the dispatcher takes next (R23, R55, R410): the greatest effective priority, then the order of
becoming eligible, among those not held. -/
def State.nextEligible (s : State) (d : Nat) : Option Nat :=
  let best := (s.tasks.filter (fun t => t.2.dev = d && t.2.phase = .eligible && !s.stillHeld t.2)).foldl
    (fun (b : Option (Nat × Nat × Nat)) t =>
      let p := s.effPrio d t.1
      match b with
      | none => some (t.1, p, t.2.order)
      | some (_, q, o) => if q < p || (q = p && t.2.order < o) then some (t.1, p, t.2.order) else b) none
  best.map (fun b => b.1)

/-- TASK_DISPATCH. -/
def execTaskDispatch (dev : Fin 4) (s : State) : Host.Outcome State Fault Refusal :=
  let d := dev.val
  if s.module.fatal.isSome || (s.device d).drst then .next s
  else match s.nextEligible d with
    | none => .next s
    | some t => match (s.task t).kind with
      | 0 => .next (s.dispatchKernel t)
      | 1 => .next (s.dispatchCopy t)
      | _ => .next (s.dispatchSignal t)

/-! ### Capacities (R51 to R53). -/

/-- The free warp slots of a quadrant of a core. -/
def Core.freeSlots (x : Core) (q : Nat) : List Nat :=
  ((List.range 32).map (32 * q + ·)).filter (fun k => (Tab.find x.warps k).isNone)

/-- The quadrant with the most free warp slots, the lowest on a tie (R52). -/
def Core.startQuad (x : Core) : Nat :=
  [1, 2, 3].foldl (fun b q => if (x.freeSlots b).length < (x.freeSlots q).length then q else b) 0

/-- The register blocks in use in a quadrant. -/
def State.blocks (s : State) (c q : Nat) : Nat :=
  ((s.core c).warps.map (fun e => if e.1 / 32 = q then (s.task (s.wg c e.2.wg).task).desc.regs else 0)).foldl (· + ·) 0

/-- The number of set bits of TILES or PERSIST. -/
def tileCount (b : BitVec 4) : Nat := ((List.range 4).filter (fun i => b.getLsbD i)).length

/-- The frames, and the tile slots, that the workgroups of a core hold. -/
def State.framesUsed (s : State) (c : Nat) : Nat :=
  ((s.core c).wgs.map (fun e => (s.task e.2.task).desc.scratch)).foldl (· + ·) 0
def State.tilesUsed (s : State) (c : Nat) : Nat :=
  ((s.core c).wgs.map (fun e => tileCount (s.task e.2.task).desc.tiles)).foldl (· + ·) 0

/-- The copy slots of a core that no workgroup holds and no copy occupies. -/
def Core.freeCopies (x : Core) : List Nat :=
  (List.range 32).filter (fun k => (Tab.find x.copies k).isNone && !x.wgs.any (fun e => e.2.csl.contains k))

/-- Whether a core in service holds a workgroup of a kernel, with `warps` of its warps, at this moment. -/
def State.fits (s : State) (c : Nat) (d : Desc) : Bool :=
  let x := s.core c
  let q0 := x.startQuad
  let share (q : Nat) : Nat := ((List.range d.warps).filter (fun w => (q0 + w) % 4 = q)).length
  x.wgs.length < 32 && s.framesUsed c + d.scratch ≤ 64 && s.tilesUsed c + tileCount d.tiles ≤ 8 &&
  d.cslots ≤ x.freeCopies.length &&
  (List.range 4).all (fun q => share q ≤ (x.freeSlots q).length && s.blocks c q + share q * d.regs ≤ 128)

/-- The sets of stops that a gang of a size may take on a die, in the order of their rank-0 cores (R49). -/
def stopSets (d g : Nat) : List (List Nat) :=
  let cs := coresOf d
  match g with
  | 1 => cs.map (fun c => [c])
  | 2 => (cs.filter (fun c => c % 2 = 0)).map (fun c => [c, c + 1])
  | _ => (cs.filter (fun c => c % 2 = 0 && c / 16 % 2 = 0)).map (fun c => [c, c + 1, c + 16, c + 17])

/-- The stop sets whose cores are all in service (R54). -/
def State.inService (s : State) (d g : Nat) : List (List Nat) :=
  (stopSets d g).filter (fun cs => cs.all (fun c => !(s.core c).retired))

/-- The set with the smallest measure, the first on a tie. -/
def fewest (m : List Nat → Nat) : List (List Nat) → Option (List Nat)
  | [] => none
  | x :: xs => some (xs.foldl (fun b y => if m y < m b then y else b) x)

/-- The resident warps, and workgroups, over the cores of a set. -/
def State.warpsOn (s : State) (cs : List Nat) : Nat := (cs.map (fun c => (s.core c).warps.length)).foldl (· + ·) 0
def State.wgsOn (s : State) (cs : List Nat) : Nat := (cs.map (fun c => (s.core c).wgs.length)).foldl (· + ·) 0

/-- The backing pages that a workgroup needs, and those free now, lowest first (R59). -/
def Desc.backingNeed (d : Desc) : Nat := d.scratch + 18 * tileCount d.persist
def Device.freeBacking (x : Device) (n : Nat) : List Nat :=
  (((List.range x.sbpages).filter (fun p => !x.backingUsed.contains p))).take n

/-! ### The order of units (R50, R55). -/

/-- A unit that waits for placement: its rank, its task and unit, and whether it is a pre-empted one. -/
structure Cand where
  rank : Nat
  task : Nat
  unit : Nat
  saved : Bool
  deriving DecidableEq, Repr, Inhabited

/-- The rank-0 workgroup, by linear index, of a task's n-th unit (R17, R50): gangs are formed along X. -/
def Task.unitAt (x : Task) (n : Nat) : Nat := n * x.gang

/-- Whether a pre-empted unit holds a member of a group on which some warp is parked (R55). -/
def State.awaited (s : State) (u : SavedUnit) : Bool :=
  u.wgs.any (fun g => g.warps.any (fun w =>
    let m : Member := ⟨u.task, g.wg.linear, w.warpId⟩
    let refs := GroupRef.wg u.task g.wg.linear :: .gang u.task u.unit :: (s.groupsOf m).map .named
    w.alive && refs.any (fun r => !(s.phase r).arrivals.isEmpty)))

/-- Whether one candidate goes before another. -/
def State.before (s : State) (d : Nat) (a b : Cand) : Bool :=
  let pa := s.effPrio d a.task
  let pb := s.effPrio d b.task
  let oa := (s.task a.task).order
  let ob := (s.task b.task).order
  a.rank < b.rank || (a.rank = b.rank && (pb < pa || (pa = pb && (oa < ob || (oa = ob && a.unit < b.unit)))))

/-- A unit put in its place among those that wait (R55). -/
def State.insertCand (s : State) (d : Nat) (c : Cand) : List Cand → List Cand
  | [] => [c]
  | x :: xs => if s.before d c x then c :: x :: xs else x :: s.insertCand d c xs

/-- All units of a device that wait for placement, in order. -/
def State.waiting (s : State) (d : Nat) : List Cand :=
  let old := (s.device d).preempted.map (fun u => (⟨if s.awaited u then 1 else 2, u.task, u.unit, true⟩ : Cand))
  let new := (s.tasks.filter (fun t => t.2.dev = d && t.2.phase = .running && t.2.nextUnit < t.2.units)).map
    (fun t => (⟨3, t.1, t.2.unitAt t.2.nextUnit, false⟩ : Cand))
  (old ++ new).foldl (fun l c => s.insertCand d c l) []

/-! ### Targets (R54, R56, R279). -/

/-- The gang size of a candidate. -/
def State.candGang (s : State) (c : Cand) : Nat := if (s.task c.task).kind = 1 then 1 else (s.task c.task).gang

/-- Whether a set of stops holds a unit now. -/
def State.holds (s : State) (cs : List Nat) (c : Cand) : Bool :=
  if (s.task c.task).kind = 1 then cs.all (fun k => !(s.core k).freeCopies.isEmpty)
  else cs.all (fun k => s.fits k (s.task c.task).desc)

/-- Whether the backing pages of a unit are free; a pre-empted unit keeps its own. -/
def State.backed (s : State) (d : Nat) (c : Cand) : Bool :=
  let x := s.task c.task
  c.saved || x.kind = 1 ||
    ((s.device d).freeBacking (x.desc.backingNeed * x.gang)).length = x.desc.backingNeed * x.gang

/-- Where a unit goes now (R54): the fitting set with the fewest resident warps, outside the barred cores. -/
def State.spotFor (s : State) (d : Nat) (c : Cand) (barred : List Nat) : Option (List Nat) :=
  if !s.backed d c then none
  else fewest s.warpsOn ((s.inService d (s.candGang c)).filter (fun cs =>
    cs.all (fun k => !barred.contains k) && s.holds cs c))

/-- The target reserved for a unit (R56). -/
def State.targetFor (s : State) (d : Nat) (c : Cand) : List Nat :=
  (fewest s.wgsOn (s.inService d (s.candGang c))).getD []

/-- The first unit of the order, which cannot be placed, reserves a target; a device holds at most one reservation. The unit's
STALL cycles of waiting count from the making of the reservation (log 48). -/
def State.reserve (s : State) (d : Nat) (first : Cand) : State :=
  let x := s.device d
  match x.reserv with
  | some _ => s
  | none => s.setDevice d { x with reserv := some { task := first.task, unit := first.unit,
                                                    cores := s.targetFor d first, since := s.counted d } }

/-- A reservation stands until its unit is placed; one whose unit waits no more is dropped. -/
def State.keepReserv (s : State) (d : Nat) : State :=
  let x := s.device d
  s.setDevice d { x with reserv := x.reserv.filter (fun r => (s.waiting d).any (fun c => r.task = c.task && r.unit = c.unit)) }

/-- The cores that a unit may not be placed on: the target reserved for another one (R56, R62). -/
def Device.barred (x : Device) (c : Cand) : List Nat :=
  match x.reserv with
  | some r => if r.task = c.task && r.unit = c.unit then [] else r.cores
  | none => []

/-- The unit that the dispatcher places next, and where: the first of the order that fits outside another's target. When
the first of all does not fit and no target is reserved, it reserves one. -/
def State.choose (s : State) (d : Nat) : Option (Cand × List Nat) × State :=
  let s := s.keepReserv d
  match s.waiting d with
  | [] => (none, s)
  | first :: others =>
    let spot (s : State) (c : Cand) : Option (Cand × List Nat) :=
      (s.spotFor d c ((s.device d).barred c)).map (fun cs => (c, cs))
    match spot s first with
    | some p => (some p, s)
    | none =>
      let s := s.reserve d first
      (others.findSome? (spot s), s)

/-! ### Setting up (R52, R58, R59). -/

/-- The slots of the warps of a workgroup, by WARPID (R52): the lowest free slot of each one's quadrant. -/
def Core.takeSlots (x : Core) (q0 : Nat) : Nat → List Nat → List Nat
  | 0, acc => acc.reverse
  | n + 1, acc =>
    let q := (q0 + acc.length) % 4
    let k := ((x.freeSlots q).filter (fun k => !acc.contains k)).headD 0
    Core.takeSlots x q0 n (k :: acc)

/-- A warp at placement, with its mark where it has one (R58, R370). -/
def State.newWarp (s : State) (t wg warpId k : Nat) (saved : Option SavedWarp) : Warp :=
  let code : Word64 := BitVec.ofNat 64 (s.task t).desc.code
  let mark := saved.bind (fun w => w.mark)
  let mask := (mark.map (fun m => m.mask)).getD (BitVec.allOnes 32)
  let pc := (mark.map (fun m => m.pc)).getD code
  let f : Frag := { mask := mask, pc := pc, arrived := pc, stamp := s.now, nextIssue := s.now }
  { wg := wg, warpId := warpId, frags := [(k % 32, f)], exited := ~~~mask, mark := mark
    xst := (saved.map (fun w => w.xst)).getD 0
    restoring := ((mark.map (fun m => saveSet m.save)).getD []).zipIdx }

/-- The coordinates of a workgroup (R24). -/
def Task.coords (x : Task) (linear : Nat) : Nat × Nat × Nat :=
  (linear % x.gridX, linear / x.gridX % x.gridY, linear / x.gridX / x.gridY)

/-- A workgroup takes its place on a core. -/
def State.placeWg (s : State) (c t unit rank : Nat) (old : Option SavedWg) : State :=
  let x := s.core c
  let k := s.task t
  let d := k.desc
  let linear := unit + rank
  let e := (firstFree x.wgs.keys 0 32).getD 0
  let warps : List (Nat × Option SavedWarp) := match old with
    | some (g : SavedWg) => (g.warps.filter (fun w => w.alive)).map (fun w => (w.warpId, some w))
    | none => (List.range d.warps).map (fun w => (w, none))
  let slots := x.takeSlots x.startQuad d.warps []
  let mine := warps.map (fun w => (w.1, w.2, slots.getD w.1 0))
  let (wx, wy, wz) := k.coords linear
  let dev := s.device k.dev
  let backing := match old with
    | some g => g.wg.backing
    | none => dev.freeBacking d.backingNeed
  let base := match old with
    | some g => { g.wg with preempt := none, broken := none, pinned := [], scratch := [], tiles := [], scales := [],
                            keeper := [], written := [], tileOps := [] }
    | none => ({} : Workgroup)
  let g : Workgroup := { base with
    task := t, unit := unit, linear := linear, wgx := wx, wgy := wy, wgz := wz, rank := rank
    rplc := (x.placements + 1) % 2 ^ 32, slots := mine.map (fun w => w.2.2), csl := x.freeCopies.take d.cslots
    backing := backing }
  let ws := mine.foldl (fun ws w => Tab.set ws w.2.2 (s.newWarp t e w.1 w.2.2 w.2.1)) x.warps
  let s := s.setCore c { x with wgs := Tab.set x.wgs e g, warps := ws, placements := (x.placements + 1) % 2 ^ 32 }
  match old with
  | some _ => s
  | none =>
    let s := s.setDevice k.dev { s.device k.dev with backingUsed := backing ++ dev.backingUsed }
    s.setTask t { s.task t with alive := Tab.set (s.task t).alive linear (List.range d.warps) }

/-- The persistent tiles of a restored workgroup are loaded from its backing (R297). -/
def State.loadTiles (s : State) (c e : Nat) : State :=
  let g := s.wg c e
  let d := (s.task g.task).desc
  (List.range 4).foldl (fun s t =>
    if !d.persist.getLsbD t then s
    else match s.readBacking c g.task (g.tilePages d t) 0 0 with
      | (.ok v, s) =>
        let row (r : Nat) : List Word32 :=
          (List.range 192).map (fun i => BitVec.ofNat 32 (v / 2 ^ (32 * (192 * r + i))))
        s.setWg c e ((List.range 96).foldl (fun g r => g.setRow t r (row r)) (s.wg c e))
      | (.error x, s) => s.setWg c e { s.wg c e with broken := some x }) s

/-- A reservation that its unit no longer needs is dropped. -/
def State.dropReserv (s : State) (d : Nat) (c : Cand) : State :=
  let x := s.device d
  match x.reserv with
  | some r => if r.task = c.task && r.unit = c.unit then s.setDevice d { x with reserv := none } else s
  | none => s

/-- A new unit is placed whole (R50, R51, R58). -/
def State.placeUnit (s : State) (d : Nat) (c : Cand) (cs : List Nat) : State :=
  let s := s.dropReserv d c
  let s := s.setTask c.task { s.task c.task with nextUnit := (s.task c.task).nextUnit + 1 }
  cs.zipIdx.foldl (fun s k => s.placeWg k.1 c.task c.unit k.2 none) s

/-- A COPY task takes a copy slot (R279): one byte elements, no alignment rule. -/
def State.placeCopy (s : State) (d : Nat) (c : Cand) (core : Nat) : State :=
  let x := s.task c.task
  let p := x.payload
  let n := x.word (p + 2)
  let copy : Copy := { src := Shape.linear (x.word p) 0 n, dst := Shape.linear (x.word (p + 1)) 0 n
                       origin := [0, 0, 0, 0], cw := BitVec.ofNat 64 (x.word (p + 3)), it := [n, 1, 1, 1]
                       task := c.task, isTask := true }
  let s := (s.dropReserv d c).setTask c.task { x with nextUnit := 1 }
  s.setCopy core ((s.core core).freeCopies.headD 0) copy

/-- A warp of a unit that will not be restored leaves its groups (R347). -/
def State.departSaved (s : State) (u : SavedUnit) : State :=
  u.wgs.foldl (fun s g => g.warps.foldl (fun s w =>
    if w.alive then s.departAll ⟨u.task, g.wg.linear, w.warpId⟩ u.unit false else s) s) s

/-- The units of a task that can never be placed (R54, R59), pre-empted ones too: the task ends with the status once its
resident units have. What a pre-empted unit keeps is freed. -/
def State.refuseUnits (s : State) (t status : Nat) : State :=
  let x := s.task t
  let d := s.device x.dev
  let gone := d.preempted.filter (fun u => u.task = t)
  let pages := gone.flatMap (fun u => u.wgs.flatMap (fun g => g.wg.backing))
  let s := s.setDevice x.dev { d with preempted := d.preempted.filter (fun u => u.task != t)
                                      backingUsed := d.backingUsed.filter (fun p => !pages.contains p) }
  let s := gone.foldl State.departSaved s
  let left := x.left - (x.units - x.nextUnit) * x.gang - (gone.map (fun u => u.wgs.length)).foldl (· + ·) 0
  let s := s.setTask t { s.task t with
    status := if x.status = 0 then status else x.status, phase := .ending, nextUnit := max x.nextUnit x.units, left := left }
  if status = 0x32 then s.logEvent { cause := 0x309, task := some t } else s

/-- Why the next unit of a task, or a pre-empted one, can never be placed, if so. -/
def State.neverFits (s : State) (d : Nat) (c : Cand) : Option Nat :=
  let x := s.task c.task
  if (s.inService d (s.candGang c)).isEmpty then some 0x30
  else if !c.saved && x.kind = 0 && (s.device d).sbpages < x.desc.backingNeed * x.gang then some 0x32
  else none

/-! ### Restoration (R370). -/

/-- The saved registers of a restored warp are read back, in order, as far as they can be now. -/
def State.restoreRegs (s : State) (c k : Nat) : Nat → State
  | 0 => s
  | n + 1 =>
    let w := s.warp c k
    let key := (w.frags.headD (0, {})).1
    match w.restoring with
    | [] => s
    | (r, j) :: rest =>
      let s := s.focusOn c k key
      let va := s.frameSlot j
      match s.access (s.laneActor 7 (lowLane s.active)) none va (.read 8) with
      | (.ok v, s) =>
        let w := s.warp c k
        let s := s.setWarp c k { w with sregs := Tab.set w.sregs r (BitVec.ofNat 64 v), restoring := rest }
        (s.setF { s.f with park := .none }).restoreRegs c k n
      | (.fault e, s) => s.faultWarp c k e 0 (BitVec.ofNat 64 va) 0
      | (.pager h, s) => s.setF { s.f with park := .pager { h with data := BitVec.ofNat 64 va } }
      | (.stall p, s) => s.setF { s.f with park := .reclass p }
      | (.remote i, s) => s.setF { s.f with park := .peer i }

/-- A pre-empted unit is placed again (R297, R370). -/
def State.restoreUnit (s : State) (d : Nat) (c : Cand) (cs : List Nat) : State :=
  let x := s.device d
  match x.preempted.find? (fun u => u.task = c.task && u.unit = c.unit) with
  | none => s
  | some u =>
    let s := (s.dropReserv d c)
    let s := s.setDevice d { s.device d with preempted := x.preempted.filter (fun v => v != u) }
    let s := u.wgs.foldl (fun s g => s.placeWg (cs.getD g.wg.rank 0) c.task c.unit g.wg.rank (some g)) s
    let s := s.logEvent { cause := 0x002, src := d, core := cs.headD 0, task := some c.task, counts := false }
    cs.foldl (fun s k => (s.core k).wgs.foldl (fun s e =>
      if e.2.task = c.task && e.2.unit = c.unit then
        e.2.slots.foldl (fun s w => s.restoreRegs k w 64) (s.loadTiles k e.1) else s) s) s

/-! ### The dispatcher's steps. -/

/-- A unit is placed, or placed again. -/
def State.settleUnit (s : State) (d : Nat) (c : Cand) (cs : List Nat) : State :=
  if c.saved then s.restoreUnit d c cs
  else if (s.task c.task).kind = 1 then s.placeCopy d c (cs.headD 0)
  else s.placeUnit d c cs

/-- The units of the order that can never be placed, while they still wait, end their tasks. -/
def State.refuseNever (s : State) (d : Nat) : State :=
  (s.waiting d).foldl (fun s c => match s.neverFits d c with
    | some st => if (s.waiting d).any (fun x => x.task = c.task && x.unit = c.unit) then s.refuseUnits c.task st else s
    | none => s) s

/-- A dispatcher step: the tasks with a unit that can never be placed end, and the next unit of the order, if it is one that
`want` names, is placed. -/
def State.dispatcherStep (s : State) (d : Nat) (want : Cand → Bool) : State :=
  if s.module.fatal.isSome || (s.device d).drst then s
  else match (s.refuseNever d).choose d with
    | (some (c, cs), s) => if want c then s.settleUnit d c cs else s
    | (none, s) => s

/-- UNIT_PLACEMENT. -/
def execUnitPlacement (dev : Fin 4) (s : State) : Host.Outcome State Fault Refusal :=
  .next (s.dispatcherStep dev.val (fun c => !c.saved))

/-- UNIT_RESTORE. -/
def execUnitRestore (dev : Fin 4) (s : State) : Host.Outcome State Fault Refusal :=
  .next (s.dispatcherStep dev.val (fun c => c.saved))

/-- Whether a step has freed something of a die that placement counts (R51, R60): warp slots, workgroup entries, copy slots. -/
def State.freed (before after : State) (d : Nat) : Bool :=
  before.cores.any (fun e =>
    let x := after.core e.1
    dieOf e.1 = d && (x.warps.length < e.2.warps.length || x.wgs.length < e.2.wgs.length || x.copies.length < e.2.copies.length))

/-- Freed resources serve the next unit of the order in the same step (R60). -/
def State.serveFreed (before after : State) : State :=
  [0, 1, 2, 3].foldl (fun s d => if before.freed after d then s.dispatcherStep d (fun _ => true) else s) after

/-! ### Release (R60). -/

/-- Whether a delivery item that has started lands in a workgroup and has not ended (R278). -/
def State.landing (s : State) (c e : Nat) : Bool :=
  s.cores.any (fun n => n.2.copies.any (fun k => k.2.items.any (fun i =>
    landCore i.handle = c && landWg i.handle = e && landStamp i.handle = (s.wg c e).rplc && !i.done.isEmpty && !i.ended)))

/-- Whether an engine operation of a workgroup is still under way (R60): its own copies, also those that it left behind when it
was pre-empted (R280), its shuffles, and delivery items that have started to land in it. -/
def State.wgBusy (s : State) (c e : Nat) : Bool :=
  let g := s.wg c e
  s.cores.any (fun n => n.2.copies.any (fun k => !k.2.isTask && k.2.task = g.task && k.2.linear = g.linear)) ||
  (s.core c).shuffles.any (fun k => k.wg = e && k.rplc = g.rplc && k.task = g.task) || s.landing c e

/-- WORKGROUP_RELEASE: the last warp has ended and the engine operations are done. -/
def execWorkgroupRelease (core : Fin 192) (wg : Fin 32) (s : State) : Host.Outcome State Fault Refusal :=
  let c := core.val
  match Tab.find (s.core c).wgs wg.val with
  | none => .next s
  | some g =>
    if !g.slots.isEmpty || s.wgBusy c wg.val then .next s
    else
      let x := s.device (dieOf c)
      let s := s.setCore c { s.core c with wgs := Tab.del (s.core c).wgs wg.val }
      let more := s.cores.any (fun k => k.2.wgs.any (fun e => e.2.task = g.task && e.2.unit = g.unit))
      let s := s.setDevice (dieOf c) { x with
        backingUsed := x.backingUsed.filter (fun p => !g.backing.contains p)
        preq := if more then x.preq else x.preq.filter (fun u => u != (g.task, g.unit)) }
      let t := s.task g.task
      .next (s.setTask g.task { t with left := t.left - 1 })

end Sys2Proof.Machine
end

