-- ==== Sys2Proof/Machine/Preempt.lean ====
section
/-! DEFINITION. Pre-emption (R297, R366 to R369, R371), the residency-deadlock check (R56) and ageing (R55). -/

namespace Sys2Proof.Machine

/-! ### Units and commitment. -/

/-- The resident workgroups of a unit: cores and entries. -/
def State.unitOf (s : State) (t unit : Nat) : List (Nat × Nat) :=
  s.cores.flatMap (fun c => (c.2.wgs.filter (fun e => e.2.task = t && e.2.unit = unit)).map (fun e => (c.1, e.1)))

/-- Whether an instruction in progress commits its warp by what it has done: DMASK, or the MP of an MST (R367). -/
def Flight.commitsNow (fl : Flight) : Bool :=
  (fl.keep && fl.done != 0) || (fl.commits && fl.step.getD 0 != 0)

end Sys2Proof.Machine

namespace Sys2Proof.Machine

/-- Whether a warp is committed (R367). -/
def Warp.isCommitted (w : Warp) : Bool :=
  w.committed || w.progress.dmask != 0 || (w.progress.mst && w.progress.mp != 0) ||
  w.frags.any (fun e => (e.2.flight.map Flight.commitsNow).getD false)

/-- Whether the writes of a REGION of the warp are under way (R368). -/
def Warp.inRegion (w : Warp) : Bool :=
  w.frags.any (fun e => e.2.flight.isSome && match e.2.words.head? with
    | some d => d.op == 0xDA
    | none => false)

/-! ### The request (R368). -/

/-- The accesses of an instruction in progress that only reads are performed, and what they return is dropped (R368). -/
def State.performLoads (s : State) (c k : Nat) (f : Frag) (key : Nat) : State :=
  match f.flight with
  | none => s
  | some fl =>
    let s := s.focusOn c k key
    fl.reqs.foldl (fun s r => match r.op with
      | .read _ => if r.scr || f.park.waits then s else (s.access (s.laneActor fl.type r.lane) (r.via.map (fun e => e.leaf)) r.va r.op).2
      | _ => s) s

/-- A tile operation that has issued and reads no more memory runs to its end (R297): an MWR, an MZERO, and an MSCL whose reads
have all completed. -/
def State.finishTile (s : State) (w : DWord) : State :=
  let ended (r : Host.Outcome State Fault Refusal) : State := match r with
    | .next t => if t.focus.out = .done then t else s
    | _ => s
  match w.instr with
  | .mwrR o => ended (execMwrR o s)
  | .mwrI o => ended (execMwrI o s)
  | .mzero o => ended (execMzero o s)
  | .mscl o =>
    let fl := s.f.flight.getD {}
    if fl.whole.isEmpty || !fl.reqs.isEmpty then s
    else s.putScales (o.d.toNat % 4) (bitsOf (s.S o.b).toNat 2 0) (bitsOf (s.S o.b).toNat 6 3) (s.S o.a).toNat fl
  | _ => s

/-- The tile operations that a fragment has issued run to their ends. -/
def State.finishTiles (s : State) (c k key : Nat) : State :=
  (s.frag c k key).words.foldl (fun s w => (s.focusOn c k key).finishTile w) s

/-- An uncommitted warp is discarded: its outstanding loads are performed, its tile operations end, its waits and arrivals are withdrawn, its requests
are dropped, and nothing is left of it but its mark. -/
def State.discardWarp (s : State) (c k : Nat) : State :=
  let keys := (s.warp c k).frags.keys
  let s := (s.warp c k).frags.foldl (fun s e => s.performLoads c k e.2 e.1) s
  let s := keys.foldl (fun s f => s.finishTiles c k f) s
  let s := keys.foldl (fun s f => s.withdraw c k f) s
  let s := s.dropReqs c k true
  let s := keys.foldl (fun s f => s.freeSplit c (k / 32) f) s
  s.setWarp c k { s.warp c k with pend := [], frags := [], tokens := [], hidden := [], progress := {}, restoring := [],
                                  debugParked := none, kept := true }

/-- The request reaches a warp of the unit. -/
def State.requestWarp (s : State) (c k : Nat) : State :=
  let w := s.warp c k
  let s := s.setWarp c k { w with heldCycles := 0 }
  if w.kept || w.isCommitted || w.inRegion then s else s.discardWarp c k

/-- A request for a unit; a second one changes nothing (R369). -/
def State.requestUnit (s : State) (t unit : Nat) : State :=
  (s.unitOf t unit).foldl (fun s p =>
    let g := s.wg p.1 p.2
    if g.preempt.isSome then s
    else g.slots.foldl (fun s k => s.requestWarp p.1 k)
      (s.setWg p.1 p.2 { g with preempt := some (s.counted (dieOf p.1)) })) s

/-- PREEMPTION_REQUEST: it waits while the die is halted (R373). -/
def execPreemptionRequest (dev : Fin 4) (s : State) : Host.Outcome State Fault Refusal :=
  let d := dev.val
  let x := s.device d
  if x.dhalt then .next s
  else match x.preq.find? (fun u => (s.unitOf u.1 u.2).any (fun p => (s.wg p.1 p.2).preempt.isNone)) with
    | some u => .next (s.requestUnit u.1 u.2)
    | none => .next s

/-! ### Saving (R280, R297, R368). -/

/-- Whether a workgroup's operations on its own scratch have ended (R280): its copies with an end in its window, its
shuffles, and the delivery items that have started to land there. -/
def State.scratchQuiet (s : State) (c e : Nat) : Bool :=
  let x := s.core c
  let g := s.wg c e
  !x.copies.any (fun k => k.2.wg = some e && k.2.rplc = g.rplc && k.2.task = g.task && (k.2.srcScr || k.2.dstScr)) &&
  !x.shuffles.any (fun k => k.wg = e && k.rplc = g.rplc && k.task = g.task) && !s.landing c e

/-- A page of the window goes to its backing page. -/
def State.savePage (s : State) (c e p : Nat) : State :=
  let g := s.wg c e
  match s.writeBacking c g.task [g.backing.getD p 0] (Memory.read g.scratch (4096 * p) 4096) with
  | (.ok _, s) => s
  | (.error x, s) => s.setWg c e { s.wg c e with broken := some x }

/-- A persistent tile goes to its backing, unless a snapshot of it stands there since its keeper's mark (R297). -/
def State.saveTile (s : State) (c e t : Nat) : State :=
  let g := s.wg c e
  let d := (s.task g.task).desc
  if !d.persist.getLsbD t || g.written.contains t then s
  else match s.writeBacking c g.task (g.tilePages d t) (g.tileBytes t) with
    | (.ok _, s) => s
    | (.error x, s) => s.setWg c e { s.wg c e with broken := some x }

/-- The scratch pages and tiles of a workgroup go to its backing. -/
def State.saveData (s : State) (c e : Nat) : State :=
  (List.range 4).foldl (fun s t => s.saveTile c e t) ((s.wg c e).pinned.foldl (fun s p => s.savePage c e p) s)

/-- What CT records of a workgroup. -/
def State.savedWg (s : State) (c e : Nat) : SavedWg :=
  let g := s.wg c e
  { wg := { g with scratch := [], pinned := [], tiles := [], scales := [], keeper := [], written := [], tileOps := [],
                   slots := [], csl := [], preempt := none }
    warps := g.slots.map (fun k =>
      let w := s.warp c k
      { warpId := w.warpId, mark := w.mark, exited := w.exited, xst := w.xst }) }

/-- A saved workgroup leaves its core, and the split entries of its warps are freed. -/
def State.leaveCore (s : State) (c e : Nat) : State :=
  let g := s.wg c e
  let s := g.slots.foldl (fun s k => (s.warp c k).frags.foldl (fun s f => s.freeSplit c (k / 32) f.1) s) s
  let x := s.core c
  s.setCore c { x with wgs := Tab.del x.wgs e, warps := x.warps.filter (fun w => !g.slots.contains w.1) }

/-- A unit whose data stands in its backing is recorded, and its resources are freed. -/
def State.saveUnit (s : State) (d t unit : Nat) (wgs : List (Nat × Nat)) : State :=
  let u : SavedUnit := { task := t, unit := unit, wgs := wgs.map (fun p => s.savedWg p.1 p.2) }
  let core := (wgs.headD (0, 0)).1
  let x := s.device d
  let s := s.setDevice d { x with
    preempted := x.preempted ++ [u], pdone := bump32 x.pdone, preq := x.preq.filter (fun u => u != (t, unit)) }
  let s := wgs.foldl (fun s p => s.leaveCore p.1 p.2) s
  s.logEvent { cause := 0x001, src := d, core := core, task := some t, counts := false }

/-- PREEMPTION_SAVE: every warp of the unit has been kept, discarded or has ended, and some warp is left of it. -/
def execPreemptionSave (core : Fin 192) (wg : Fin 32) (s : State) : Host.Outcome State Fault Refusal :=
  match Tab.find (s.core core.val).wgs wg.val with
  | none => .next s
  | some g =>
    let wgs := s.unitOf g.task g.unit
    let ready := wgs.all (fun p => (s.wg p.1 p.2).preempt.isSome && s.scratchQuiet p.1 p.2 &&
      (s.wg p.1 p.2).slots.all (fun k => (s.warp p.1 k).kept))
    if !ready || wgs.all (fun p => (s.wg p.1 p.2).slots.isEmpty) then .next s
    else
      let s := wgs.foldl (fun s p => s.saveData p.1 p.2) s
      if wgs.any (fun p => (s.wg p.1 p.2).broken.isSome) then .next s
      else .next (s.saveUnit (dieOf core.val) g.task g.unit wgs)

/-! ### The deadline (R369). -/

/-- PREEMPT_DEADLINE. -/
def execPreemptDeadline (core : Fin 192) (slot : Fin 128) (s : State) : Host.Outcome State Fault Refusal :=
  let c := core.val
  let k := slot.val
  match Tab.find (s.core c).warps k with
  | none => .next s
  | some w =>
    let d := dieOf c
    let x := s.device d
    match (s.wg c w.wg).preempt with
    | none => .next s
    | some t =>
      if w.kept || x.dhalt || s.counted d < t + w.heldCycles + 1024 * x.pdl then .next s
      else .next ((s.setDevice d { x with pkill := bump32 x.pkill }).faultWarp c k 0x303 w.trapPc w.trapData 0)

/-! ### Residency deadlocks (R56). -/

/-- Whether a fragment has waited throughout the last `n` cycles: in one of the four ways, or at a join. -/
def Frag.waitedFor (f : Frag) (now n : Nat) : Bool :=
  match f.park with
  | .join since => since + n ≤ now
  | p => p.waits && f.parkedAt + n ≤ now

/-- Whether a warp has been parked throughout the last `n` cycles. A debug-parked warp is not parked (R364). -/
def Warp.parkedFor (w : Warp) (now n : Nat) : Bool :=
  w.debugParked.isNone && w.frags.all (fun e => e.2.waitedFor now n) && w.frags.any (fun e => e.2.park.waits)

/-- The fragment of a warp that takes cause 0x301: the lowest that waits. -/
def State.lowestWait (s : State) (c k : Nat) : Option Nat := ((s.warp c k).frags.find? (fun e => e.2.park.waits)).map (fun e => e.1)

/-- The waits of a warp of the target are withdrawn: each of those fragments stops before its instruction, which it issues again
when the handler level ends, and the one that takes the cause, `f`, stands at its own. -/
def State.stopWaits (s : State) (c k f : Nat) : State :=
  let waits := ((s.warp c k).frags.filter (fun e => e.2.park.waits)).map (fun e => e.1)
  let s := waits.foldl (fun s g => s.withdraw c k g) s
  let s := waits.foldl (fun s g => s.setFrag c k g { s.frag c k g with park := .none, flight := none, again := true }) s
  s.setFrag c k f { s.frag c k f with stopped := none, again := false }

/-- Every warp of the target takes cause 0x301: all their waits are withdrawn first, so that the end of one warp, which departs from
its groups, ends no wait of another. -/
def State.deadlockWarps (s : State) (warps : List (Nat × Nat)) : State :=
  let hit := warps.filterMap (fun p => (s.lowestWait p.1 p.2).map (fun f => (p.1, p.2, f)))
  let s := hit.foldl (fun s p => s.stopWaits p.1 p.2.1 p.2.2) s
  hit.foldl (fun s p => (s.focusOn p.1 p.2.1 p.2.2).takeTrap 0x301 0 false) s

/-- RESIDENCY_DEADLOCK. A target on which no warp is resident is no deadlock: no warp there could take the cause (log 52). -/
def execResidencyDeadlock (dev : Fin 4) (s : State) : Host.Outcome State Fault Refusal :=
  let d := dev.val
  let x := s.device d
  match x.reserv with
  | none => .next s
  | some r =>
    let now := s.counted d
    let warps := r.cores.flatMap (fun c => (s.core c).warps.map (fun e => (c, e.1)))
    if x.stall = 0 || x.dhalt || now < r.since + x.stall || warps.isEmpty ||
        !warps.all (fun p => (s.warp p.1 p.2).parkedFor now x.stall) then .next s
    else
      let s := s.setDevice d { x with ndead := bump32 x.ndead }
      let s := s.logEvent { cause := 0x301, src := d, core := r.cores.headD 0, task := some r.task, counts := false }
      .next (s.deadlockWarps warps)

/-! ### Automatic pre-emption (R371). -/

/-- The resident unit on the target that automatic pre-emption chooses: the lowest effective priority below the reserved
unit's, then the lowest core and entry. -/
def State.victim (s : State) (d : Nat) (r : Reservation) : Option (Nat × Nat) :=
  let mine := s.effPrio d r.task
  let all := r.cores.flatMap (fun c => ((s.core c).wgs.filter (fun e => s.effPrio d e.2.task < mine)).map
    (fun e => (c, e.1, s.effPrio d e.2.task)))
  let best := all.foldl (fun (b : Option (Nat × Nat × Nat)) p => match b with
    | some q => if p.2.2 < q.2.2 then some p else b
    | none => some p) none
  best.map (fun b => (b.1, b.2.1))

/-- Whether the unit of the latest automatic request is still to be saved or to end (R371). -/
def State.autoOpen (s : State) (x : Device) : Bool :=
  match x.auto with
  | some u => (s.unitOf u.1 u.2).any (fun p => (s.wg p.1 p.2).preempt.isSome)
  | none => false

/-- AGEING_INTERVAL: effective priorities follow from the clock (R55); a reservation that has reached PTHR requests one
pre-emption at a time. -/
def execAgeingInterval (dev : Fin 4) (s : State) : Host.Outcome State Fault Refusal :=
  let d := dev.val
  let x := s.device d
  match x.reserv with
  | none => .next s
  | some r =>
    if !x.pauto || x.dhalt || s.autoOpen x || s.effPrio d r.task < x.pthr then .next s
    else match s.victim d r with
      | none => .next s
      | some (c, e) =>
        let g := s.wg c e
        .next ((s.setDevice d { x with auto := some (g.task, g.unit) }).requestUnit g.task g.unit)

end Sys2Proof.Machine
end

