-- ==== Sys2Proof/Machine/Debug.lean ====
section
/-! DEFINITION. The debugger (R364, R373, R374), the timers of fragments and groups (R105, R352, R375), and the event log's
host side (R381). -/

namespace Sys2Proof.Machine

/-! ### Halting (R373). -/

def execDebugHalt (dev : Fin 4) (s : State) : Host.Outcome State Fault Refusal := .next (s.writeHalt dev.val true)
def execDebugResume (dev : Fin 4) (s : State) : Host.Outcome State Fault Refusal := .next (s.writeHalt dev.val false)

/-! ### The debug registers (R374). -/

def Device.dcore (x : Device) : Nat := bitsOf x.dcmd.toNat 7 0
def Device.dslot (x : Device) : Nat := 32 * bitsOf x.dcmd.toNat 9 8 + bitsOf x.dcmd.toNat 14 10
def Device.dfile (x : Device) : Nat := bitsOf x.dcmd.toNat 16 15
def Device.dreg (x : Device) : Nat := bitsOf x.dcmd.toNat 28 17
def Device.dlane (x : Device) : Nat := bitsOf x.dcmd.toNat 33 29
def Device.dop (x : Device) : Nat := bitsOf x.dcmd.toNat 36 34

/-- The device clears DOP when it is done. -/
def State.dopDone (s : State) (d : Nat) : State :=
  let x := s.device d
  s.setDevice d { x with dcmd := BitVec.ofNat 64 (x.dcmd.toNat % 2 ^ 34) }

def State.dopFail (s : State) (d : Nat) : State :=
  let s := s.dopDone d
  s.setDevice d { s.device d with derr := true }

/-- The warp that the debug registers name, if an operation may touch it: halted or debug-parked (R374). -/
def State.debugWarp (s : State) (d : Nat) : Option Warp :=
  let x := s.device d
  if dieOf x.dcore != d || 192 ≤ x.dcore then none
  else match Tab.find (s.core x.dcore).warps x.dslot with
    | some w => if s.halted d || w.debugParked.isSome then some w else none
    | none => none

/-- The lanes of a warp that have not exited. -/
def Warp.live (w : Warp) : BitVec 32 := w.frags.foldl (fun m e => m ||| e.2.mask) 0

/-- Whether every write that a warp has issued has completed (R100): until then an operation on its registers waits. -/
def Warp.quiet (w : Warp) (now : Nat) : Bool := w.pend.all (fun p => p.due ≤ now)

/-- The register that DFILE, DREG and DLANE name, as DDATA shows it. -/
def State.debugRead (s : State) (d : Nat) (w : Warp) : Option Word64 :=
  let x := s.device d
  let r := x.dreg
  let w := w.retire s.now
  match x.dfile with
  | 0 => if r < 64 then some (Tab.get w.sregs 0 r) else none
  | 1 =>
    if r < 8 * (s.task (s.wg x.dcore w.wg).task).desc.regs then
      let l := Tab.get w.vregs {} (32 * r + x.dlane)
      some (BitVec.ofNat 64 (l.val.toNat + l.tag.code * 2 ^ 32))
    else none
  | 2 => if r = 0 then some (w.live.setWidth 64) else if r < 8 then some ((Tab.get w.kregs 0 r).setWidth 64) else none
  | _ =>
    if !sprAssigned r then none
    else if r = 0 then some (BitVec.ofNat 64 x.dlane)
    else
      let s := (s.setWarp x.dcore x.dslot w).focusOn x.dcore x.dslot (w.frags.keys.headD 0)
      some (s.readSpr r)

/-- The write that DDATA makes to the register named, if it may be made. k0, which reads the active lanes, is no
register that a write reaches. -/
def State.debugWrite (s : State) (d : Nat) (w : Warp) : Option RegWrite :=
  let x := s.device d
  let r := x.dreg
  let v := x.ddata
  match x.dfile with
  | 0 => if r < 64 then some (.s r v) else none
  | 1 =>
    let tag := bitsOf v.toNat 35 32
    if r < 8 * (s.task (s.wg x.dcore w.wg).task).desc.regs && !(12 ≤ tag && tag ≤ 14) then
      some (.v r x.dlane ⟨v.setWidth 32, Tag.ofCode tag⟩)
    else none
  | 2 => if 0 < r && r < 8 then some (.k r (BitVec.allOnes 32) (v.setWidth 32)) else none
  | _ => if r = 0x011 || r = 0x012 then some (.spr r v) else none

/-- DOP 1. -/
def execDebugRegRead (dev : Fin 4) (s : State) : Host.Outcome State Fault Refusal :=
  let d := dev.val
  if (s.device d).dop != 1 then .next s
  else match s.debugWarp d with
    | none => .next (s.dopFail d)
    | some w =>
      if !w.quiet s.now then .next s
      else match s.debugRead d w with
        | some v =>
          let s := s.dopDone d
          .next (s.setDevice d { s.device d with ddata := v })
        | none => .next (s.dopFail d)

/-- A write of the debugger completes now, after every write that the warp has issued; the words of a group that issued before read
what stood there then (R93, R97). -/
def Warp.debugPut (w : Warp) (now : Nat) (x : RegWrite) : Warp := { w with pend := addPending ⟨now, now, 8, x, false⟩ w.pend }

/-- DOP 2. -/
def execDebugRegWrite (dev : Fin 4) (s : State) : Host.Outcome State Fault Refusal :=
  let d := dev.val
  let x := s.device d
  if x.dop != 2 then .next s
  else match s.debugWarp d with
    | none => .next (s.dopFail d)
    | some w =>
      if !w.quiet s.now then .next s
      else match s.debugWrite d w with
        | some r => .next ((s.setWarp x.dcore x.dslot (w.debugPut s.now r)).dopDone d)
        | none => .next (s.dopFail d)

/-- A debug-parked warp resumes as by TRET (R363), with HD treated as 1 and M the lanes that parked. -/
def State.debugResume (s : State) (d : Nat) (next : Bool) : State :=
  let x := s.device d
  let (c, k) := (x.dcore, x.dslot)
  match (s.debugWarp d).bind (fun w => w.debugParked.map (fun m => (w, m))) with
  | none => s.dopFail d
  | some (w, m) =>
    let pc := (w.at s.now).trapPc
    let s := s.dopDone d
    let wake (f : Frag) : Frag := { f with again := false }
    match w.frags.find? (fun e => e.2.mask = m) with
    | none => s.setWarp c k { w with debugParked := none, frags := w.frags.map (fun e => (e.1, wake e.2)) }
    | some (key, f) =>
      let same := pc = f.pc
      let f := if !same then { f with pc := pc, arrived := f.pc, startGroup := 0, groupNo := 0 }
        else if next then { f with pc := f.pc + 12, arrived := f.pc, startGroup := 0, groupNo := 0 } else f
      let frags := (Tab.set w.frags key f).map (fun e => (e.1, wake e.2))
      let w := { w with debugParked := none, frags := frags, progress := { w.progress with armed := true } }
      let s := s.setWarp c k w
      if same && !next then s else s.clearProgress c k

/-- DOP 3. -/
def execDebugResumeNext (dev : Fin 4) (s : State) : Host.Outcome State Fault Refusal :=
  if (s.device dev.val).dop = 3 then .next (s.debugResume dev.val true) else .next s

/-- DOP 4. -/
def execDebugResumeTret (dev : Fin 4) (s : State) : Host.Outcome State Fault Refusal :=
  if (s.device dev.val).dop = 4 then .next (s.debugResume dev.val false) else .next s

/-- DOP 5. -/
def execDebugKill (dev : Fin 4) (s : State) : Host.Outcome State Fault Refusal :=
  let d := dev.val
  let x := s.device d
  if x.dop != 5 then .next s
  else match s.debugWarp d with
    | some w =>
      let v := w.at s.now
      .next ((s.dopDone d).faultWarp x.dcore x.dslot 0x30B v.trapPc v.trapData 0)
    | none => .next (s.dopFail d)

/-! ### Timers. -/

/-- JOIN_RELEASE (R105). -/
def execJoinRelease (f : FragRef) (s : State) : Host.Outcome State Fault Refusal :=
  match Tab.find (s.warp f.core f.slot).frags f.frag with
  | some x => match x.park, x.token with
    | .join since, some t =>
      if since + 4096 ≤ s.counted (dieOf f.core) then .next (s.mergeAt f.core f.slot t true) else .next s
    | _, _ => .next s
  | none => .next s

/-- SLEEP_EXPIRY (R375): from the cycle t + n on. -/
def execSleepExpiry (f : FragRef) (s : State) : Host.Outcome State Fault Refusal :=
  match Tab.find (s.warp f.core f.slot).frags f.frag with
  | some x => match x.park with
    | .sleep t n => if t + n ≤ s.counted (dieOf f.core) then .next (s.setFrag f.core f.slot f.frag x.finishWord) else .next s
    | _ => .next s
  | none => .next s

/-- GROUP_WATCHDOG (R352): one entry for a phase that stays open. -/
def execGroupWatchdog (index : Fin 4096) (s : State) : Host.Outcome State Fault Refusal :=
  let i := index.val
  let g := s.group i
  let gtmo := (s.device g.dev).gtmo
  match g.phase.since with
  | none => .next s
  | some t =>
    if !g.live || g.phase.reported || gtmo = 0 || s.now < t + 1024 * gtmo then .next s
    else
      let absent := (g.members.filter (fun m => (g.phase.of m).isNone)).length
      let s := s.setGroup i { g with phase := { g.phase with reported := true } }
      .next (s.logEvent { cause := 0x005, src := g.dev, item := absent, addr := BitVec.ofNat 64 g.phase.count,
                          aux := BitVec.ofNat 64 (groupHandleOf i g.gen).toNat })

/-! ### The event log (R381). -/

def execEventLogEnable (s : State) : Host.Outcome State Fault Refusal := .next s.enableLog
def execElheadWrite (value : BitVec 64) (s : State) : Host.Outcome State Fault Refusal :=
  .next (s.writeElhead value.toNat)

end Sys2Proof.Machine
end

