-- ==== Sys2Proof/Machine/Timing.lean ====
section
/-! DEFINITION. What a group needs to issue (R91, R94 to R99): the registers each word reads and writes, its pipe, latency and
occupancy, pending registers, and the checking scoreboard. -/

namespace Sys2Proof

/-- Whether a word has U = 1. -/
def Instr.uniform (i : Instr) : Bool := i.fields.1

/-- The pipe of a decoded word (R72, R81). -/
def DWord.pipe (d : DWord) : Option Pipe :=
  match opcodePipe d.op with
  | none => none
  | some p => some (if d.instr.uniform then .S else p)

/-- The place of a pipe in a quadrant's table. -/
def Pipe.index : Pipe → Nat
  | .S => 0 | .V => 1 | .T => 2 | .M => 3 | .B => 4 | .E => 5

end Sys2Proof

namespace Sys2Proof.Machine

/-- The registers that a word names as sources and destinations. -/
structure Uses where
  reads : List Reg := []
  writes : List Reg := []
  deriving Inhabited

def rs (r : BitVec 6) : Reg := (.s, r.toNat)
def rk (r : BitVec 6) : List Reg := if r.toNat % 8 = 0 then [] else [(.k, r.toNat % 8)]
def rb (r : Nat) : Reg := (.b, r % 8)
def rv (r n : Nat) : List Reg := (List.range n).map (fun j => (.v, r + j))

/-- Whether a vector register holds an f64 pair, by the tag of the lowest active lane. -/
def State.wide (s : State) (r : BitVec 6) : Bool := (s.V r.toNat (lowLane s.active)).tag == .f64l

/-- Whether a vector register holds a pair, f64 or complex, by the tag of the lowest active lane (R158). -/
def State.paired (s : State) (r : BitVec 6) : Bool := (s.V r.toNat (lowLane s.active)).tag.partner.isSome

/-- A vector operand, or a vector result made of it: a register, or a pair (R158). -/
def vreg (wide : Bool) (r : BitVec 6) : List Reg := rv r.toNat (if wide then 2 else 1)
def State.vsrc (s : State) (r : BitVec 6) : List Reg := vreg (s.wide r) r

/-- The registers of the address of a word of format M. -/
def addrRegs (o : OpM) (scratch : Bool) : List Reg :=
  (if scratch then [] else [rb o.base.toNat]) ++ if o.xk then [] else rv o.x.toNat 1

/-- The registers of an ATM's operands: pairs and the new values of `cas` (R225). -/
def State.atmUses (s : State) (op : BitVec 3) (d : BitVec 6) (addr : List Reg) : Uses :=
  let n := if s.wide d then 2 else 1
  { reads := rv d.toNat (if op = 7 then 2 * n else n) ++ addr, writes := rv d.toNat n }

/-- The scalar registers that a REGION saves (R366), if its save-set packet can be fetched now; if not, the word makes the test itself
once it has the packet. -/
def State.saveUses (s : State) (o : OpG) : List Reg :=
  match s.fetchWords (s.packetAt o.offI).toNat 3 [] with
  | .inr (ws, _) => (saveSet (ws.getD 1 0 ++ ws.getD 0 0)).map (fun r => (.s, r))
  | .inl _ => []

/-- What the word reads and writes (R91, R97, R98). -/
def State.uses (s : State) : Instr → Uses
  | .saddR o | .ssubR o | .smulR o | .smulh o | .sdiv o | .srem o | .sandR o | .sorR o | .sxorR o | .sshlR o | .sshrR o
  | .ssraR o | .sminR o | .smaxR o | .scmpR o | .sleaR o | .enq o => ⟨[rs o.a, rs o.b], [rs o.d]⟩
  | .ssel o => ⟨[rs o.a, rs o.b, rs o.d], [rs o.d]⟩
  | .smov o | .spopc o | .sclz o | .sbrev o => ⟨[rs o.a], [rs o.d]⟩
  | .saddI o | .smulI o | .sandI o | .sorI o | .sxorI o | .sshlI o | .sshrI o | .ssraI o | .scmpI o | .sminI o | .smaxI o
  | .sleaI o => ⟨[rs o.a], [rs o.d]⟩
  | .sli o => ⟨[], [rs o.d]⟩
  | .brc o => ⟨[rs o.a], []⟩
  | .brv o => ⟨if o.cc.toNat < 4 then rv o.a.toNat 1 else rk o.a, []⟩
  | .call _ => ⟨[], [(.s, 63)]⟩
  | .ret o => ⟨[rs o.a], []⟩
  | .jmpi o => ⟨[rs o.a], if o.m then [rs o.d] else []⟩
  | .mfs o => ⟨if o.immN = 0x011 || o.immN = 0x012 then [(.x, o.immN)] else [], if o.immN = 0 then rv o.d.toNat 1 else [rs o.d]⟩
  | .mts o => ⟨[rs o.d], [(.x, o.immN)]⟩
  | .tret _ => ⟨[(.x, 0x011)], []⟩
  | .region o => ⟨s.saveUses o, []⟩
  | .trapL o => ⟨[rs o.d], []⟩
  | .trapR o => ⟨[rs o.a, rs o.b], []⟩
  -- vectors
  | .vadd o | .vsub o =>
    ⟨vreg (s.paired o.a) o.a ++ vreg (s.paired o.b) o.b, vreg (s.paired o.a) o.d⟩
  | .vneg o | .vabs o => ⟨vreg (s.paired o.a) o.a, vreg (s.paired o.a) o.d⟩
  | .vmul o | .vdiv o | .vmin o | .vmax o => ⟨s.vsrc o.a ++ s.vsrc o.b, vreg (s.wide o.a) o.d⟩
  | .vfma o => ⟨s.vsrc o.a ++ s.vsrc o.b ++ s.vsrc (if o.cv then o.creg else o.d), vreg (s.wide o.a) o.d⟩
  | .vsqrt o | .vrcp o | .vrsq o | .vexp2 o | .vlog2 o => ⟨s.vsrc o.a, vreg (s.wide o.a) o.d⟩
  | .viaddR o | .visub o | .vimulR o | .vimulh o | .viminR o | .vimaxR o | .vandR o | .vorR o | .vxorR o | .vshlR o
  | .vshrR o | .vsraR o | .vperm o => ⟨rv o.a.toNat 1 ++ rv o.b.toNat 1, rv o.d.toNat 1⟩
  | .vifma o => ⟨rv o.a.toNat 1 ++ rv o.b.toNat 1 ++ rv (if o.cv then o.creg else o.d).toNat 1, rv o.d.toNat 1⟩
  | .vpopc o | .vclz o | .vscan o | .vred o => ⟨s.vsrc o.a, vreg (s.wide o.a) o.d⟩
  | .vtagR o => ⟨rv o.a.toNat 1 ++ [rs o.b], rv o.d.toNat 1⟩
  | .vscpi o | .vtwid o => ⟨rv o.a.toNat 1, rv o.d.toNat 2⟩
  | .vcmul o => ⟨rv o.a.toNat 2 ++ rv o.b.toNat 2, rv o.d.toNat 2⟩
  | .vcfma o => ⟨rv o.a.toNat 2 ++ rv o.b.toNat 2 ++ rv (if o.cv then o.creg else o.d).toNat 2, rv o.d.toNat 2⟩
  | .vbfly o => ⟨rv o.a.toNat 2 ++ rv o.b.toNat 2 ++ (if o.cv then rv o.creg.toNat 2 else []), rv o.d.toNat 4⟩
  | .vcvtR o => ⟨s.vsrc o.a ++ (if tagPacked o.sub.toNat then s.vsrc o.b else []) ++
      (if o.m then rv o.d.toNat 1 else []), rv o.d.toNat (if o.sub.toNat = 4 then 2 else 1)⟩
  | .vcvtI o => ⟨s.vsrc o.a, rv o.d.toNat (if o.imm.toNat % 16 = 4 then 2 else 1)⟩
  | .vqnt o => ⟨rv o.a.toNat 4, rv o.d.toNat 2⟩
  | .vtagI o | .viminI o | .vimaxI o | .vimulI o | .viaddI o | .vandI o | .vorI o | .vxorI o | .vshlI o | .vshrI o
  | .vsraI o | .vbcastI o | .vshflI o => ⟨rv o.a.toNat 1, rv o.d.toNat 1⟩
  | .vcmpR o => ⟨s.vsrc o.a ++ s.vsrc o.b, rk o.d⟩
  | .vcmpI o => ⟨s.vsrc o.a, rk o.d⟩
  | .vsel o => ⟨vreg o.m o.a ++ vreg o.m o.b ++ rk (o.xm.setWidth 6), vreg o.m o.d⟩
  | .vshflR o => ⟨vreg o.m o.a ++ rv o.b.toNat 1, vreg o.m o.d⟩
  | .vmovR o => ⟨vreg o.m o.a, vreg o.m o.d⟩
  | .vmovL o => ⟨[], rv o.d.toNat 1⟩
  | .vbcastR o => ⟨[rs o.a], vreg o.m o.d⟩
  | .vlane o => ⟨rv o.a.toNat 1 ++ [rs o.b], [rs o.d]⟩
  -- masks
  | .kand o | .kor o | .kxor o => ⟨rk o.a ++ rk o.b, rk o.d⟩
  | .knot o => ⟨rk o.a, rk o.d⟩
  | .kpopc o => ⟨rk o.a, [rs o.d]⟩
  | .kmovR o => match o.b.toNat with
    | 0 => ⟨rk o.a, rk o.d⟩
    | 1 => ⟨[rs o.a], rk o.d⟩
    | _ => ⟨rk o.a, [rs o.d]⟩
  | .kmovL o => ⟨[], rk o.d⟩
  -- memory
  | .ldM o => ⟨addrRegs o false, rv o.d.toNat (widthRegs o.w)⟩
  | .ldsM o => ⟨addrRegs o true, rv o.d.toNat (widthRegs o.w)⟩
  | .stM o => ⟨rv o.d.toNat (widthRegs o.w) ++ addrRegs o false, []⟩
  | .stsM o => ⟨rv o.d.toNat (widthRegs o.w) ++ addrRegs o true, []⟩
  | .ldN o | .ldsN o => ⟨[rs o.a], rv o.d.toNat (widthRegs o.w)⟩
  | .stN o | .stsN o => ⟨rv o.d.toNat (widthRegs o.w) ++ [rs o.a], []⟩
  | .ldu o => ⟨[rs o.a], [rs o.d]⟩
  | .atmM o => s.atmUses o.w o.d (addrRegs o false)
  | .atmN o => s.atmUses o.w o.d [rs o.a]
  | .xaddM o => ⟨rv o.d.toNat 1 ++ addrRegs o false, []⟩
  | .xaddN o => ⟨rv o.d.toNat 1 ++ [rs o.a], []⟩
  | .xrdM o => ⟨addrRegs o false, rv o.d.toNat (if o.w.getLsbD 2 then 2 else 1)⟩
  | .xrdN o => ⟨[rs o.a], rv o.d.toNat (if o.w.getLsbD 2 then 2 else 1)⟩
  | .xclr o => ⟨addrRegs o false, []⟩
  | .pfhM o => ⟨addrRegs o false, []⟩
  | .pfhN o => ⟨[rs o.a], []⟩
  | .btl o => ⟨[rs o.a], [rb o.d.toNat, rs o.b]⟩
  | .btinv o => if o.m then ⟨(List.range 8).map rb, (List.range 8).map rb⟩ else ⟨[rb o.d.toNat], [rb o.d.toNat]⟩
  | .classR o => ⟨[rs o.a, rs o.b], [rs o.d]⟩
  | .classI o => ⟨[rs o.a], [rs o.d]⟩
  | .send o => ⟨[rs o.a] ++ rv o.b.toNat 1, [rs o.d]⟩
  | .rpop o => ⟨[rs o.a], [rs o.d] ++ if o.m then [] else rv o.b.toNat 1⟩
  | .rwait o => ⟨[rs o.a], [rs o.d]⟩
  -- engines
  | .ldshape o => ⟨[rs o.a], [(.h, o.d.toNat)]⟩
  | .stshape o => ⟨[rs o.a, (.h, o.d.toNat)], []⟩
  | .cpyR o => ⟨[(.h, o.a.toNat), (.h, o.d.toNat), rs o.b] ++ if o.cv then [rs o.creg] else [], []⟩
  | .cpym o => ⟨[(.h, o.a.toNat), (.h, o.d.toNat), rs o.b, rs o.creg], []⟩
  | .cpyI o => ⟨[rs o.d, rs (o.d + 1), rs o.a], []⟩
  | .shufR o => ⟨[rs o.d, rs o.b] ++ (List.range (o.xm.toNat % 4 + 1)).map (fun i => (.s, o.a.toNat + i)), []⟩
  | .shufI o => ⟨[rs o.d, rs o.a], []⟩
  | .mma o => ⟨[rs o.a, rs o.b] ++ if o.cv then [rs o.creg] else [], []⟩
  | .mscl o | .mst o | .mprog o => ⟨[rs o.a, rs o.b], []⟩
  | .mrdR o => ⟨[rs o.b], rv o.d.toNat 1⟩
  | .mwrR o => ⟨rv o.a.toNat 1 ++ [rs o.b], []⟩
  | .mrdI o => ⟨[], rv o.d.toNat 1⟩
  | .mwrI o => ⟨rv o.a.toNat 1, []⟩
  | .tsbind o | .tsdesc o | .tsleaf o | .tsstat o => ⟨[rs o.a], [rs o.d]⟩
  | .tsexp o => ⟨[rs o.a] ++ (if o.m then [] else [rs o.b]), [rs o.d]⟩
  | .tsback o => ⟨[rs o.a] ++ (if o.xm = 0 then [rs o.b] else []), [rs o.d]⟩
  | .tsroot o => ⟨[rs o.a, rs o.b], [rs o.d]⟩
  -- count words, groups, system
  | .cwsigR o | .cwwaitR o | .cwset o => ⟨[rs o.a, rs o.b], [rs o.d]⟩
  | .cwrd o => ⟨[rs o.a], [rs o.d]⟩
  | .cwsigI o | .cwwaitI o => ⟨[rs o.a], [rs o.d]⟩
  | .gnew o => ⟨[], [(.g, o.d.toNat), rs o.b]⟩
  | .gjoin o => ⟨[rs o.a], [(.g, o.d.toNat), rs o.b]⟩
  | .gleave o | .gbar o | .gfree o | .gstat o => ⟨if o.a.toNat < 8 then [(.g, o.a.toNat)] else [], [rs o.d]⟩
  | .gvote o | .gred o => ⟨(if o.a.toNat < 8 then [(.g, o.a.toNat)] else []) ++ [rs o.b], [rs o.d]⟩
  | .pgsupply o => ⟨[rs o.a], [rs o.d]⟩
  | .mflog o => ⟨[], [rs o.d]⟩
  | _ => {}

/-! ### Latency and occupancy (R96). -/

/-- Latency, 0 where it is interlocked, and the occupancy of the word's own pipe. -/
def State.timing (s : State) : Instr → Nat × Nat
  | .smulR _ | .smulh _ | .smulI _ => (4, 1)
  | .sdiv _ | .srem _ => (0, 8)
  | .saddR _ | .ssubR _ | .sandR _ | .sorR _ | .sxorR _ | .sshlR _ | .sshrR _ | .ssraR _ | .sminR _ | .smaxR _ | .scmpR _
  | .ssel _ | .smov _ | .sleaR _ | .spopc _ | .sclz _ | .sbrev _ => (2, 1)
  | .saddI _ | .sandI _ | .sorI _ | .sxorI _ | .sshlI _ | .sshrI _ | .ssraI _ | .scmpI _ | .sminI _ | .smaxI _ | .sleaI _ =>
    (2, 1)
  | .sli _ => (2, 1)
  | .mfs o => (if o.immN = 0x00B then 0 else 2, 1)
  | .kand _ | .kor _ | .kxor _ | .knot _ | .kpopc _ | .kmovR _ => (2, 1)
  | .kmovL _ => (2, 1)
  | .viaddR _ | .visub _ | .vandR _ | .vorR _ | .vxorR _ | .vshlR _ | .vshrR _ | .vsraR _ | .viminR _ | .vimaxR _
  | .vcmpR _ | .vsel _ | .vmovR _ | .vtagR _ | .vpopc _ | .vclz _ => (4, 1)
  | .viaddI _ | .vandI _ | .vorI _ | .vxorI _ | .vshlI _ | .vshrI _ | .vsraI _ | .viminI _ | .vimaxI _ | .vcmpI _
  | .vtagI _ => (4, 1)
  | .vmovL _ => (4, 1)
  | .vimulR _ | .vimulh _ | .vifma _ => (6, 1)
  | .vimulI _ => (6, 1)
  | .vadd o | .vsub o | .vmul o | .vfma o | .vneg o | .vabs o | .vmin o | .vmax o => if s.wide o.a then (8, 4) else (6, 1)
  | .vcvtR o => if s.wide o.a || o.sub.toNat = 4 then (8, 4) else (6, 1)
  | .vcvtI o => if s.wide o.a || o.imm.toNat % 16 = 4 then (8, 4) else (6, 1)
  | .vbcastR _ | .vlane _ | .vshflR _ | .vperm _ => (6, 1)
  | .vbcastI _ | .vshflI _ => (6, 1)
  | .vscan _ | .vred _ => (12, 2)
  | .vqnt _ => (14, 4)
  | .vcmul _ | .vcfma _ | .vbfly _ => (8, 2)
  | .vrcp o | .vrsq o | .vexp2 o | .vlog2 o | .vscpi o | .vtwid o => if s.wide o.a then (0, 8) else (12, 2)
  | .vdiv o | .vsqrt o => if s.wide o.a then (0, 8) else (16, 4)
  | _ => (0, 1)

/-- The cycles for which a word holds its pipe; a uniform word holds the S pipe for one. -/
def State.occupancy (s : State) (i : Instr) : Nat := if i.uniform then 1 else (s.timing i).2

/-! ### Readiness (R91, R94, R98). -/

/-- Whether the pipes that a group needs are free in a cycle. -/
def Quad.free (q : Quad) (ws : List DWord) (c : Nat) : Bool :=
  ws.all (fun d => match d.pipe with
    | some p => Tab.get q.busy 0 p.index ≤ c
    | none => true)

/-- The pipes that a group takes in a cycle. -/
def State.occupy (s : State) (q : Quad) (ws : List DWord) (c : Nat) : Quad :=
  ws.foldl (fun q d => match d.pipe with
    | some p => { q with busy := Tab.set q.busy p.index (c + s.occupancy d.instr) }
    | none => q) q

/-- The register that a write changes. -/
def RegWrite.cell : RegWrite → Option Reg
  | .s r _ => some (.s, r)
  | .v r _ _ => some (.v, r)
  | .k r _ _ => some (.k, r)
  | .b r _ => some (.b, r)
  | .g r _ => some (.g, r)
  | .h r _ => some (.h, r)
  | .spr r _ => some (.x, r)

/-- The pending registers of a warp (R98): the destinations of the interlocked words that its fragments have issued and not
ended, and those whose results are still to be written. -/
def State.pendingRegs (s : State) (c k : Nat) : List Reg :=
  ((s.warp c k).frags.flatMap (fun e => e.2.words.flatMap (fun d =>
    let s := s.focusOn c k e.1
    if (s.timing d.instr).1 = 0 then (s.uses d.instr).writes else []))) ++
  ((s.warp c k).pend.filter (fun p => p.lock && s.now < p.due)).filterMap (fun p => p.write.cell)

/-- Whether a group names a pending register. -/
def State.namesPending (s : State) (pending : List Reg) (ws : List DWord) : Bool :=
  ws.any (fun d => let u := s.uses d.instr; (u.reads ++ u.writes).any pending.contains)

/-! ### The checking scoreboard (R99). -/

/-- A PFH raises no cause when it is executed (R232). -/
def isPfh (d : DWord) : Bool := d.op == 0x8C || d.op == 0x95

/-- The test of one word that issues in cycle `c`: its sources, then its destinations. Where several registers fail, REG and SHORT
name the first in that order, in which R99 leaves the choice open (log 81). -/
def State.boardWord (s : State) (w : Warp) (c : Nat) (d : DWord) : Option (BitVec 10 × Word64) :=
  let u := s.uses d.instr
  let lat := (s.timing d.instr).1
  if isPfh d then none
  else match u.reads.find? (fun r => c < w.pendsUntil r) with
  | some r => some (0x0FC, boardData r (w.pendsUntil r - c) d.pos)
  | none =>
    if lat = 0 then none
    else match u.writes.find? (fun r => c + lat < w.pendsUntil r) with
      | some r => some (0x0FD, boardData r (w.pendsUntil r - (c + lat)) d.pos)
      | none => none

/-- The test of a group (R99). -/
def State.boardGroup (s : State) (w : Warp) (c : Nat) (ws : List DWord) : Option (BitVec 10 × Word64) :=
  ws.findSome? (fun d => s.boardWord w c d)

end Sys2Proof.Machine
end

