-- ==== Sys2Proof/Machine/Issue.lean ====
section
/-! DEFINITION. Which group a quadrant issues (R64, R72, R91 to R95, R102, R104): join tests, the decoding of a packet, the
choice among fragments, and what the clock moves. -/

namespace Sys2Proof.Machine

/-! ### The clock. -/

/-- Whether a warp's deadline stands still (R369): it is held on a pager or on a full side log. -/
def Warp.heldUp (w : Warp) : Bool :=
  w.frags.any (fun e => match e.2.park with
    | .pager _ => true
    | .logFull _ => true
    | _ => false)

/-- The cycles that the warps of pre-empted units of a core spend held up. -/
def Core.holdFor (x : Core) (n : Nat) : Core :=
  { x with warps := x.warps.map (fun e =>
      if (Tab.get x.wgs {} e.2.wg).preempt.isSome && !e.2.kept && e.2.heldUp then
        (e.1, { e.2 with heldCycles := e.2.heldCycles + n }) else e) }

/-- Whether a member of a group is on a halted die (R352, R373). -/
def State.groupHalted (s : State) (g : Group) : Bool := g.members.any (fun m => (s.device (s.task m.task).dev).dhalt)

/-- The clock runs on by `n` cycles. -/
def State.advance (s : State) (n : Nat) : State :=
  if n = 0 then s
  else
    let cores := s.cores.map (fun c => (c.1, if (s.device (dieOf c.1)).dhalt then c.2 else c.2.holdFor n))
    let groups := s.groups.map (fun g => (g.1,
      if s.groupHalted g.2 then { g.2 with phase := { g.2.phase with since := g.2.phase.since.map (· + n) } } else g.2))
    { s with now := s.now + n, cores := cores, groups := groups }

/-! ### Joins (R104). -/

/-- The join test of the fragment in focus, before the first group of a packet: whether it goes on. `n` bounds the tokens
that it may leave. -/
def State.joinTest (s : State) : Nat → Bool × State
  | 0 => (true, s)
  | n + 1 =>
    let c := s.focus.core
    let k := s.focus.slot
    let f := s.f
    match f.token with
    | none => (true, s)
    | some t =>
      match Tab.find s.w.tokens t with
      | none => (true, s)
      | some x =>
        if x.addr != f.pc then (true, s)
        else if x.expect &&& ~~~s.w.exited &&& ~~~f.mask = 0 then
          let s := s.setF { f with token := x.outer }
          (s.setW { s.w with tokens := Tab.del s.w.tokens t }).joinTest n
        else (false, (s.setF { f with park := .join (s.counted s.die) }).mergeAt c k t false)

/-! ### Decoding (R64, R72). -/

/-- The packet of the fragment in focus is fetched and decoded; a fragment that resumes within a packet takes the groups
from there on. -/
def State.decodeFrag (s : State) : State :=
  let f := s.f
  let d := s.t.desc
  let s := s.setF { f with groupNo := f.startGroup, park := .none }
  if !d.holdsPacket f.pc.toNat then s.takeTrap 0x047 f.arrived true
  else match s.fetchWords f.pc.toNat 3 [] with
    | .inl (.fault c, s) => s.takeTrap c f.pc false
    | .inl (.pager h, s) => s.setF { s.f with park := .pager { h with data := f.pc } }
    | .inl (.stall p, s) => s.setF { s.f with park := .reclass p }
    | .inl (.remote i, s) => s.setF { s.f with park := .peer i }
    | .inl (.ok _, s) => s
    | .inr (ws, s) =>
      match decodePacket (8 * d.regs) d.tiles s.t.dict (ws.getD 0 0) (ws.getD 1 0) (ws.getD 2 0) with
      | .error e => s.takeTrap e.cause e.data true
      | .ok gs => s.setF { s.f with decoded := true, groups := gs.drop f.startGroup, failed := none }

/-- The groups that hold only NOP words are passed over (R72 step 2); a packet with no group left has been issued. -/
def Frag.passNops : Nat → Frag → Frag
  | 0, f => f
  | n + 1, f =>
    match f.groups with
    | [] => f.advance
    | g :: gs => if g.all (fun d => d.pipe.isNone) then Frag.passNops n { f with groups := gs, groupNo := f.groupNo + 1 } else f

/-- A fragment that may issue gets as far as its next group: its join test and the decoding of its packet. -/
def State.prepare (s : State) : State :=
  if s.f.decoded then s.setF (s.f.passNops 7)
  else
    let (go, s) := if s.f.startGroup = 0 then s.joinTest 17 else (true, s)
    if !go then s
    else
      let s := s.decodeFrag
      match Tab.find (s.warp s.focus.core s.focus.slot).frags s.focus.frag with
      | some f => if f.decoded then s.setF (f.passNops 7) else s
      | none => s

/-! ### Readiness (R91, R202). -/

/-- Whether a warp issues nothing: kept or discarded by a pre-emption, parked for the debugger, or being restored. -/
def Warp.idle (w : Warp) : Bool := w.kept || w.debugParked.isSome || !w.restoring.isEmpty

/-- Whether another fragment than `key` holds the whole warp: an access of it is held on an upcall entry, on a full side log
or by a class change (R204, R212, R213). -/
def Warp.heldFor (w : Warp) (key : Nat) : Bool :=
  w.frags.any (fun e => e.1 != key && match e.2.park with
    | .pager _ => true
    | .logFull _ => true
    | .reclass _ => !e.2.words.isEmpty
    | _ => false)

/-- Whether a fragment may be looked at for its next group: it waits for nothing, its issue cycle has come, and no access of
a word that it has issued can still trap, a trap being precise (R358). -/
def Frag.mayIssue (f : Frag) (now : Nat) : Bool :=
  f.words.isEmpty && f.stopped.isNone && f.nextIssue ≤ now && match f.park with
    | .none => true
    | .reclass _ => true
    | _ => false

/-- The words that make or fork a memory operation (R202): neither BTL, which makes none, nor BTINV, nor PFH, which never
holds the warp (R229, R232). -/
def makesAccess (op : Nat) : Bool :=
  op == 0x29 || (0x80 ≤ op && op ≤ 0x98 && op != 0x89 && op != 0x8A && op != 0x8C && op != 0x95) ||
  (0xA0 ≤ op && op ≤ 0xB8) || (0xC0 ≤ op && op ≤ 0xD5) || op == 0xDA || op == 0xDB

/-- The words that issue only after every earlier memory instruction of the warp has been performed (R336, R345). -/
def drainsFirst (op : Nat) : Bool := 0xC8 ≤ op && op ≤ 0xD5

/-- The words that make an operation on a count word (R336). -/
def countOpcode (op : Nat) : Bool := (0xC8 ≤ op && op ≤ 0xCB) || op == 0xD4 || op == 0xD5

/-- Whether the engines that a word needs have room (R94, R264, R281, R286). -/
def State.engineReady (s : State) (d : DWord) : Bool :=
  let x := s.core s.focus.core
  match d.instr with
  | .cpyR _ => s.t.desc.cslots = 0 || s.hasCopySlot
  | .cpym _ => s.t.desc.cslots = 0 || s.hasCopySlot
  | .cpyI _ => s.t.desc.cslots = 0 || s.hasCopySlot
  | .shufR _ => x.shuffles.length < 16
  | .shufI _ => x.shuffles.length < 16
  | i => match tileOf i with
    | some t => s.tileFree s.focus.core s.w.wg t (s.focus.slot / 32) s.now
    | none => true

/-- Whether a BRV of the group waits for a split entry (R102): not one whose tag test traps, which issues at once. -/
def State.needsEntry (s : State) (ws : List DWord) : Bool :=
  ws.any (fun d => match d.instr with
    | .brv o => (s.brvCheck o).toBool && s.brvSplits o &&
        (s.splitFor s.focus.core (s.focus.slot / 32) s.focus.frag).isNone
    | _ => false)

/-- Whether a fragment has issued a word that makes an access and has not made all of them. One that waits on a count word,
at a barrier, for a message or in SLEEP has made its access; a deferred one waits for the fragment itself. -/
def Frag.accessing (f : Frag) : Bool :=
  !f.again && !f.park.waits && f.words.any (fun d => makesAccess d.op)

/-- Whether another fragment of the warp has a memory instruction whose accesses are still to make (R202, R323). -/
def State.siblingBusy (s : State) : Bool := s.w.frags.any (fun e => e.1 != s.focus.frag && e.2.accessing)

/-- The accesses that a word will make to lane addresses in global memory; `none` for one that makes none, or by an engine. -/
def State.wordReqs (s : State) (i : Instr) : Option (List LaneReq) :=
  let lanes (fm : Form) (single : Bool) : Option (List LaneReq) := some (s.flight fm 0 single (fun _ => .read 1)).reqs
  let m (o : OpM) (unit : Nat) (once : Bool) : Option (List LaneReq) :=
    let fm := s.formM o unit
    lanes fm (o.u || (once && fm.same))
  let n (o : OpN) (unit : Nat) (once : Bool) : Option (List LaneReq) := lanes (s.formN o unit false) (o.u || once)
  match i with
  | .ldM o => m o (widthBytes o.w) true
  | .stM o => m o (widthBytes o.w) true
  | .atmM o => m o 4 false
  | .xaddM o => m o 64 false
  | .xrdM o => m o 64 true
  | .xclr o => m o 64 false
  | .ldN o => n o (widthBytes o.w) true
  | .stN o => n o (widthBytes o.w) true
  | .ldu o => n o (widthBytes o.w) true
  | .atmN o => n o 4 false
  | .xaddN o => n o 64 false
  | .xrdN o => n o 64 true
  | .ldshape o => some (oneAccess 7 (s.S o.a).toNat (.read 1)).reqs
  | .stshape o => some (oneAccess 1 (s.S o.a).toNat (.read 1)).reqs
  | _ => none

/-- Whether a word counts among the 16 of R202: a memory instruction that touches only pages that the core records as PRIVATE to it or
READONLY. -/
def State.countsAmong16 (s : State) (i : Instr) : Bool :=
  match s.wordReqs i with
  | some rs => !s.touchesShared rs
  | none => false

/-- Whether the limits on a warp's outstanding memory instructions let the word issue (R202, R336, R345): none while one
that touched a SHARED or unclassified page is without its answer, at most 16 of the others, and for some words none. -/
def State.mayAccess (s : State) (d : DWord) : Bool :=
  let q := s.w.memq.filter (fun e => s.now < e.1)
  !makesAccess d.op || (!s.siblingBusy && q.all (fun e => !e.2) &&
    if drainsFirst d.op then q.isEmpty else !s.countsAmong16 d.instr || q.length < 16)

/-- Whether the group of the fragment in focus is ready and its pipes are free. -/
def State.groupReady (s : State) (ws : List DWord) : Bool :=
  let q := s.quad s.focus.core (s.focus.slot / 32)
  q.free ws s.now && !s.namesPending (s.pendingRegs s.focus.core s.focus.slot) ws &&
  ws.all (fun d => s.engineReady d && s.mayAccess d) && !s.needsEntry ws

/-! ### The choice (R92). -/

/-- A fragment of a quadrant: its warp's slot, its fragment slot and its stamp. -/
structure Ready where
  slot : Nat
  frag : Nat
  stamp : Nat
  deriving DecidableEq, Repr, Inhabited

/-- Whether one fragment goes before another: the smaller stamp, then the first slot at or after the pointer. -/
def Ready.before (ptr : Nat) (a b : Ready) : Bool :=
  let turn (r : Ready) : Nat := (r.frag + 96 - ptr) % 96
  a.stamp < b.stamp || (a.stamp = b.stamp && turn a ≤ turn b)

def insertReady (ptr : Nat) (a : Ready) : List Ready → List Ready
  | [] => [a]
  | b :: bs => if a.before ptr b then a :: b :: bs else b :: insertReady ptr a bs

/-- The fragments of a quadrant that may issue, in the order in which it considers them. -/
def State.readyFrags (s : State) (c q : Nat) : List Ready :=
  let x := s.core c
  let all := x.warps.flatMap (fun e =>
    if e.1 / 32 != q || e.2.idle then []
    else (e.2.frags.filter (fun f => f.2.mayIssue s.now && !e.2.heldFor f.1)).map (fun f => ⟨e.1, f.1, f.2.stamp⟩))
  all.foldl (fun l r => insertReady (Tab.get x.quads {} q).ptr r l) []

/-- The fragments of a quadrant with words issued and not ended that may go on. -/
def State.openFrags (s : State) (c q : Nat) : List (Nat × Nat) :=
  (s.core c).warps.flatMap (fun e =>
    if e.1 / 32 != q then []
    else (e.2.frags.filter (fun f => !f.2.words.isEmpty && !f.2.again && match f.2.park with
      | .none => true
      | .busy => true
      | .reclass _ => true
      | .logFull _ => true
      | _ => false)).map (fun f => (e.1, f.1)))

/-- Whether a group whose registers are not pending waits for a split entry (R102). -/
def State.waitsEntry (s : State) (ws : List DWord) : Bool :=
  !s.namesPending (s.pendingRegs s.focus.core s.focus.slot) ws && s.needsEntry ws

/-- Marks the fragments of a quadrant, of those that may issue, whose next group waits for a split entry. -/
def State.markSplits (s : State) (c q : Nat) : State :=
  (s.readyFrags c q).foldl (fun s r =>
    let on := s.focusOn c r.slot r.frag
    let on := { on with focus := { on.focus with issue := on.now } }
    match on.f.groups with
    | ws :: _ => if on.f.decoded && on.waitsEntry ws then s.setFrag c r.slot r.frag { on.f with brvWait := true } else s
    | [] => s) s

/-- Reservations of split entries whose BRV waits no more, having issued without a split, trapped or ended, pass to the lowest
fragment slot that still waits (R102). -/
def State.passSplits (s : State) (c q : Nat) : State :=
  let s := s.markSplits c q
  (s.quad c q).splits.foldl (fun s e =>
    let waits := (s.core c).warps.any (fun w => w.1 / 32 = q && w.2.frags.any (fun g => g.1 + 1 = e.2 && g.2.brvWait))
    if e.2 = 0 || waits then s else s.freeSplit c q e.1) s

/-- The words that wait by what they are: on a count word, at a barrier, in SLEEP; and RWAIT. -/
def wordStage (d : DWord) : Nat := match d.instr with
  | .cwwaitR _ => 1
  | .cwwaitI _ => 1
  | .gbar _ => 1
  | .gvote _ => 1
  | .gred _ => 1
  | .sleep _ => 1
  | .rwait _ => 2
  | _ => if controlOpcode d.op then 3 else 0

/-- The order in which the words of a group take effect: that of their positions, but a word that waits by what it is comes after
those that do not, so that their accesses are made when the group issues (R323), and a control transfer comes last (log 5). -/
def groupOrder (ws : List DWord) : List DWord := [0, 1, 2, 3].flatMap (fun n => ws.filter (fun d => wordStage d = n))

/-- The group of the fragment in focus issues now (R92, R93, R95): the pointer moves on with every issue, not only with one that
broke a tie, where R92 leaves it open (log 80). -/
def State.issueGroup (s : State) (ws : List DWord) (rest : List (List DWord)) : State :=
  let q := s.focus.slot / 32
  let f := s.f
  let stall := ws.foldl (fun m d => max m d.stall) 0
  let x := s.quad s.focus.core q
  let x := s.occupy { x with lastIssue := some s.now, ptr := (s.focus.frag + 1) % 96 } ws s.now
  let s := s.setQuad s.focus.core q x
  let s := s.setW (s.w.retire (s.w.frags.foldl (fun m e => if e.2.words.isEmpty then m else min m e.2.issued) s.now))
  s.setF { f with words := groupOrder ws, groups := rest, stamp := s.now, nextIssue := s.now + 1 + stall, issued := s.now,
                  brvWait := false }

/-- A group that fails the scoreboard test traps, and none of its words takes effect (R99). It has issued: it has taken its pipes,
its stamp and its next-issue cycle, and the pointer has moved, where R99 leaves it open (log 81). -/
def State.boardCheck (s : State) (ws : List DWord) : Option State :=
  if !s.t.desc.check then none
  else (s.boardGroup s.w s.now ws).map (fun e => s.takeTrap e.1 e.2 false)

/-- The fragments in order, until one issues or traps: the state, and the fragment that has words to run. -/
def State.tryIssue (s : State) (c : Nat) (lanes : BitVec 32) (slow : Nat) : List Ready → State × Bool
  | [] => (s, false)
  | r :: rest =>
    let on (s : State) : State :=
      let s := s.focusOn c r.slot r.frag
      { s with focus := { s.focus with lanes := lanes, issue := s.now, slow := slow } }
    let s := (on s).prepare
    match Tab.find (s.warp c r.slot).frags r.frag with
    | none => s.tryIssue c lanes slow rest
    | some f =>
      if s.focus.out = .trapped then (s, false)
      else if !f.decoded || f.park != .none then s.tryIssue c lanes slow rest
      else match f.groups with
        | [] => s.tryIssue c lanes slow rest
        | ws :: gs =>
          let s := on s
          if s.groupReady ws then
            let s := s.issueGroup ws gs
            match s.boardCheck ws with
            | some s => (s, false)
            | none => (s, true)
          else
            let s := if s.waitsEntry ws then s.setF { s.f with brvWait := true } else s
            s.tryIssue c lanes slow rest

/-- Whether the cores of a die may act at all. -/
def State.dieRuns (s : State) (d : Nat) : Bool := s.module.fatal.isNone && !(s.device d).drst

/-- The warps of a quadrant that are being restored go on (R370). -/
def State.restoreQuad (s : State) (c q : Nat) : State :=
  (s.core c).warps.foldl (fun s e =>
    if e.1 / 32 = q && !e.2.restoring.isEmpty && e.2.frags.all (fun f => match f.2.park with
        | .none => true
        | .reclass _ => true
        | _ => false) then s.restoreRegs c e.1 64 else s) s

/-! ### Ends of units by a failure of their backing (R59). -/

/-- Every warp of the unit of a workgroup whose backing failed ends by fault. -/
def State.breakUnit (s : State) (t unit : Nat) (cause : BitVec 10) : State :=
  s.cores.foldl (fun s c => (s.core c.1).wgs.foldl (fun s e =>
    if e.2.task = t && e.2.unit = unit then
      let s := e.2.slots.foldl (fun s k => s.faultWarp c.1 k cause (s.warp c.1 k).trapPc 0 0) s
      s.setWg c.1 e.1 { s.wg c.1 e.1 with broken := none }
    else s) s) s

/-- The end of a step: broken units end. -/
def State.settle (s : State) : State :=
  if s.cores.all (fun c => c.2.wgs.all (fun e => e.2.broken.isNone)) then s
  else s.cores.foldl (fun s c => (s.core c.1).wgs.foldl (fun s e => match e.2.broken with
    | some b => s.breakUnit e.2.task e.2.unit b
    | none => s) s) s

end Sys2Proof.Machine
end

