-- ==== Sys2Proof/Machine/Service.lean ====
section
/-! DEFINITION. The memory side's own steps: decoding ahead of issue (R72), walks (R208), one lane access at its home, at IO or
in host memory (R90, R190, R253, R262), class changes (R204), and the management commands (R197, R214, R215, R392). -/

namespace Sys2Proof.Machine

/-! ### Fetch and walks. -/

/-- PACKET_DECODE: a fragment that may issue gets as far as its next group. -/
def execPacketDecode (f : FragRef) (s : State) : Host.Outcome State Fault Refusal :=
  let w := s.warp f.core f.slot
  match Tab.find w.frags f.frag with
  | some x =>
    if x.mayIssue s.now && !w.idle && !(s.device (dieOf f.core)).dhalt && s.dieRuns (dieOf f.core) then
      .next (s.focusOn f.core f.slot f.frag).prepare
    else .next s
  | none => .next s

/-- Whether a fragment of a core waits for an access to a page, or for its packet there (R372: no walk is made for less). -/
def State.wantsPage (s : State) (c page : Nat) : Bool :=
  (s.core c).warps.any (fun e => e.2.frags.any (fun f =>
    (match f.2.flight with
      | some fl => fl.reqs.any (fun r => !r.scr && r.page = page)
      | none => false) || (!f.2.decoded && f.2.words.isEmpty && f.2.pc.toNat / 65536 = page)))

/-- PAGE_WALK: a miss of a core sends its walk, and a walk on its way reads its next entry, one operation of the interleaving
(R208, R320). -/
def execPageWalk (core : Fin 192) (va : BitVec 64) (s : State) : Host.Outcome State Fault Refusal :=
  let c := core.val
  let page := va.toNat / 65536
  let x := s.core c
  let root := (s.device (dieOf c)).ptroot
  if nonCanon va.toNat || s.module.fatal.isSome then .next s
  else match x.walks.find? (fun j => j.page = page) with
    | some j => .next (s.stepWalk c j)
    | none =>
      if s.wantsPage c page && (x.tlbAt va.toNat).isNone && x.walks.length < missLimit && root != 0 && tableAt root 4096 then
        .next (s.setCore c { x with walks := x.walks ++ [{ page := page, table := root, levels := walkLevels }] })
      else .next s

/-! ### One lane's access. -/

/-- A flight whose accesses one lane at a time may be made. -/
def Frag.serves (f : Frag) : Bool :=
  !f.again && !f.words.isEmpty && (match f.flight with
    | some fl => fl.tree.isNone && fl.step.isNone && !fl.reqs.isEmpty
    | none => false) && match f.park with
    | .none => true
    | .busy => true
    | .reclass _ => true
    | .logFull _ => true
    | _ => false

/-- The accesses of one lane of a memory instruction in progress, as far as they can be made now. -/
def State.serveLane (s : State) (f : FragRef) (lane : Nat) : Host.Outcome State Fault Refusal :=
  match Tab.find (s.warp f.core f.slot).frags f.frag with
  | none => .next s
  | some x =>
    if !x.serves || !s.dieRuns (dieOf f.core) then .next s
    else
      let s := s.focusOn f.core f.slot f.frag
      let s := { s with focus := { s.focus with lanes := 1#32 <<< (lane % 32) } }
      match s.fly 1 (x.flight.getD {}) with
      | .done s => .next (s.setF { s.f with park := .busy })
      | r => r.out

/-- HOME_ACCESS. -/
def execHomeAccess (f : FragRef) (lane : Fin 32) (s : State) : Host.Outcome State Fault Refusal := s.serveLane f lane.val

/-- PEER_REQUEST: the access of a lane that leads to another module is sent. -/
def execPeerRequest (f : FragRef) (lane : Fin 32) (s : State) : Host.Outcome State Fault Refusal := s.serveLane f lane.val

/-- The request of a logical device to host memory of a number, while it is unanswered. -/
def State.hostReq (s : State) (dev req : Nat) : Option PeerReq :=
  (Tab.find s.io.reqs req).filter (fun r => r.host && r.dev = dev && r.result.isNone)

/-- The answer to a request, and its waiter woken. -/
def State.answerReq (s : State) (i : Nat) (r : PeerReq) (x : PeerResult) : State :=
  { s with io := { s.io with reqs := Tab.set s.io.reqs i { r with result := some x } } }.unparkWaiter r.waiter

/-- HOST_COMPLETION: the load is performed, or ends in HOST_ERROR (R262). -/
def execHostCompletion (dev : Fin 4) (req : Nat) (error : Bool) (s : State) : Host.Outcome State Fault Refusal :=
  match s.hostReq dev.val req with
  | none => .next s
  | some r => .next (s.answerReq req r (if error then .integrity else .value (Memory.read s.mem r.va r.op.size)))

/-- HOST_COMPLETION_TIMEOUT (R256). -/
def execHostCompletionTimeout (dev : Fin 4) (req : Nat) (s : State) : Host.Outcome State Fault Refusal :=
  match s.hostReq dev.val req with
  | none => .next s
  | some r => .next (s.answerReq req r .integrity)

/-! ### Class changes (R204). -/

/-- A party has made its accesses to a page under the old class. -/
def State.endDrain (s : State) (p : Party) (key : Nat) : State :=
  match p with
  | .core n =>
    let x := s.core n
    s.setCore n { x with warps := x.warps.map (fun e => (e.1, { e.2 with frags := e.2.frags.map (fun g =>
      (g.1, { g.2 with flight := g.2.flight.map (fun fl => { fl with drains := fl.drains.filter (fun k => k != key) }) })) })) }
  | .inbound => { s with io := { s.io with inbound := s.io.inbound.map (fun w =>
      { w with drains := w.drains.filter (fun k => k != key) }) } }
  | _ => s

/-- CLASS_DRAIN: a holder with no access to the page under the old class left to make acknowledges. -/
def execClassDrain (p : Party) (page : Nat) (s : State) : Host.Outcome State Fault Refusal :=
  match Tab.find s.reclass page with
  | none => .next s
  | some r =>
    if s.draining p page then .next s
    else .next ({ s with reclass := Tab.set s.reclass page { r with awaiting := r.awaiting.filter (fun q => q != p) } }.endDrain p page)

/-- RECLASSIFICATION_POINT: every acknowledgement has arrived. The accesses that wait find the new class, the one that caused
the change before the others, which come in arrival order. -/
def execReclassificationPoint (page : Nat) (s : State) : Host.Outcome State Fault Refusal :=
  match Tab.find s.reclass page with
  | none => .next s
  | some r =>
    if r.made || !r.awaiting.isEmpty then .next s
    else
      let s := { s with reclass := if r.queue.isEmpty then Tab.del s.reclass page
                                   else Tab.set s.reclass page { r with made := true } }
      let s := match s.classOf page with
        | .readOnly _ => s.dropPage page
        | _ => s
      .next (s.reclassify page r.new)

/-! ### Management commands (R392). -/

/-- A command ends with a status. -/
def State.endCommand (s : State) (d st : Nat) : State :=
  s.setDevice d { s.device d with mgo := false, mst := st }

/-- A command ends with FAILED, its cause in an event-log entry. -/
def State.failCommand (s : State) (d : Nat) (c : BitVec 10) (va : Nat) : State :=
  (s.logEvent { cause := c, src := d, addr := BitVec.ofNat 64 va }).endCommand d 3

/-- Whether an access that was issued under a translation of the range is still to be answered (R197). -/
def State.rangeBusy (s : State) (d page n : Nat) : Bool :=
  (coresOf d).any (fun c => (s.core c).warps.any (fun e => e.2.frags.any (fun f => match f.2.park, f.2.flight with
    | .peer _, some fl => fl.reqs.any (fun r => page ≤ r.page && r.page < page + n)
    | _, _ => false))) ||
  s.io.reqs.any (fun e => e.2.dev = d && e.2.result.isNone && !e.2.down && match e.2.waiter with
    | .engine _ _ => true
    | .lane _ l => 32 ≤ l) ||
  (coresOf d).any (fun c => (s.core c).copies.any (fun k => !k.2.half.isEmpty))

/-- Whether a mapping lies in a range of `n` pages of a logical device; one of a 2 MiB page is named by its first 64 KiB. -/
def inRange (d page n key : Nat) (m : Nat × Nat) : Bool :=
  m.1 = d && m.2 < page + n && page < m.2 + if bigPages ≤ key then 32 else 1

/-- The pages that have a class and were accessed through a mapping of the range. -/
def State.rangePages (s : State) (d page n : Nat) : List Nat :=
  (s.mapped.filter (fun e => e.2.any (inRange d page n e.1))).map (fun e => e.1)

/-- The pages of a range are UNTOUCHED: no L1 holds a line of them, and the range's mappings name them no more (R197, R201). -/
def State.untouch (s : State) (d page n : Nat) : State :=
  let keys := s.rangePages d page n
  let mapped := s.mapped.filterMap (fun e =>
    let left := e.2.filter (fun m => !inRange d page n e.1 m)
    if left.isEmpty then none else some (e.1, left))
  keys.foldl (fun s k => s.dropPage k) { s with mapped := mapped, classes := s.classes.filter (fun e => !keys.contains e.1) }

/-- INVAL. -/
def execInval (dev : Fin 4) (s : State) : Host.Outcome State Fault Refusal :=
  let d := dev.val
  let x := (s.device d).mcmd
  let page := x.va / 65536
  if !(s.device d).mgo || x.op != 1 || s.rangeBusy d page x.len ||
      (s.rangePages d page x.len).any s.changing then .next s
  else .next (((s.invalRange d page x.len).untouch d page x.len).endCommand d 0)

/-- CT's actor for a device's own stores. -/
def deviceActor (d type : Nat) : Actor := { party := .ct, dev := d, type := type, waiter := .engine 196 d }

/-- The accessed and dirty bits of the pages of a range, two for each page, and their frames: or the cause and the address where a
walk failed, by an error of its entry or of the line that holds it. -/
def State.usage (s : State) (d page : Nat) : Nat → Except (BitVec 10 × Nat) (Nat × List Nat) × State
  | 0 => (.ok (0, []), s)
  | n + 1 =>
    match s.walkOn d (page * 65536) with
    | (.error, s) => (.error (0x10F, page * 65536), s)
    | (.lost _, s) => (.error (0x2C7, page * 65536), s)
    | (.host, s) => (.error (0x2B7, page * 65536), s)
    | (w, s) => match s.usage d (page + 1) n with
      | (.error a, s) => (.error a, s)
      | (.ok (v, fs), s) => match w with
        | .leaf l =>
          if l.peer || l.mt != 0 then (.ok (4 * v, fs), s)
          else
            let p := l.pa / 65536
            (.ok (bit (s.accessed.contains p) + 2 * bit (s.dirty.contains p) + 4 * v, p :: fs), s)
        | _ => (.ok (4 * v, fs), s)

/-- HARVEST (R214). -/
def execHarvest (dev : Fin 4) (s : State) : Host.Outcome State Fault Refusal :=
  let d := dev.val
  let x := (s.device d).mcmd
  if !(s.device d).mgo || x.op != 2 then .next s
  else match s.usage d (x.va / 65536) x.len with
    | (.error (c, a), s) => .next (s.failCommand d c a)
    | (.ok (v, fs), s) =>
      let clear (s : State) : State :=
        { s with accessed := s.accessed.filter (fun p => !fs.contains p), dirty := s.dirty.filter (fun p => !fs.contains p) }
      match (clear s).writeBytes (deviceActor d 1) x.arg ((x.len + 3) / 4) v with
      | (.ok _, s) => .next (s.endCommand d 0)
      | (.fault c, _) => .next (s.failCommand d c x.arg)
      | (_, s') => .next { s' with accessed := s.accessed, dirty := s.dirty }

/-- The address of the 64 KiB leaf entry of a page, when a table of 32 holds it. -/
def State.leafEntry (s : State) (d va : Nat) : Option Nat :=
  let next (pa shift : Nat) : Option Nat :=
    let e := Memory.read s.mem (pa + 8 * (va / 2 ^ shift % 512)) 8
    if bitOf e 0 && !bitOf e 1 then some (bitsOf e 56 8 * 256) else none
  ((next (s.device d).ptroot 48).bind (fun t => (next t 39).bind (fun t => (next t 30).bind (fun t => next t 21)))).map
    (fun t => t + 8 * (va / 65536 % 32))

/-- A number moves in a list. -/
def moveNat (l : List Nat) (a b : Nat) : List Nat :=
  let rest := l.filter (fun x => x != a && x != b)
  if l.contains a then b :: rest else rest

/-- A wait on a count word of a page that moves is registered with the word's new home (R340, R343). -/
def State.rehome (s : State) (c : Nat) (p : Park) (a b : Nat) : Park × State :=
  match p with
  | .count va pa target d reg entry since =>
    if pa / 65536 != a then (p, s)
    else
      let home := 65536 * b + pa % 65536
      let (s, reg) := (s.deregister pa reg).register home c
      (.count va home target d reg entry since, s)
  | _ => (p, s)

/-- The waits of a fragment, the one under way and the one that a held re-read keeps, move with a page. -/
def State.moveWaiter (s : State) (c k f a b : Nat) : State :=
  let x := s.frag c k f
  let (p, s) := s.rehome c x.park a b
  let (q, s) := s.rehome c x.waiting a b
  s.setFrag c k f { s.frag c k f with park := p, waiting := q }

/-- The waiters on the count words of a page that moves, and the wakes on their way to them. -/
def State.moveWaiters (s : State) (a b : Nat) : State :=
  let s := s.cores.foldl (fun s c => c.2.warps.foldl (fun s w => w.2.frags.foldl (fun s f => s.moveWaiter c.1 w.1 f.1 a b) s) s) s
  { s with cores := s.cores.map (fun c => (c.1, { c.2 with
      wakes := c.2.wakes.map (fun pa => if pa / 65536 = a then 65536 * b + pa % 65536 else pa) })) }

/-- A page moves to another frame: its bytes, its class and its bits, its waiters, and its leaf (R215). -/
def State.movePage (s : State) (entry old new : Nat) : State :=
  let e := Memory.read s.mem entry 8
  let mem := Memory.write s.mem new 65536 (Memory.read s.mem old 65536)
  let mem := Memory.write mem entry 8 (setBits e 16 41 (new / 65536))
  let (a, b) := (old / 65536, new / 65536)
  let classes := match Tab.find s.classes a with
    | some c => Tab.set (Tab.del s.classes a) b c
    | none => Tab.del s.classes b
  let mapped := match Tab.find s.mapped a with
    | some l => Tab.set (Tab.del s.mapped a) b l
    | none => Tab.del s.mapped b
  (({ s with mem := mem, classes := classes, mapped := mapped, accessed := moveNat s.accessed a b,
             dirty := moveNat s.dirty a b }.dropPage a).dropPage b).moveWaiters a b

/-- MIGRATE (R215): the page is blocked, drained, copied and remapped as one point. -/
def execMigrate (dev : Fin 4) (s : State) : Host.Outcome State Fault Refusal :=
  let d := dev.val
  let x := (s.device d).mcmd
  let page := x.va / 65536
  if !(s.device d).mgo || x.op != 3 || s.rangeBusy d page 1 then .next s
  else if ((s.device d).upcallOf page).isSome then .next (s.endCommand d 1)
  else match s.walkOn d x.va with
    | (.leaf l, s) => match s.leafEntry d x.va with
      | none => .next (s.failCommand d 0x10F x.va)
      | some entry =>
        if l.peer || l.mt != 0 then .next (s.failCommand d 0x10F x.va)
        else if s.changing l.key then .next s
        else if (List.range 512).any (fun i => s.lineLost (l.pa + 128 * i) 128 || s.lineLost (x.arg + 128 * i) 128) then .next (s.failCommand d 0x2C7 x.va)
        else .next (((s.movePage entry l.pa x.arg).invalRange d page 1).endCommand d 0)
    | (.lost _, s) => .next (s.failCommand d 0x2C7 x.va)
    | (.host, s) => .next (s.failCommand d 0x2B7 x.va)
    | (.full, s) => .next s
    | (.absent _, s) => .next (s.failCommand d 0x107 x.va)
    | (.error, s) => .next (s.failCommand d 0x10F x.va)

/-- A write of MGO with a MOP of no command (R392). -/
def execMopBadArg (dev : Fin 4) (s : State) : Host.Outcome State Fault Refusal :=
  let x := s.device dev.val
  .next (if x.mop = 1 || x.mop = 2 || x.mop = 3 then s else s.hostWrite dev.val 0x8800 (s.startCommand dev.val))

end Sys2Proof.Machine
end

