-- ==== Sys2Proof/Machine/Network.lean ====
section
/-! DEFINITION. The torus and its crossings (R240, R246, R248), Abian links (R249 to R252), peer requests at source and target
(R253 to R257), and the host port (R258 to R262). -/

namespace Sys2Proof.Machine

/-! ### The torus and the die crossings. -/

/-- The even parity of a range of content bytes (R248). -/
def parityOf (x : BitVec 256) (lo n : Nat) : Bool :=
  (List.range (8 * n)).foldl (fun p i => p ^^ x.getLsbD (8 * lo + i)) false

end Sys2Proof.Machine

namespace Sys2Proof

/-- Whether the parity bits of a flit agree with its content; the third covers sideband bits [4:0] as well (R248). -/
def Flit.parityOk (f : Flit) : Bool :=
  f.parity.getLsbD 0 == Machine.parityOf f.content 0 11 && f.parity.getLsbD 1 == Machine.parityOf f.content 11 11 &&
  f.parity.getLsbD 2 == (Machine.parityOf f.content 22 10 ^^ f.cls.getLsbD 0 ^^ f.cls.getLsbD 1 ^^ f.cls.getLsbD 2 ^^
    f.first ^^ f.last)

end Sys2Proof

namespace Sys2Proof.Machine

/-- The stop from which a router port of a stop receives, and to which it sends: 0 east, 1 west, 2 north, 3 south, 4 local
(R241). -/
def neighbour (stop input : Nat) : Nat :=
  let x := stop % 16
  let y := stop / 16
  match input with
  | 0 => 16 * y + (x + 1) % 16
  | 1 => 16 * y + (x + 15) % 16
  | 2 => 16 * ((y + 1) % 12) + x
  | 3 => 16 * ((y + 11) % 12) + x
  | _ => stop

/-- The stops of a die at which CT and IO attach (R241). -/
def ctStop (d : Nat) : Nat := match d with | 0 => 7 | 1 => 8 | 2 => 183 | _ => 184
def ioStop (d : Nat) : Nat := match d with | 0 => 80 | 1 => 95 | 2 => 96 | _ => 111

/-- CT and IO, as the receivers of what their attachments carry; their inputs are the four dies. -/
def ctNode : Nat := 192
def ioNode : Nat := 193

/-- The steps from `a` to `b` round a ring of `n`, the shorter way: whether positive, and their number. A tie goes in the positive
direction (R241). -/
def ringWay (n a b : Nat) : Bool × Nat :=
  let up := (b + n - a) % n
  if 2 * up ≤ n then (true, up) else (false, n - up)

/-- The router port by which a packet leaves a stop for a stop: along x first, then along y (R241). -/
def routePort (stop dst : Nat) : Nat :=
  if stop % 16 != dst % 16 then (if (ringWay 16 (stop % 16) (dst % 16)).1 then 0 else 1)
  else if stop / 16 != dst / 16 then (if (ringWay 12 (stop / 16) (dst / 16)).1 then 2 else 3)
  else 4

/-- The stops that a packet visits after `stop` on its way to `dst`, at most `n`: the path of every packet of the pair (R241). -/
def routePath (dst : Nat) : Nat → Nat → List Nat
  | 0, _ => []
  | n + 1, stop => if stop = dst then [] else neighbour stop (routePort stop dst) :: routePath dst n (neighbour stop (routePort stop dst))

/-- The inputs of a stop: its router's five ports, and the attachments of CT and IO at their edge stops (R241). -/
def portExists (stop input : Nat) : Bool :=
  if stop < 192 then
    input < 5 || (input = 5 && ctStop (dieOf stop) = stop) || (input = 6 && ioStop (dieOf stop) = stop)
  else input < 4

/-- The crossing between two dies, by its place in the table of causes (R248). -/
def crossingOf (a b : Nat) : Option Nat :=
  if a = b then none
  else match min a b, max a b with
    | 0, 1 => some 0
    | 2, 3 => some 1
    | 0, 2 => some 2
    | _, _ => some 3

/-- The raw crossing, of two dies or of an attachment, that a flit passes on its way into an input (R248). -/
def inputCrossing (stop input : Nat) : Option Nat :=
  if stop = ctNode then some 4
  else if stop = ioNode then some 5
  else if input = 5 then some 4
  else if input = 6 then some 5
  else crossingOf (dieOf (neighbour stop input)) (dieOf stop)

/-- A fatal event (R248, R357): every compute die stops, and only a module reset clears it. `logged` says whether CT can
write the entry. -/
def State.fatalEvent (s : State) (c : BitVec 10) (src : Nat) (logged : Bool) : State :=
  if s.module.fatal.isSome then s
  else
    let s := { s with module := { s.module with fatal := some c } }
    let s := if logged then s.logEvent { cause := c, src := src } else s
    s.send (.management c)

/-- CROSSING_PARITY_ERROR: `error` is the crossing, and whether CT's own path to memory is intact. -/
def execCrossingParityError (error : Fin 6 × Bool) (s : State) : Host.Outcome State Fault Refusal :=
  .next (s.fatalEvent (BitVec.ofNat 10 (0x3D0 + error.1.val)) 4 error.2)

/-- TORUS_PACKET_ARRIVAL: one flit at an input of a stop, of CT or of IO, in the reassembly context of its class; the last one makes
its packet visible (R246). A flit whose parity fails on a crossing is an error of it, whose entry CT writes (log 88). -/
def execTorusPacketArrival (stop : Fin 194) (input : Fin 7) (flit : Flit) (s : State) :
    Host.Outcome State Fault Refusal :=
  let i := input.val
  match inputCrossing stop.val i, flit.parityOk with
  | some x, false => .next (if portExists stop.val i then s.fatalEvent (BitVec.ofNat 10 (0x3D0 + x)) 4 true else s)
  | _, _ =>
    if s.module.fatal.isSome || !portExists stop.val i then .next s
    else
      let key := (stop.val * 7 + i) * 8 + flit.cls.toNat
      let io := s.io
      match Tab.find io.torus key, flit.first with
      | none, false => .next s
      | ctx, _ =>
        let flits := (if flit.first then [] else ctx.getD []) ++ [flit.content]
        if flit.last then
          .next { s with io := { io with torus := Tab.del io.torus key, arrived := io.arrived ++ [(stop.val, i, flits)] } }
        else .next { s with io := { io with torus := Tab.set io.torus key flits } }

/-! ### Abian links. -/

/-- Whether a link sequence number lies before another (R249): numbers count mod 4,096. -/
def seqBefore (a b : Nat) : Bool := a != b && (b + 4096 - a) % 4096 < 2048

/-- The flits before a number have been received: they leave the replay buffer, and are progress. -/
def Port.ack (p : Port) (n : Nat) : Port :=
  let left := p.replay.filter (fun f => !seqBefore f.lseq.toNat n)
  { p with replay := left, noProgress := if left.length < p.replay.length then 0 else p.noProgress }

/-- The flits that a port has kept are sent again, in order. -/
def State.resend (s : State) (p : Nat) : State := (s.port p).replay.foldl (fun s f => s.send (.link p f)) s

/-- The number that a port's next new flit takes after those that it sends again from `n` on. -/
def Port.nextSeq (p : Port) (n : Nat) : Nat := (n + p.replay.length) % 4096

/-- A NACK reaches the sender (R250): it replays from the number, and retrains after eight replays with no progress. -/
def State.replayFrom (s : State) (p n : Nat) : State :=
  let x := (s.port p).ack n
  let x := { x with replays := bump32 x.replays, noProgress := x.noProgress + 1, sendSeq := x.nextSeq n }
  let s := (s.setPort p x).resend p
  if 8 ≤ x.noProgress then s.startRetrain p else s

/-- The receiver discards a flit and asks for the one that it expects. -/
def State.sendNack (s : State) (p : Nat) : State :=
  let x := s.port p
  (s.setPort p { x.paid with nacked := true }).send (.link p x.nackFlit)

/-- The group of a class: 0 control, 1 urgent, 2 bulk (R239). -/
def classGroup (cls : Nat) : Nat := if cls = 7 then 0 else if 4 ≤ cls then 1 else 2

/-- The credits that a link flit returns, for the three groups (R249): control in the lowest 8 bits (log 91). -/
def flitCredits (f : LinkFlit) : List Nat := [bitsOf f.cred.toNat 7 0, bitsOf f.cred.toNat 15 8, bitsOf f.cred.toNat 23 16]

/-- Credits that come back. -/
def Port.refill (p : Port) (f : LinkFlit) : Port :=
  { p with credit := (List.range 3).map (fun g => p.credit.getD g 0 + (flitCredits f).getD g 0) }

/-- A data flit in order: its slots join the open packet of its class, and its buffer is given back with the next flit sent. -/
def State.takeLink (s : State) (p : Nat) (f : LinkFlit) : State :=
  let x := s.port p
  let cls := f.cls.toNat
  let g := classGroup cls
  let slots := f.slots.take (f.nslot.toNat + 1)
  let flits := (if f.sop then [] else Tab.get x.open_ [] cls) ++ slots
  let x := { x with expectSeq := (x.expectSeq + 1) % 4096, nacked := false, owed := x.owed.set g (x.owed.getD g 0 + 1),
                    open_ := if f.eop then Tab.del x.open_ cls else Tab.set x.open_ cls flits }
  let s := s.setPort p x
  if f.eop then { s with io := { s.io with arrived := s.io.arrived ++ [(194 + p, cls, flits)] } } else s

/-- LINK_FLIT_RECEIVE (R249, R250). The flits behind one that was discarded are discarded with it: only another failed CRC asks for
the expected flit again (log 91). -/
def execLinkFlitReceive (port : Fin 16) (flit : LinkFlit) (s : State) : Host.Outcome State Fault Refusal :=
  let p := port.val
  let x := s.port p
  if x.state != 2 then .next s
  else if !flit.crcOk || 4 ≤ flit.type then .next ((s.setPort p { x with crcerr := bump32 x.crcerr }).sendNack p)
  else
    let x := if flit.ackv then x.ack flit.lack.toNat else x
    let s := s.setPort p x
    match flit.type.toNat with
    | 0 =>
      if flit.lseq.toNat = x.expectSeq then .next ((s.setPort p (x.refill flit)).takeLink p flit)
      else .next (if x.nacked then s else s.sendNack p)
    | 1 => .next (s.setPort p (x.refill flit))
    | 2 => .next ((s.setPort p (x.refill flit)).replayFrom p flit.lack.toNat)
    | _ => .next ((s.setPort p (x.refill flit)).startRetrain p)

/-! What a port sends (R244, R246, R249, R250). -/

/-- The packet of a group that a port has open, or else the first one that waits, of class `cls` if there is one: by its place. -/
def Port.nextOf (x : Port) (g cls : Nat) : Option Nat :=
  match x.out.findIdx? (fun e => classGroup e.cls = g && 0 < e.sent) with
  | some i => some i
  | none => match x.out.findIdx? (fun e => classGroup e.cls = g && e.cls = cls) with
    | some i => some i
    | none => x.out.findIdx? (fun e => classGroup e.cls = g)

/-- The packet of a group that may send its next link flit: credit stands for it. -/
def Port.ready (x : Port) (g cls : Nat) : Option Nat := if x.credit.getD g 0 = 0 then none else x.nextOf g cls

/-- The group that sends in the next slot of a port (R244), by the floors of bulk and of urgent, then by rank. -/
def Port.slot (x : Port) (cls : Nat) : Option Nat :=
  let has (g : Nat) : Bool := (x.ready g cls).isSome
  if has 2 && 15 ≤ x.passed.2 then some 2
  else if has 1 && 3 ≤ x.passed.1 then some 1
  else if has 0 then some 0
  else if has 1 then some 1
  else if has 2 then some 2
  else none

/-- The slots in which urgent and bulk have been passed over, after one that serves a group. -/
def Port.passOver (x : Port) (g cls : Nat) : Port :=
  let n (h old : Nat) : Nat := if h = g then 0 else if (x.ready h cls).isSome then old + 1 else old
  { x with passed := (n 1 x.passed.1, n 2 x.passed.2) }

/-- A port sends an idle flit. -/
def State.sendIdle (s : State) (p : Nat) : State :=
  let x := s.port p
  (s.setPort p x.paid).send (.link p (x.flit 1 x.sendSeq 0 1 false false []))

/-- A port sends one link flit: up to four flits of the packet whose turn it is, or an idle one where there is none, or with 64
flits unacknowledged (R249, R250). -/
def State.linkSend (s : State) (p cls : Nat) : State :=
  let x := s.port p
  if x.state != 2 then s
  else match (if 64 ≤ x.replay.length then none else x.slot cls) with
    | none => s.sendIdle p
    | some g => match (x.ready g cls).bind (fun i => (x.out[i]?).map (fun e => (i, e))) with
      | none => s
      | some (i, e) =>
        let slots := (e.flits.drop e.sent).take 4
        let last := e.flits.length ≤ e.sent + 4
        let f := x.flit 0 x.sendSeq e.cls slots.length (e.sent = 0) last slots
        let x := (x.passOver g cls).paid
        (s.setPort p { x with
          sendSeq := (x.sendSeq + 1) % 4096, replay := x.replay ++ [f], credit := x.credit.set g (x.credit.getD g 0 - 1),
          out := if last then x.out.eraseIdx i else x.out.set i { e with sent := e.sent + 4 } }).send (.link p f)

/-- The largest packet of a class, in flits (R239). -/
def largestPacket (cls : Nat) : Nat := if cls = 7 then 2 else if 4 ≤ cls then 5 else 65

/-- A packet comes to a port (R249, R253): one that carries a peer request comes to the port that the request goes out by. -/
def State.linkPacket (s : State) (p cls : Nat) (flits : List (BitVec 256)) (req : Option Nat) : State :=
  let x := s.port p
  let fits := match req with
    | none => true
    | some i => cls = 5 && ((Tab.find s.io.reqs i).bind (fun r => r.port)) == some p
  if x.state != 2 || flits.isEmpty || largestPacket cls < flits.length || !fits then s
  else s.setPort p { x with out := x.out ++ [{ cls := cls, flits := flits, req := req }] }

/-! Packets on the torus (R239, R241, R242, R246). -/

/-- The stop at which a node stands, or at which CT or IO attaches for the die of the other end (R241). -/
def attachStop (node other : Nat) : Nat :=
  if node = ctNode then ctStop (dieOf other) else if node = ioNode then ioStop (dieOf other) else node

/-- A packet leaves a stop, CT or IO for another one, at the attachment of the compute die. -/
def State.torusSend (s : State) (src dst cls : Nat) (flits : List (BitVec 256)) : State :=
  if s.module.fatal.isSome || flits.isEmpty || largestPacket cls < flits.length || src = dst || (192 ≤ src && 192 ≤ dst) then s
  else
    let input := if src = ctNode then 5 else if src = ioNode then 6 else 4
    { s with io := { s.io with transit := s.io.transit ++
        [{ src := src, dst := dst, cls := cls, flits := flits, stop := attachStop src dst, input := input }] } }

/-- A packet takes the next hop of its path, or reaches its consumer. Two of one class between the same ends keep their order. -/
def State.torusHop (s : State) (i : Nat) : State :=
  let l := s.io.transit
  let put (l : List Transit) : State := { s with io := { s.io with transit := l } }
  match l[i]? with
  | none => s
  | some p =>
    let last := attachStop p.dst p.src
    if s.module.fatal.isSome || (l.take i).any (fun q => q.src = p.src && q.dst = p.dst && q.cls = p.cls) then s
    else if p.stop = last then
      let input := if p.dst < 192 then p.input else dieOf p.stop
      let s := put (l.eraseIdx i)
      { s with io := { s.io with arrived := s.io.arrived ++ [(p.dst, input, p.flits)] } }
    else
      let out := routePort p.stop last
      put (l.set i { p with stop := neighbour p.stop out, input := [1, 0, 3, 2].getD out 4 })

/-! The states of a port (R250 to R252). -/

/-- NACK_RECEIVE. -/
def execNackReceive (port : Fin 16) (lseq : BitVec 12) (s : State) : Host.Outcome State Fault Refusal :=
  if (s.port port.val).state = 2 then .next (s.replayFrom port.val lseq.toNat) else .next s

def execLaneLockLoss (port : Fin 16) (s : State) : Host.Outcome State Fault Refusal := .next (s.startRetrain port.val)
def execForceRetrain (port : Fin 16) (s : State) : Host.Outcome State Fault Refusal :=
  .next (s.hostWrite 0 0x20000 (s.forceRetrain port.val))

/-- The cycles of 1 ms (R251). -/
def millisecond : Nat := 1400000

/-- A port that has come up retrains at once where FORCE waits for it (R252). -/
def State.upForced (s : State) (p : Nat) : State := if (s.port p).force then s.startRetrain p else s

/-- RETRAIN_END (R251): each side resumes from the number that the other gave. -/
def execRetrainEnd (port : Fin 16) (partnerExpects : BitVec 12) (s : State) : Host.Outcome State Fault Refusal :=
  let p := port.val
  let x := s.port p
  if x.state != 3 || x.retrainAt + millisecond < s.now then .next s
  else
    let s := s.noteRetrain p
    let x := (s.port p).ack partnerExpects.toNat
    .next (((s.setPort p { x with state := 2, noProgress := 0, nacked := false, sendSeq := x.nextSeq partnerExpects.toNat }).resend p).upForced p)

/-- LINK_DOWN_EVENT: a retrain of more than 1 ms (R251). -/
def execLinkDownEvent (port : Fin 16) (s : State) : Host.Outcome State Fault Refusal :=
  let p := port.val
  let x := s.port p
  if x.state = 3 && x.retrainAt + millisecond < s.now then .next (s.linkDown p) else .next s

def execPortEnable (port : Fin 16) (s : State) : Host.Outcome State Fault Refusal :=
  .next (s.hostWrite 0 0x20000 (s.writePortEn port.val true))
def execPortDisable (port : Fin 16) (s : State) : Host.Outcome State Fault Refusal :=
  .next (s.hostWrite 0 0x20000 (s.writePortEn port.val false))

/-- LINK_TRAINED (R252). -/
def execLinkTrained (port : Fin 16) (peerMod : BitVec 16) (peerPort : BitVec 4) (s : State) :
    Host.Outcome State Fault Refusal :=
  let p := port.val
  let x := s.port p
  if x.state = 1 then
    .next ((s.setPort p { x with state := 2, peermod := peerMod.toNat, peerport := peerPort.toNat, sendSeq := 0,
                                 expectSeq := 0, nacked := false, replay := [], open_ := [], out := [], noProgress := 0,
                                 credit := (List.range 3).map Config.linkCredit, owed := [0, 0, 0], passed := (0, 0) }).upForced p)
  else .next s

/-! ### Peer requests at the source. -/

/-- Whether the window of a pair lets the next tag be assigned (R253). -/
def State.tagFree (s : State) (key next : Nat) : Bool :=
  s.io.reqs.all (fun e => pairKey e.2.dev e.2.rmod e.2.rdev != key || match e.2.tag with
    | some t => (next + 65536 - t) % 65536 < 256
    | none => true)

/-- PEER_TAG_ASSIGN. -/
def execPeerTagAssign (req : Nat) (s : State) : Host.Outcome State Fault Refusal :=
  match Tab.find s.io.reqs req with
  | none => .next s
  | some r =>
    let key := pairKey r.dev r.rmod r.rdev
    let t := Tab.get s.io.tags 0 key
    if r.host || r.rmod = s.io.mymod || !(r.op.writes || r.op.atomic) || r.tag.isSome || r.down || !s.tagFree key t then .next s
    else
      let put (r : PeerReq) : State :=
        { s with io := { s.io with reqs := Tab.set s.io.reqs req r, tags := Tab.set s.io.tags key ((t + 1) % 65536) } }
      let r := { r with tag := some t, sent := s.now }
      match s.portFor r with
      | some p => .next (put { r with port := some p })
      | none => .next ((put { r with down := true }).unparkWaiter r.waiter)

/-- PEER_RESPONSE: a confirmation that a request will never be performed answers a cancel, or a request that is sent again after one
(R254, R255). -/
def execPeerResponse (req : Nat) (r : PeerResult) (s : State) : Host.Outcome State Fault Refusal :=
  match Tab.find s.io.reqs req with
  | none => .next s
  | some x =>
    let sure := r = .cancelled
    if x.host || x.port.isNone || x.result.isSome || x.down || (sure && !x.cancelling && !x.confirmed) then .next s
    else
      let s := s.answerReq req { x with confirmed := sure || x.confirmed } r
      if r = .cancelled then
        .next (s.logEvent { cause := BitVec.ofNat 10 (0x288 + x.type), src := 5, addr := BitVec.ofNat 64 x.va })
      else .next s

/-- PEER_TIMEOUT: a cancel goes out over every port to the target (R255). A request that is held inside the module has not been
performed: the cancel that reaches it there is confirmed. -/
def execPeerTimeout (req : Nat) (s : State) : Host.Outcome State Fault Refusal :=
  match Tab.find s.io.reqs req with
  | none => .next s
  | some x =>
    let near := x.rmod = s.io.mymod
    if x.host || (x.port.isNone && !near) || x.result.isSome || x.down || x.cancelling || s.now < x.sent + 1024 * s.io.ptmo then .next s
    else if near then
      let x' := { x with result := some .cancelled }
      .next (({ s with io := { s.io with reqs := Tab.set s.io.reqs req x' } }.wakeWaiter x.waiter).logEvent
        { cause := BitVec.ofNat 10 (0x288 + x.type), src := 5, addr := BitVec.ofNat 64 x.va })
    else .next ({ s with io := { s.io with reqs := Tab.set s.io.reqs req { x with cancelling := true } } }.send (.cancel req))

/-! ### Peer requests at the target (R254, R255). -/

/-- The key of what a target device keeps for a source device. -/
def seenKey (srcMod srcDev dev : Nat) : Nat := (srcMod * 4 + srcDev) * 4 + dev

/-- The tagged operations that return a value to a peer (R254): a Perform of a Spinel engine too (R90). -/
def returnsValue : MemOp → Bool
  | .atm _ _ _ _ => true
  | .atms _ _ _ => true
  | .xrd _ _ => true
  | .cwAdd _ _ => true
  | .cwSet _ => true
  | .node _ => true
  | .read _ => false
  | .write _ _ => false
  | .xadd _ => false
  | .xclr => false
  | .cwRead => false

/-- The key of the results kept for a source device (R254). -/
def sourceKey (srcMod srcDev : Nat) : Nat := srcMod * 4 + srcDev

/-- The result of a request with a tag for device `dev` that has been performed before. -/
def State.again (s : State) (srcMod srcDev dev t : Nat) (value : Bool) : PeerResult :=
  if !value then .done
  else match (Tab.get s.io.replay [] (sourceKey srcMod srcDev)).find? (fun e => e.1 = dev && e.2.1 = t) with
    | some e => .value e.2.2
    | none => .appliedUnknown

/-- The result of a request that returns a value is kept: the 64 latest of its source (R254). -/
def State.keepResult (s : State) (srcMod srcDev dev t v : Nat) : State :=
  let key := sourceKey srcMod srcDev
  { s with io := { s.io with replay := Tab.set s.io.replay key (((dev, t, v) :: Tab.get s.io.replay [] key).take 64) } }

/-- Whether a tag lies within the 256 latest up to `latest` (R254). -/
def inWindow (latest t : Nat) : Bool := (latest + 65536 - t) % 65536 < 256

/-- The map after a request of a tag has arrived: it holds the 256 latest tags, and no bit of an earlier use of a tag (R254). -/
def Seen.arrive (x : Seen) (t : Nat) : Seen :=
  match x.latest with
  | none => { x with latest := some t }
  | some l =>
    if inWindow l t then x
    else { x with latest := some t, performed := x.performed.filter (fun e => inWindow t e.1),
                  cancelled := x.cancelled.filter (inWindow t) }

/-- A performed request with a tag is marked. -/
def Seen.mark (x : Seen) (t : Nat) (value : Bool) : Seen := { x with performed := (t, value) :: x.performed }

/-- The answer that a cause found at the target becomes. -/
def targetResult (c : BitVec 10) : PeerResult :=
  if 0x180 ≤ c && c < 0x1C0 then .countWord (BitVec.ofNat 3 ((c.toNat - 0x180) / 8))
  else if 0x2A0 ≤ c && c < 0x2A8 then .integrity
  else if 0x2A8 ≤ c && c < 0x2B0 then .gone
  else .fault c

/-- A logical device of another module, at the device that it accesses. -/
def farActor (req : PeerIn) : Actor :=
  { party := .ct, dev := 4 + req.srcMod.toNat * 4 + req.srcDev.val, type := req.acc.toNat, waiter := .engine 198 (PeerIn.code req) }

/-- PEER_TARGET_REQUEST. A request that a class change or a read of host memory holds is taken up again. -/
def execPeerTargetRequest (req : PeerIn) (s : State) : Host.Outcome State Fault Refusal :=
  let io := s.io
  let s := { s with io := { io with heldPeers := io.heldPeers.filter (fun p => p.1 != req) } }
  let key := seenKey req.srcMod.toNat req.srcDev.val req.dev.val
  let t := (req.tag.map (fun t => t.toNat)).getD 0
  let x := if req.tag.isSome then (Tab.get s.io.seen {} key).arrive t else Tab.get s.io.seen {} key
  let s := if req.tag.isSome then { s with io := { s.io with seen := Tab.set s.io.seen key x } } else s
  let answer (s : State) (r : PeerResult) : Host.Outcome State Fault Refusal :=
    .next (s.send (.peerAnswer req.srcMod.toNat req.srcDev.val t r))
  let old := if req.tag.isSome then x.performed.find? (fun e => e.1 = t) else none
  if req.tag.isSome && x.cancelled.contains t then answer s .cancelled
  else match old with
    | some e => answer s (s.again req.srcMod.toNat req.srcDev.val req.dev.val t e.2)
    | none =>
      match s.targetAccess req.dev.val (farActor req) req.va.toNat req.op with
      | (.fault c, s) => answer s (targetResult c)
      | (.pager h, s) => .next { s with io := { s.io with heldPeers := s.io.heldPeers ++ [(req, h.entry)] } }
      | (.ok v, s) =>
        let valued := returnsValue req.op
        let s := if req.tag.isSome then { s with io := { s.io with seen := Tab.set s.io.seen key (x.mark t valued) } } else s
        let s := if req.tag.isSome && valued then s.keepResult req.srcMod.toNat req.srcDev.val req.dev.val t v else s
        answer s (if req.op.writes && !returnsValue req.op then .done else .value v)
      | (_, s) => .next { s with io := { s.io with heldPeers := s.io.heldPeers ++ [(req, 64)] } }

/-- PEER_CANCEL: the result, or the confirmation that the request never will be performed (R255). -/
def execPeerCancel (srcMod : BitVec 16) (srcDev dev : Fin 4) (tag : BitVec 16) (s : State) :
    Host.Outcome State Fault Refusal :=
  let key := seenKey srcMod.toNat srcDev.val dev.val
  let t := tag.toNat
  let x := (Tab.get s.io.seen {} key).arrive t
  let answer (s : State) (r : PeerResult) : Host.Outcome State Fault Refusal :=
    .next (s.send (.peerAnswer srcMod.toNat srcDev.val t r))
  match x.performed.find? (fun e => e.1 = t) with
  | some e => answer s (s.again srcMod.toNat srcDev.val dev.val t e.2)
  | none =>
    let io := s.io
    let mine (p : PeerIn × Nat) : Bool := p.1.srcMod = srcMod && p.1.srcDev = srcDev && p.1.dev = dev && p.1.tag = some tag
    answer { s with io := { io with heldPeers := io.heldPeers.filter (fun p => !mine p),
                                    seen := Tab.set io.seen key { x with cancelled := t :: x.cancelled } } } .cancelled

/-- The cancel of a load, which carries no tag: the load itself names it (R255). One that is held here never will be performed; one
that is not has been answered, or comes too late to be heard. -/
def State.cancelLoad (s : State) (req : PeerIn) : State :=
  if req.tag.isSome then s
  else { s with io := { s.io with heldPeers := s.io.heldPeers.filter (fun p => p.1 != req) } }.send
    (.peerAnswer req.srcMod.toNat req.srcDev.val 0 .cancelled)

/-! ### The host port (R259 to R261). -/

/-- The inbound party's accesses through a function's aperture. -/
def inboundActor (fn type : Nat) (drains : List Nat) : Actor :=
  { party := .inbound, dev := fn, type := type, waiter := .engine 197 fn, drains := drains }

/-- One line piece of an inbound access (R260): a page that does not translate is refused, whatever its pager. -/
def State.inboundPiece (s : State) (fn type va : Nat) (drains : List Nat) (op : MemOp) : Acc × State :=
  let a := inboundActor fn type drains
  if nonCanon va then (.fault (BitVec.ofNat 10 (0x110 + type)), s)
  else match s.walk fn va with
    | (.leaf l, s) =>
      let (r, s) := s.accessLeaf a l va op
      (r, match r with
        | .ok _ => if l.fixed.isSome then s else s.recordPage fn (va / 65536) l.key
        | _ => s)
    | (.absent _, s) => (.fault (BitVec.ofNat 10 (0x100 + type)), s)
    | (.error, s) => (.fault (BitVec.ofNat 10 (0x108 + type)), s)
    | (.host, s) => (.fault (BitVec.ofNat 10 (0x2B0 + type)), s)
    | (.full, s) => (.stall missPage, s)
    | (.lost pa, s) => s.unreadable a pa va

/-- Whether a cause is one of translation or protection, here or at a peer (R260); the others are errors of a line or of a path. -/
def refusedBy (c : BitVec 10) : Bool := c < 0x288 || (0x2A8 ≤ c && c < 0x2B0)

/-- The line pieces of a write. -/
def inboundLines (va : Nat) (data : List Byte) : List (Nat × List Byte) :=
  (linePieces va (data.length / 128 + 2) data.length).map (fun e => (e.1, (data.drop (e.1 - va)).take e.2))

/-- A refused inbound write is counted, logged and reported once (R260). -/
def State.dropWrite (s : State) (fn va : Nat) : State :=
  let x := s.device fn
  ((s.setDevice fn { x with indrop := bump32 x.indrop }).logEvent
    { cause := 0x00B, src := 5, addr := BitVec.ofNat 64 va }).send (.aer fn)

/-- Whether every page that a write has still to touch is recorded as PRIVATE to the inbound party (R259). -/
def State.isPrivate (s : State) (w : Inbound) : Bool :=
  w.pieces.all (fun e => (s.recorded w.fn (e.1 / 65536)).isSome)

/-- The pieces of a stream's writes that may be placed now, by the write's and the piece's place (R259): those of the first write,
and of the writes behind it as long as all touch PRIVATE pages alone, but one line keeps the order of its writes. -/
def State.freePieces (s : State) (first : Bool) (lines : List Nat) : List (Nat × Inbound) → List (Nat × Nat)
  | [] => []
  | (i, w) :: rest =>
    if first || s.isPrivate w then
      let here := ((List.range w.pieces.length).filter (fun j => !lines.contains ((w.pieces.getD j default).1 / 128))).map
        (fun j => (i, j))
      here ++ if s.isPrivate w then s.freePieces false (lines ++ w.pieces.map (fun e => e.1 / 128)) rest else []
    else []

/-- The writes that a stream has outstanding, at most 256, by their places (R259). -/
def State.streamOf (s : State) (fn requester : Nat) : List (Nat × Inbound) :=
  (((List.range s.io.inbound.length).zip s.io.inbound).filter (fun e => e.2.fn = fn && e.2.requester = requester)).take 256

/-- A piece of a write has been placed, or is given up; a write without pieces is over. -/
def State.endPiece (s : State) (i j : Nat) (bad : Bool) : State :=
  let l := s.io.inbound.modify i (fun w => { w with pieces := w.pieces.eraseIdx j, dropped := w.dropped || bad })
  { s with io := { s.io with inbound := l.filter (fun w => !w.pieces.isEmpty) } }

/-- One piece of a write is placed, unless a class change holds it; a write that is refused is reported once. -/
def State.placePiece (s : State) (i j : Nat) : State :=
  match s.io.inbound[i]? with
  | none => s
  | some w =>
    let (va, bs) := w.pieces.getD j default
    match s.inboundPiece w.fn 1 va w.drains (.write bs.length (bytesNat bs)) with
    | (.ok _, s) => s.endPiece i j false
    | (.fault c, s) =>
      let bad := refusedBy c
      (if bad && !w.dropped then s.dropWrite w.fn va else s).endPiece i j bad
    | (_, s) => s

/-- A piece of a stream, by its place among those that may be placed now, is placed. -/
def State.placeNext (s : State) (fn requester sel : Nat) : State :=
  let l := s.freePieces true [] (s.streamOf fn requester)
  match l[sel % l.length]? with
  | none => s
  | some (i, j) => s.placePiece i j

/-- INBOUND_WRITE: the write joins its stream; one of a single line that nothing is before is placed. -/
def execInboundWrite (fn : Fin 4) (requester : BitVec 16) (off : BitVec 38) (data : List (BitVec 8)) (s : State) :
    Host.Outcome State Fault Refusal :=
  let va := (s.device fn.val).apbase + off.toNat
  let w : Inbound := { fn := fn.val, requester := requester.toNat, pieces := inboundLines va data }
  if !s.module.ready || w.pieces.isEmpty then .next s
  else
    let t : State := { s with io := { s.io with inbound := s.io.inbound ++ [w] } }
    if s.streamHeld ⟨fn, requester⟩ || w.pieces.length != 1 then .next t else .next (t.placePiece s.io.inbound.length 0)

/-- INBOUND_WRITE_RELEASE: one line piece of a stream is placed, by its place among those that may be. -/
def execInboundWriteRelease (by_ : Stream) (sel : Nat) (s : State) : Host.Outcome State Fault Refusal :=
  .next (s.placeNext by_.fn.val by_.requester.toNat sel)

/-- One line of an inbound read is performed, or the read ends (R260): with its data, refused with Unsupported Request, or aborted
by an error of a line or of a path (log 89). -/
def State.readOn (s : State) (r : Reading) (others : List Reading) : State :=
  let put (s : State) (l : List Reading) : State := { s with io := { s.io with reading := l } }
  match r.pieces with
  | [] => (put s others).send (.readData r.fn (some r.got))
  | (va, k) :: rest =>
    match s.inboundPiece r.fn 0 va [] (.read k) with
    | (.ok v, s) =>
      let got := r.got ++ natBytes k v
      if rest.isEmpty then (put s others).send (.readData r.fn (some got)) else put s (others ++ [{ r with pieces := rest, got := got }])
    | (.fault c, s) => (put s others).send (if refusedBy c then .readData r.fn none else .readAbort r.fn)
    | (_, s) => put s (others ++ [r])

/-- INBOUND_READ: it begins after every earlier write of its stream, and goes on line by line; the same read named again goes on
with it. -/
def execInboundRead (fn : Fin 4) (requester : BitVec 16) (off : BitVec 38) (len : Nat) (s : State) :
    Host.Outcome State Fault Refusal :=
  let va := (s.device fn.val).apbase + off.toNat
  let mine (r : Reading) : Bool := r.fn = fn.val && r.requester = requester.toNat && r.va = va && r.len = len
  let others := s.io.reading.filter (fun r => !mine r)
  match s.io.reading.find? mine with
  | some r => .next (s.readOn r others)
  | none =>
    if !s.module.ready || s.streamHeld ⟨fn, requester⟩ then .next s
    else .next (s.readOn { fn := fn.val, requester := requester.toNat, va := va, len := len,
                           pieces := linePieces va (len / 128 + 2) len } others)

/-- HOST_PORT_LINK_CHANGE (R261): the registers of all four functions follow the one link, whichever function tells of it. -/
def execHostPortLinkChange (_dev : Fin 4) (speed : BitVec 3) (width : BitVec 2) (s : State) : Host.Outcome State Fault Refusal :=
  .next { s with io := { s.io with lspeed := speed.toNat, lwidth := width.toNat } }

end Sys2Proof.Machine
end

