-- ==== Sys2Proof/Machine/Management.lean ====
section
/-! DEFINITION. Scrubbing and retirement (R54, R385), resets (R386, R387), bring-up and firmware (R388, R389), attestation
(R390, R395), the security mailbox (R394), power and clock (R391), fatal events (R357), and the debug port (R332). -/

namespace Sys2Proof.Machine

/-! ### Scrubbing and bank retirement (R385). -/

/-- The key of a slice. -/
def sliceKey (die slice : Nat) : Nat := die * 48 + slice

def State.slice (s : State) (die slice : Nat) : Slice := Tab.get s.slices {} (sliceKey die slice)
def State.setSlice (s : State) (die slice : Nat) (x : Slice) : State :=
  { s with slices := Tab.set s.slices (sliceKey die slice) x }

/-- AUX of an entry about a bank. -/
def bankAux (slice bank : Nat) : Word64 := BitVec.ofNat 64 (slice + bank * 2 ^ 8)

/-- The errors that the banks have corrected in the scrub period that now is. -/
def Slice.period (x : Slice) : Tab Nat := if x.closed then [] else x.counts

/-- SCRUB_PASS: one whole pass of a slice and its part of the stacks, with which a scrub period ends: the errors it corrected, each
logged and counted beside those that accesses met in the period, and the lines of the die, by number, that it found lost. -/
def execScrubPass (die : Fin 4) (slice : Fin 48) (corrected : List (Fin 18)) (lost : List (BitVec 31)) (s : State) :
    Host.Outcome State Fault Refusal :=
  let d := die.val
  let x := s.slice d slice.val
  let counts : Tab Nat := corrected.foldl (fun t b => Tab.set t b.val (Tab.get t 0 b.val + 1)) x.period
  let s := s.setSlice d slice.val { x with counts := counts, closed := true }
  let s := corrected.foldl (fun s b => s.logEvent { cause := 0x00C, src := d, aux := bankAux slice.val b.val }) s
  let here := lost.filter (fun n => n.toNat % 48 = slice.val && n.toNat * 128 < guashSize)
  .next { s with lost := here.foldl (fun l n => addNat l (d * 2 ^ 31 + n.toNat)) s.lost }

/-- BANK_RETIRED: a bank whose count has reached CETHR goes to the spare, or stays marked failed. With CETHR 0 none does (R393). -/
def execBankRetired (die : Fin 4) (slice : Fin 48) (bank : Fin 18) (s : State) : Host.Outcome State Fault Refusal :=
  let d := die.val
  let x := s.slice d slice.val
  let n := Tab.get x.counts 0 bank.val
  if s.module.cethr = 0 || n < s.module.cethr || x.failed.contains bank.val then .next s
  else
    let aux := bankAux slice.val bank.val
    let y := { x with failed := addNat x.failed bank.val }
    if !x.spare then .next ((s.setSlice d slice.val { y with spare := true }).logEvent { cause := 0x00F, src := d, aux := aux })
    else if x.logged then .next (s.setSlice d slice.val y)
    else .next ((s.setSlice d slice.val { y with logged := true }).logEvent { cause := 0x010, src := d, aux := aux })

/-- CORE_RETIREMENT (R54). -/
def execCoreRetirement (core : Fin 192) (s : State) : Host.Outcome State Fault Refusal :=
  let c := core.val
  let s := s.setCore c { s.core c with retired := true }
  let d := s.device (dieOf c)
  .next (s.setDevice (dieOf c) { d with inserv := d.inserv &&& ~~~(1#48 <<< coreIndex c) })

/-! ### Firmware (R388, R389). -/

/-- The image in a flash slot. -/
def State.flashImage (s : State) (slot : Bool) : Option (List Byte) :=
  match Tab.find s.fuses.flash (bit slot) with
  | some x => x
  | none => some (Config.flash slot)

/-- The fused counter. -/
def State.fused (s : State) : BitVec 16 := s.fuses.counter.getD Config.fusedCounter

/-- The version and the counter of the image in a slot, if it is valid. -/
def State.validImage (s : State) (slot : Bool) : Option (BitVec 32 × BitVec 16) :=
  match (s.flashImage slot).bind Config.verifyImage with
  | some (v, c) => if c < s.fused then none else some (v, c)
  | none => none

/-- The slot that bring-up chooses: the higher counter, then the higher version, slot 0 on a tie. -/
def State.chooseSlot (s : State) : Option (Bool × BitVec 32 × BitVec 16) :=
  match s.validImage false, s.validImage true with
  | none, none => none
  | some (v, c), none => some (false, v, c)
  | none, some (v, c) => some (true, v, c)
  | some (v, c), some (v', c') => if c < c' || (c = c' && v < v') then some (true, v', c') else some (false, v, c)

/-- Bring-up from step 2 on: the verified image runs, and READY is set (R388). -/
def State.startImage (s : State) (slot : Bool) (version : BitVec 32) (counter : BitVec 16) : State :=
  let fused := if s.fused < counter then counter else s.fused
  let m := { s.module with ready := true, recovery := false, slot := slot, fwver := version.toNat, rollback := fused.toNat }
  let ports := (List.range 16).filter (fun p => Config.flashPortEnable.getLsbD p)
  let s := { s with
    module := m
    fuses := { s.fuses with counter := if s.fused < counter then some counter else s.fuses.counter }
    mem := hostPart s.mem, classes := [], mapped := [], reclass := [], accessed := [], dirty := [], lost := []
    devices := freshDevices s.now, cores := [], tasks := [], groups := [], slices := []
    io := { s.io with reqs := [], inbound := [], reading := [], record := [], heldPeers := [] } }
  ports.foldl (fun s p => s.writePortEn p true) s

/-- BRINGUP. -/
def execBringup (s : State) : Host.Outcome State Fault Refusal :=
  if s.module.ready || s.module.recovery then .next s
  else match s.chooseSlot with
    | some (slot, v, c) => .next (s.startImage slot v c)
    | none =>
      let s := { s with module := { s.module with recovery := true, rollback := s.fused.toNat } }
      .next ((s.logEvent { cause := 0x3C1 }).send (.management 0x3C1))

/-! ### Resets (R386, R387). -/

/-- MODULE_RESET. -/
def execModuleReset (s : State) : Host.Outcome State Fault Refusal := .next s.resetModule

/-- Whether a party belongs to a die. -/
def Party.onDie (d : Nat) : Party → Bool
  | .core n => dieOf n = d
  | .spinel e => e = d
  | _ => false

/-- Whether engine items of a die are pending. -/
def State.enginesBusy (s : State) (d : Nat) : Bool :=
  (coresOf d).any (fun c => !(s.core c).copies.isEmpty || !(s.core c).shuffles.isEmpty) ||
  (s.device d).spinel.ctxs.any (fun k => k.2.walk.isSome)

/-- An abandoned engine item: 2^48 for its count word, if it can be reached, and an event. -/
def State.abandon (s : State) (c : Nat) (a : Actor) (cw : Word64) (item task : Nat) : State :=
  let s := if cw = 0 then s else (s.access a none cw.toNat (.cwAdd (BitVec.ofNat 64 (2 ^ 48)) true)).2
  s.logEvent { cause := BitVec.ofNat 10 (0x2A8 + a.type), src := a.dev, core := c, item := item, addr := cw, task := some task,
               aux := cw }

/-- The engine items of a core are abandoned. -/
def State.abandonCore (s : State) (c : Nat) : State :=
  let x := s.core c
  let s := x.copies.foldl (fun s k =>
    let a := k.2.actor c k.1
    if k.2.items.isEmpty then s.abandon c a k.2.cw 0 k.2.task
    else k.2.items.zipIdx.foldl (fun s i => if i.1.ended then s else s.abandon c a k.2.cw i.2 k.2.task) s) s
  let s := x.shuffles.foldl (fun s k =>
    s.abandon c { party := .core c, dev := dieOf c, task := some k.task, type := 4, waiter := .engine c 35 } k.cw 0 k.task) s
  s.setCore c { s.core c with copies := [], shuffles := [] }

/-- The reclaim walks of a die are abandoned. -/
def State.abandonWalks (s : State) (d : Nat) : State :=
  let s := (s.device d).spinel.ctxs.foldl (fun s k =>
    if k.2.walk.isSome then
      s.logEvent { cause := 0x2AE, src := d, addr := BitVec.ofNat 64 k.2.addr, task := some k.2.task } else s) s
  let x := s.device d
  s.setDevice d { x with spinel := { x.spinel with ctxs := x.spinel.ctxs.map (fun k => (k.1, { k.2 with walk := none })) } }

/-- ENGINE_DRAIN_TIMEOUT: 1 ms into a device reset. -/
def execEngineDrainTimeout (dev : Fin 4) (s : State) : Host.Outcome State Fault Refusal :=
  let d := dev.val
  let x := s.device d
  if x.drst && x.drstAt + millisecond ≤ s.now then
    .next (((coresOf d).foldl (fun s c => s.abandonCore c) s).abandonWalks d)
  else .next s

/-- The warps of a device depart from every group, and the groups that it created are freed, as GFREE would (R344). -/
def State.resetGroups (s : State) (d : Nat) : State :=
  let s := s.groups.keys.foldl (fun s i =>
    ((s.group i).members.filter (fun m => (s.task m.task).dev = d)).foldl (fun s m => s.departFrom (.named i) m false) s) s
  { s with groups := s.groups.map (fun g =>
      if g.2.live && g.2.dev = d then (g.1, { gen := if g.2.gen + 1 = 0xFFFFF then 0 else (g.2.gen + 1) % 2 ^ 20 }) else g) }

/-- Step 4 of a logical-device reset: every structure of the device takes its reset state. -/
def State.clearDevice (s : State) (d : Nat) : State :=
  let s := s.resetGroups d
  let gone := s.io.heldPeers.filter (fun p => p.1.dev.val = d)
  let s := gone.foldl (fun s p =>
    s.send (.peerAnswer p.1.srcMod.toNat p.1.srcDev.val ((p.1.tag.map (fun t => t.toNat)).getD 0) .gone)) s
  let mine (pfn : Nat) : Bool := isGuash (pfn * 65536) && pfn * 65536 / 2 ^ 38 = d
  let io := { s.io with
    reqs := s.io.reqs.filter (fun e => e.2.dev != d)
    heldPeers := s.io.heldPeers.filter (fun p => p.1.dev.val != d)
    inbound := s.io.inbound.filter (fun p => p.fn != d)
    reading := s.io.reading.filter (fun p => p.fn != d)
    record := s.io.record.filter (fun e => e.1 / 2 ^ 41 != d) }
  { s with
    io := io
    devices := Tab.set s.devices d { clockBase := s.now }
    cores := s.cores.filter (fun c => dieOf c.1 != d)
    tasks := s.tasks.filter (fun t => t.2.dev != d)
    classes := s.classes.filter (fun e => !mine (keyFirst e.1))
    mapped := s.mapped.filter (fun e => !mine (keyFirst e.1))
    reclass := (s.reclass.filter (fun e => !mine (keyFirst e.1))).map (fun e =>
      (e.1, { e.2 with awaiting := e.2.awaiting.filter (fun p => !Party.onDie d p) }))
    accessed := s.accessed.filter (fun p => !mine p)
    dirty := s.dirty.filter (fun p => !mine p)
    slices := s.slices.filter (fun e => e.1 / 48 != d) }

/-- Step 3 of a logical-device reset: a dirty line whose writeback to its stack fails is lost, and an event names it. The cause's
parameter is that of a write (log 90). -/
def State.writebackLost (s : State) (d line : Nat) : State :=
  if !(s.device d).drst || guashSize ≤ 128 * line then s
  else
    let n := d * 2 ^ 31 + line
    { s with lost := addNat s.lost n }.logEvent { cause := 0x2C9, src := d, addr := BitVec.ofNat 64 (128 * n) }

/-- DEVICE_RESET: a function-level reset of an enabled function (R388) begins one; one that has begun ends when no engine item is
pending. -/
def execDeviceReset (dev : Fin 4) (s : State) : Host.Outcome State Fault Refusal :=
  let d := dev.val
  if !(s.device d).drst then .next (if s.module.ready then s.startReset d else s)
  else if s.enginesBusy d then .next s
  else .next (s.clearDevice d)

/-! ### The security mailbox (R390, R394, R395). -/

/-- The bytes of an import table as it stands. -/
def State.importBytes (s : State) (d : Nat) : List Byte :=
  (List.range 1024).flatMap (fun i =>
    let e := Tab.get s.io.imports {} (d * 1024 + i)
    [e.readReg 0x00, e.readReg 0x08, e.readReg 0x10, 0].flatMap (natBytes 8))

/-- The isolation state that ISODIGEST covers. -/
def State.isolation (s : State) : List Byte :=
  natBytes 8 s.io.mymod ++ (List.range 4).flatMap (fun d => s.importBytes d) ++
  (List.range 4).map (fun f => BitVec.ofNat 8 (bit (f = 0 || !s.module.recovery))) ++
  (List.range 4).map (fun d => BitVec.ofNat 8 (bit (s.device d).dbgen))

/-- The report over NONCE. -/
def State.makeReport (s : State) : List Byte :=
  let m := s.module
  let digest (b : List Byte) : List Byte := natBytes 64 (Config.sha512 b).toNat
  let nonce := placeBytes m.nonce 32 0 (bytesNat (m.nonce.take 8))
  let body := nonce ++ natBytes 16 Config.serial.toNat ++ digest (Config.imageBody ((s.flashImage m.slot).getD [])) ++
    natBytes 8 (m.fwver + m.rollback * 2 ^ 32 + bit m.recovery * 2 ^ 48) ++ digest s.isolation ++ natBytes 8 0
  body ++ natBytes 64 (Config.identitySign body).toNat

/-- Whether the mailbox holds a command to carry out. -/
def State.mailbox (s : State) (cmd : Nat) : Bool := s.module.mbgo && s.module.mbrun.op = cmd

def execAttest (s : State) : Host.Outcome State Fault Refusal :=
  if s.mailbox 1 then .next ({ s with module := { s.module with report := s.makeReport } }.endMailbox 0) else .next s

/-- CERT. A misaligned buffer is a bad argument. -/
def execCert (s : State) : Host.Outcome State Fault Refusal :=
  let m := s.module
  let c := Config.certificate
  if !s.mailbox 2 then .next s
  else if m.mbrun.len < c.length || m.mbrun.va % 64 != 0 then .next (s.endMailbox 2)
  else .next ({ s with mem := Memory.write s.mem (hostBase + m.mbrun.va) c.length (bytesNat c)
                       module := { m with mblen := c.length } }.endMailbox 0)

/-- LOAD. -/
def execLoad (hostError flashError : Bool) (s : State) : Host.Outcome State Fault Refusal :=
  let m := s.module
  if !s.mailbox 3 then .next s
  else if m.mbrun.len = 0 || 2 ^ 26 < m.mbrun.len || m.mbrun.va % 64 != 0 then .next (s.endMailbox 2)
  else if hostError then .next (s.endMailbox 3)
  else
    let image := Memory.bytes s.mem (hostBase + m.mbrun.va) m.mbrun.len
    match Config.verifyImage image with
    | none => .next (s.endMailbox 4)
    | some (v, c) =>
      if c < s.fused then .next (s.endMailbox 5)
      else
        let slot := !m.recovery && !m.slot
        let put (x : Option (List Byte)) : State :=
          { s with fuses := { s.fuses with flash := Tab.set s.fuses.flash (bit slot) x } }
        if flashError then .next ((put none).endMailbox 6)
        else
          let s := put (some image)
          .next ((if m.recovery then s.startImage false v c else s).endMailbox 0)

/-- A write of MBGO with an MBCMD of no command. -/
def execMbcmdBadCmd (s : State) : Host.Outcome State Fault Refusal :=
  .next (if 1 ≤ s.module.mbcmd && s.module.mbcmd ≤ 3 then s else s.hostWrite 0 0x31000 s.startMailbox)

/-! ### Power, clock and fatal events (R357, R391). -/

/-- CLOCK_CHANGE: a step of 25 MHz between 700 and 1,400 MHz, for all dies at once; a die that throttles no longer needs a
lower clock when it is raised. -/
def execClockChange (mhz : BitVec 12) (s : State) : Host.Outcome State Fault Refusal :=
  let m := s.module
  let n := mhz.toNat
  if n % 25 = 0 && 700 ≤ n && n ≤ 1400 && (n = m.clkMhz + 25 || n + 25 = m.clkMhz) then
    .next { s with module := { m with clkMhz := n, throt := m.throt && decide (n < m.clkMhz) } }
  else .next s

/-- THERMAL_THROTTLE: the clock steps down, not below 700 MHz. -/
def execThermalThrottle (_die : Fin 4) (s : State) : Host.Outcome State Fault Refusal :=
  .next { s with module := { s.module with throt := true, clkMhz := max 700 (s.module.clkMhz - 25) } }

def execThermalTrip (die : Fin 4) (s : State) : Host.Outcome State Fault Refusal :=
  .next (s.fatalEvent 0x3C2 die.val true)
def execPowerFault (s : State) : Host.Outcome State Fault Refusal := .next (s.fatalEvent 0x3C3 4 true)
def execFwWatchdog (s : State) : Host.Outcome State Fault Refusal := .next (s.fatalEvent 0x3C0 4 true)
def execCtFatal (s : State) : Host.Outcome State Fault Refusal := .next (s.fatalEvent 0x3C4 4 true)

/-! ### The debug port (R332). -/

/-- DEBUG_PORT_MEMORY_ACCESS: a byte of Guash or host memory is written or read. R332 fixes no point at which each party sees
a write, nor which of the values that a byte has held a read returns: here every party sees the write from this step on, and a read
returns the value as it stands (log 76). -/
def execDebugPortMemoryAccess (addr : Nat) (write : Option (BitVec 8)) (s : State) : Host.Outcome State Fault Refusal :=
  if !(isGuash addr || isHost addr) then .next s
  else match write with
    | some b => .next { s with mem := Memory.put s.mem addr b }
    | none => .next (s.send (.byte (Memory.get s.mem addr)))

end Sys2Proof.Machine
end

