-- ==== Sys2Proof/Machine/Mask.lean ====
section
/-! DEFINITION. The mask instructions (R176). They run once per issue; a source k0 reads the active mask. -/

namespace Sys2Proof.Machine

/-- A whole mask register written. -/
def State.putK (s : State) (d : BitVec 6) (x : BitVec 32) : State :=
  s.put latScalar (.k d.toNat (BitVec.allOnes 32) x)

def execKand (o : OpR) (s : State) : Host.Outcome State Fault Refusal :=
  let b := s.K o.b.toNat
  (Res.done (s.putK o.d (s.K o.a.toNat &&& if o.m then ~~~b else b))).out
def execKor (o : OpR) (s : State) : Host.Outcome State Fault Refusal :=
  (Res.done (s.putK o.d (s.K o.a.toNat ||| s.K o.b.toNat))).out
def execKxor (o : OpR) (s : State) : Host.Outcome State Fault Refusal :=
  (Res.done (s.putK o.d (s.K o.a.toNat ^^^ s.K o.b.toNat))).out
def execKnot (o : OpR) (s : State) : Host.Outcome State Fault Refusal :=
  (Res.done (s.putK o.d (~~~(s.K o.a.toNat)))).out

def execKpopc (o : OpR) (s : State) : Host.Outcome State Fault Refusal :=
  let k := s.K o.a.toNat
  (Res.done (s.putS latScalar o.d
    (BitVec.ofNat 64 (popCount 32 (if o.m then k &&& s.active else k).toNat)))).out

/-- KMOV R: b selects the direction. -/
def execKmovR (o : OpR) (s : State) : Host.Outcome State Fault Refusal :=
  (Res.done (match o.b.toNat with
    | 0 => s.putK o.d (s.K o.a.toNat)
    | 1 => s.putK o.d ((s.S o.a).setWidth 32)
    | _ => s.putS latScalar o.d ((s.K o.a.toNat).setWidth 64))).out

def execKmovL (o : OpL) (s : State) : Host.Outcome State Fault Refusal :=
  (Res.done (s.putK o.d (BitVec.ofNat 32 o.immN))).out

end Sys2Proof.Machine
end

