-- ==== Sys2Proof/Machine/VectorFloat.lean ====
section
/-! DEFINITION. Floating-point, complex, conversion and quantisation instructions (R159 to R168). -/

namespace Sys2Proof.Machine

/-! ### The shapes of an element-wise word. -/

/-- The tags that an entry accepts. -/
def isFloat4 (t : Tag) : Bool := t == .f32 || t == .f64l || t == .bf16x2 || t == .h16x2
def isFloat5 (t : Tag) : Bool := isFloat4 t || t == .cpx32
def isSigned6 (t : Tag) : Bool := isFloat5 t || t == .e4m3x4

/-- The checks of a word with the sources `first` and then `others` (register and operand number), which must agree,
and a destination that takes the common tag (R144, R156, R158). -/
def State.checkSources (s : State) (u : Bool) (first : Nat) (others : List (Nat × Nat)) (d : Nat) (ok : Tag → Bool) :
    Chk Tag := do
  let regs := first :: others.map (fun e => e.1)
  s.checkUniform u regs
  let t ← s.checkTag first 0 ok
  others.forM (fun e => do let _ ← s.checkSame e.1 e.2 t)
  s.checkUniform u (t.partners regs)
  s.checkDest d t
  return t

/-- The element-wise result of two sources. -/
def State.elementwise2 (s : State) (o : OpR) (ok : Tag → Bool) (lat : Tag → Nat) (f : Fmt → Nat → Nat → Nat) : Res :=
  (s.checkSources o.u o.a.toNat [(o.b.toNat, 1)] o.d.toNat ok).run s (fun t =>
    .done (s.putElems (lat t) o.d.toNat t (fun i =>
      let j := s.src o.u i
      List.zipWith (f t.format) (s.elemsAt o.a.toNat t j) (s.elemsAt o.b.toNat t j))))

/-- The element-wise result of one source. -/
def State.elementwise1 (s : State) (o : OpR) (ok : Tag → Bool) (lat : Tag → Nat) (f : Fmt → Nat → Nat) : Res :=
  (s.checkSources o.u o.a.toNat [] o.d.toNat ok).run s (fun t =>
    .done (s.putElems (lat t) o.d.toNat t (fun i => (s.elemsAt o.a.toNat t (s.src o.u i)).map (f t.format))))

/-- One rounding of an exact value under the word's modifiers (R147). -/
def OpR.round (o : OpR) (f : Fmt) (x : FVal) : Nat := f.round x (Rm.ofBits o.rm) o.sat

/-- The exact sum under the word's rounding mode (R146). -/
def OpR.sum (o : OpR) (xs : List FVal) : FVal := FVal.sum xs (Rm.ofBits o.rm)

/-! ### Arithmetic (R159 to R162). -/

def execVadd (o : OpR) (s : State) : Host.Outcome State Fault Refusal :=
  (s.elementwise2 o isFloat5 latFloat (fun f x y => OpR.round o f (OpR.sum o [f.val x, f.val y]))).out
def execVsub (o : OpR) (s : State) : Host.Outcome State Fault Refusal :=
  (s.elementwise2 o isFloat5 latFloat (fun f x y => OpR.round o f (OpR.sum o [f.val x, (f.val y).neg]))).out
def execVmul (o : OpR) (s : State) : Host.Outcome State Fault Refusal :=
  (s.elementwise2 o isFloat4 latFloat (fun f x y => OpR.round o f ((f.val x).mul (f.val y)))).out
def execVmin (o : OpR) (s : State) : Host.Outcome State Fault Refusal :=
  (s.elementwise2 o isFloat4 latFloat (fun f x y => f.minMax false x y)).out
def execVmax (o : OpR) (s : State) : Host.Outcome State Fault Refusal :=
  (s.elementwise2 o isFloat4 latFloat (fun f x y => f.minMax true x y)).out
def execVdiv (o : OpR) (s : State) : Host.Outcome State Fault Refusal :=
  (s.elementwise2 o isFloat4 latDivide (fun f x y => OpR.round o f ((f.val x).div (f.val y)))).out

/-- The third source of a word: CREG, or the old destination (R160, R164, R169). -/
def OpR.third (o : OpR) : Nat × Nat := if o.cv then (o.creg.toNat, 2) else (o.d.toNat, 3)

/-- VFMA (R160). -/
def execVfma (o : OpR) (s : State) : Host.Outcome State Fault Refusal :=
  let c := OpR.third o
  ((s.checkSources o.u o.a.toNat [(o.b.toNat, 1), c] o.d.toNat isFloat4).run s (fun t =>
    let f := t.format
    .done (s.putElems (latFloat t) o.d.toNat t (fun i =>
      let j := s.src o.u i
      let ps := List.zipWith (fun x y => (f.val x).mul (f.val y)) (s.elemsAt o.a.toNat t j) (s.elemsAt o.b.toNat t j)
      List.zipWith (fun p z => OpR.round o f (OpR.sum o [if o.m then p.neg else p, f.val z])) ps
        (s.elemsAt c.1 t j))))).out

/-- VNEG and VABS act on the sign bit alone (R161). -/
def execVneg (o : OpR) (s : State) : Host.Outcome State Fault Refusal :=
  (s.elementwise1 o isSigned6 latFloat (fun f x => x ^^^ f.signBit true)).out
def execVabs (o : OpR) (s : State) : Host.Outcome State Fault Refusal :=
  (s.elementwise1 o isSigned6 latFloat (fun f x => x % f.signBit true)).out

def execVsqrt (o : OpR) (s : State) : Host.Outcome State Fault Refusal :=
  (s.elementwise1 o isFloat4 latDivide (fun f x => OpR.round o f (f.val x).sqrt)).out
def execVrcp (o : OpR) (s : State) : Host.Outcome State Fault Refusal :=
  (s.elementwise1 o isFloat4 latTrans (fun f x => OpR.round o f ((FVal.fin false 1 0).div (f.val x)))).out
def execVrsq (o : OpR) (s : State) : Host.Outcome State Fault Refusal :=
  (s.elementwise1 o isFloat4 latTrans (fun f x => OpR.round o f (f.val x).rsqrt)).out
def execVexp2 (o : OpR) (s : State) : Host.Outcome State Fault Refusal :=
  (s.elementwise1 o isFloat4 latTrans (fun f x => f.exp2 (f.val x) (Rm.ofBits o.rm) o.sat)).out
def execVlog2 (o : OpR) (s : State) : Host.Outcome State Fault Refusal :=
  (s.elementwise1 o isFloat4 latTrans (fun f x => f.log2 (f.val x) (Rm.ofBits o.rm) o.sat)).out

/-! ### Results that are complex pairs (R163 to R166). -/

/-- Results of several registers, one complex component each: register offset k takes component k of `f i`, the even
ones tagged CPX32 and the odd ones F32. -/
def State.putComponents (s : State) (lat d : Nat) (f : Nat → List Nat) : State :=
  s.putAll lat ((lanesOf s.active).flatMap (fun i =>
    (f i).zipIdx.map (fun e => .v (d + e.2) i ⟨BitVec.ofNat 32 e.1, if e.2 % 2 = 0 then .cpx32 else .f32⟩)))

/-- VSCPI (R163). -/
def execVscpi (o : OpR) (s : State) : Host.Outcome State Fault Refusal :=
  let check : Chk Unit := do
    s.checkUniform o.u [o.a.toNat]
    let _ ← s.checkTag o.a.toNat 0 (· == .f32)
  (check.run s (fun _ =>
    .done (s.putComponents (latTrans .f32) o.d.toNat (fun i =>
      let x := Fmt.f32.val (s.V o.a.toNat (s.src o.u i)).val.toNat
      [Fmt.f32.cospi x (Rm.ofBits o.rm), Fmt.f32.sinpi x (Rm.ofBits o.rm)])))).out

/-- The components of a complex source in a lane, as exact values. -/
def State.complexAt (s : State) (r i : Nat) : FVal × FVal :=
  (Fmt.f32.val (s.V r i).val.toNat, Fmt.f32.val (s.V (r + 1) i).val.toNat)

/-- The checks of fixed complex pairs (R164, R165). -/
def State.checkComplex (s : State) (u : Bool) (rs : List (Nat × Nat)) : Chk Unit := do
  s.checkUniform u (rs.flatMap (fun e => [e.1, e.1 + 1]))
  rs.forM (fun e => do let _ ← s.checkTag e.1 e.2 (· == .cpx32))

/-- The terms of a complex product (R147). -/
def productTerms (a b : FVal × FVal) : List FVal × List FVal :=
  ([a.1.mul b.1, (a.2.mul b.2).neg], [a.1.mul b.2, a.2.mul b.1])

/-- VCMUL (R164). -/
def execVcmul (o : OpR) (s : State) : Host.Outcome State Fault Refusal :=
  ((s.checkComplex o.u [(o.a.toNat, 0), (o.b.toNat, 1)]).run s (fun _ =>
    .done (s.putComponents latComplex o.d.toNat (fun i =>
      let j := s.src o.u i
      let b := s.complexAt o.b.toNat j
      let p := productTerms (s.complexAt o.a.toNat j) (b.1, if o.m then b.2.neg else b.2)
      [OpR.round o .f32 (OpR.sum o p.1), OpR.round o .f32 (OpR.sum o p.2)])))).out

/-- VCFMA (R164). -/
def execVcfma (o : OpR) (s : State) : Host.Outcome State Fault Refusal :=
  let c := OpR.third o
  ((s.checkComplex o.u [(o.a.toNat, 0), (o.b.toNat, 1), c]).run s (fun _ =>
    .done (s.putComponents latComplex o.d.toNat (fun i =>
      let j := s.src o.u i
      let b := s.complexAt o.b.toNat j
      let z := s.complexAt c.1 j
      let p := productTerms (s.complexAt o.a.toNat j) (b.1, if o.m then b.2.neg else b.2)
      [OpR.round o .f32 (OpR.sum o (p.1 ++ [z.1])), OpR.round o .f32 (OpR.sum o (p.2 ++ [z.2]))])))).out

/-- VBFLY (R165). -/
def execVbfly (o : OpR) (s : State) : Host.Outcome State Fault Refusal :=
  let sources := [(o.a.toNat, 0), (o.b.toNat, 1)] ++ if o.cv then [(o.creg.toNat, 2)] else []
  ((s.checkComplex o.u sources).run s (fun _ =>
    .done (s.putComponents latComplex o.d.toNat (fun i =>
      let j := s.src o.u i
      let x := s.complexAt o.a.toNat j
      let w := if o.cv then s.complexAt o.creg.toNat j else (.fin false 1 0, .fin false 0 0)
      let p := productTerms (w.1, if o.m then w.2.neg else w.2) (s.complexAt o.b.toNat j)
      let out (x : FVal) (ts : List FVal) : Nat := OpR.round o .f32 (OpR.sum o (x :: ts))
      [out x.1 p.1, out x.2 p.2, out x.1 (p.1.map FVal.neg), out x.2 (p.2.map FVal.neg)])))).out

/-- VTWID (R166). -/
def execVtwid (o : OpR) (s : State) : Host.Outcome State Fault Refusal :=
  let check : Chk Unit := do
    s.checkUniform o.u [o.a.toNat]
    let _ ← s.checkTag o.a.toNat 0 (fun t => t == .i32 || t == .n32)
  (check.run s (fun _ =>
    .done (s.putComponents (latTrans .f32) o.d.toNat (fun i =>
      -- 2^L divides 2^32, so the value mod 2^L is the same under both tags
      let k := (s.V o.a.toNat (s.src o.u i)).val.toNat % 2 ^ o.b.toNat
      let w := twiddle k o.b.toNat o.m (Rm.ofBits o.rm)
      [w.1, w.2])))).out

/-! ### Conversion (R141, R167). -/

/-- A source element: a float value, or an integer; `n` reads packed integers as natural. -/
def sourceElem (t : Tag) (n : Bool) (x : Nat) : FVal ⊕ Int :=
  match t.fmt with
  | some f => .inl (f.val x)
  | none => .inr (if t.signed n then signedOf t.width x else x)

/-- The encoding of one converted element (R141). -/
def convertElem (t : Tag) (n : Bool) (rm : Rm) (sat : Bool) (x : FVal ⊕ Int) : Nat :=
  match t.fmt, x with
  | some f, .inl v => f.round v rm sat
  | some f, .inr k => f.round (FVal.ofInt k) rm sat
  | none, .inr k => wrapInt t.width (if sat then satInt (t.signed n) t.width k else k)
  | none, .inl v =>
    match v with
    | .nan => 0
    | .inf neg => wrapInt t.width (satInt (t.signed n) t.width (if neg then -(2 ^ 64) else 2 ^ 64))
    | .fin _ _ _ => wrapInt t.width (satInt (t.signed n) t.width (v.roundInt rm))

/-- What a VCVT word says: target tag, element selector, `.n`, `.hi`, whether it reads vb, rounding and saturation. -/
structure Conversion where
  u : Bool
  d : Nat
  a : Nat
  b : Option Nat
  dst : Tag
  sel : Nat
  nat : Bool
  hi : Bool
  rm : Rm
  sat : Bool

/-- The source tags that VCVT accepts (R167). -/
def isConvertible (t : Tag) : Bool := t != .x32 && t != .f64h && t != .cpx32 && t != .empty

/-- The checks of VCVT in their order (R167): the common source tag. -/
def State.checkConversion (s : State) (c : Conversion) : Chk Tag := do
  let regs := c.a :: c.b.toList
  s.checkUniform c.u regs
  let t ← s.checkTag c.a 0 isConvertible
  c.b.toList.forM (fun b => do let _ ← s.checkSame b 1 t)
  let low := lowLane s.active
  if c.hi && c.dst != .e4m3x4 && c.dst != .i8x4 then
    throw (0x08B, opndData c.d t.code low 3 c.dst.code)
  if (t.packed && c.dst.packed) || t.count ≤ c.sel then
    throw (0x08D, opndData c.a t.code low 0 (16 * c.dst.code + t.code))
  if c.hi then
    s.checkUniform c.u [c.d]
    let _ ← s.checkTag c.d 3 (· == c.dst)
  s.checkUniform c.u (t.partners regs)
  return t

/-- The elements of a conversion's result in a lane. -/
def State.convertLane (s : State) (c : Conversion) (t : Tag) (i : Nat) : List Nat :=
  let elem (r : Nat) : Nat :=
    convertElem c.dst c.nat c.rm c.sat (sourceElem t c.nat ((s.elemsAt r t i).getD c.sel 0))
  let new := elem c.a :: (match c.b with | some b => [elem b] | none => [])
  if !c.dst.packed then new
  else
    let es := if c.hi then (s.elemsAt c.d c.dst i).take 2 ++ new else new
    es ++ List.replicate (c.dst.count - es.length) 0

/-- VCVT in either form. -/
def State.convert (s : State) (c : Conversion) : Res :=
  (s.checkConversion c).run s (fun t =>
    let lat := if t == .f64l || c.dst == .f64l then 8 else 6
    .done (s.putElems lat c.d c.dst (fun i => s.convertLane c t (s.src c.u i))))

def execVcvtR (o : OpR) (s : State) : Host.Outcome State Fault Refusal :=
  let dst := Tag.ofCode o.sub.toNat
  (s.convert { u := o.u, d := o.d.toNat, a := o.a.toNat, b := if dst.packed then some o.b.toNat else none, dst := dst,
               sel := o.xm.toNat % 4, nat := o.xm.getLsbD 2, hi := o.m, rm := Rm.ofBits o.rm, sat := o.sat }).out

def execVcvtI (o : OpI) (s : State) : Host.Outcome State Fault Refusal :=
  let n := o.imm.toNat
  (s.convert { u := o.u, d := o.d.toNat, a := o.a.toNat, b := none, dst := Tag.ofCode (n % 16),
               sel := n / 16 % 4, nat := o.imm.getLsbD 6, hi := false, rm := .rn, sat := false }).out

/-! ### Quantisation (R168). -/

/-- The largest finite magnitude of a list of f32 encodings, as an encoding. -/
def amax (xs : List Nat) : Nat :=
  (xs.map (· % 2 ^ 31)).foldl (fun m x => if x < 0x7F800000 ∧ m < x then x else m) 0

/-- The least e from `e` on, in `fuel` steps, with 448 × 2^e at least the value. -/
def leastScale (x : FVal) (e : Int) : Nat → Int
  | 0 => e
  | n + 1 => if FVal.cmp x (.fin false 448 e) ≤ 0 then e else leastScale x (e + 1) n

/-- The f32 scale for a largest magnitude. -/
def quantScale (p2 : Bool) (m : Nat) : Nat :=
  let x := Fmt.f32.val m
  if m = 0 then Fmt.f32.round (.fin false 1 0) .rn false
  else if p2 then Fmt.f32.round (.fin false 1 (leastScale x (-149) 280)) .rn false
  else Fmt.f32.round (x.div (.fin false 448 0)) .ru false

/-- VQNT (R168). -/
def execVqnt (o : OpR) (s : State) : Host.Outcome State Fault Refusal :=
  let a := o.a.toNat
  let check : Chk Unit := do
    if s.active != BitVec.allOnes 32 then
      throw (0x08C, opndData o.d.toNat 0 (lowLane s.active) 3 s.active.toNat)
    [0, 1, 2, 3].forM (fun j => do let _ ← s.checkTag (a + j) 0 (· == .f32))
  (check.run s (fun _ =>
    let at_ (i j : Nat) : Nat := (s.V (a + j) i).val.toNat
    let scale := quantScale o.m (amax ((List.range 32).flatMap (fun i => [at_ i 0, at_ i 1, at_ i 2, at_ i 3])))
    let q (x : Nat) : Nat := Fmt.e4m3.round ((Fmt.f32.val x).div (Fmt.f32.val scale)) (Rm.ofBits o.rm) false
    .done (s.putAll latQuantise ((List.range 32).flatMap (fun i =>
      [.v o.d.toNat i ⟨BitVec.ofNat 32 (pack 8 [q (at_ i 0), q (at_ i 1), q (at_ i 2), q (at_ i 3)]), .e4m3x4⟩,
       .v (o.d.toNat + 1) i ⟨BitVec.ofNat 32 scale, .f32⟩]))))).out

end Sys2Proof.Machine
end

