-- ==== Sys2Proof/Machine/VectorInt.lean ====
section
/-! DEFINITION. Integer and bitwise vector instructions (R169 to R173). -/

namespace Sys2Proof.Machine

/-- The tags that integer arithmetic accepts (R169), and shifts and counts (R172, R173). -/
def isInt (t : Tag) : Bool := t == .i32 || t == .n32 || t == .i16x2 || t == .i8x4
def isShiftable (t : Tag) : Bool := isInt t || t == .x32

/-- The tags of an index or a shift amount (R172, R181, R182). -/
def isIndex (t : Tag) : Bool := t == .x32 || t == .i32 || t == .n32

/-- An element read as an integer (R169). -/
def readElem (t : Tag) (n : Bool) (x : Nat) : Int := if t.signed n then signedOf t.width x else x

/-- An exact integer result stored as an element: clamped, or modulo 2^w (R134). -/
def storeElem (t : Tag) (n sat : Bool) (x : Int) : Nat :=
  wrapInt t.width (if sat then satInt (t.signed n) t.width x else x)

/-- `.n` has no meaning for a tag that is not of packed integers: 0x08B (R169, R183). -/
def State.checkNatural (s : State) (a : Nat) (n : Bool) (t : Tag) : Chk Unit :=
  if n && t != .i16x2 && t != .i8x4 then throw (0x08B, opndData a t.code (lowLane s.active) 0 t.code) else .ok ()

/-- A two-source integer word: `f w x y` is the exact result of elements of width w. -/
def State.intR (s : State) (o : OpR) (lat : Nat) (sat : Bool) (f : Nat → Int → Int → Int) : Res :=
  let check : Chk Tag := do
    let t ← s.checkSources o.u o.a.toNat [(o.b.toNat, 1)] o.d.toNat isInt
    s.checkNatural o.a.toNat o.m t
    return t
  check.run s (fun t =>
    .done (s.putElems lat o.d.toNat t (fun i =>
      let j := s.src o.u i
      List.zipWith (fun x y => storeElem t o.m sat (f t.width (readElem t o.m x) (readElem t o.m y)))
        (s.elemsAt o.a.toNat t j) (s.elemsAt o.b.toNat t j))))

def execViaddR (o : OpR) (s : State) : Host.Outcome State Fault Refusal :=
  (s.intR o latVector o.sat (fun _ x y => x + y)).out
def execVisub (o : OpR) (s : State) : Host.Outcome State Fault Refusal :=
  (s.intR o latVector o.sat (fun _ x y => x - y)).out
def execVimulR (o : OpR) (s : State) : Host.Outcome State Fault Refusal :=
  (s.intR o latVectorMul o.sat (fun _ x y => x * y)).out
def execVimulh (o : OpR) (s : State) : Host.Outcome State Fault Refusal :=
  (s.intR o latVectorMul false (fun w x y => x * y / 2 ^ w)).out
def execViminR (o : OpR) (s : State) : Host.Outcome State Fault Refusal :=
  (s.intR o latVector false (fun _ x y => min x y)).out
def execVimaxR (o : OpR) (s : State) : Host.Outcome State Fault Refusal :=
  (s.intR o latVector false (fun _ x y => max x y)).out

/-- VIFMA (R169). -/
def execVifma (o : OpR) (s : State) : Host.Outcome State Fault Refusal :=
  let c := OpR.third o
  let check : Chk Tag := do
    let t ← s.checkSources o.u o.a.toNat [(o.b.toNat, 1), c] o.d.toNat isInt
    s.checkNatural o.a.toNat o.m t
    return t
  (check.run s (fun t =>
    .done (s.putElems latVectorMul o.d.toNat t (fun i =>
      let j := s.src o.u i
      let ps := List.zipWith (fun x y => readElem t o.m x * readElem t o.m y)
        (s.elemsAt o.a.toNat t j) (s.elemsAt o.b.toNat t j)
      List.zipWith (fun p z => storeElem t o.m o.sat (p + readElem t o.m z)) ps (s.elemsAt c.1 t j))))).out

/-- A word with an immediate k, taken mod 2^w and read as the element type; packed elements are signed (R170). -/
def State.intI (s : State) (o : OpI) (lat : Nat) (f : Int → Int → Int) : Res :=
  (s.checkSources o.u o.a.toNat [] o.d.toNat isInt).run s (fun t =>
    let k := readElem t false (wrapInt t.width o.immI)
    .done (s.putElems lat o.d.toNat t (fun i =>
      (s.elemsAt o.a.toNat t (s.src o.u i)).map (fun x => storeElem t false false (f (readElem t false x) k)))))

def execViminI (o : OpI) (s : State) : Host.Outcome State Fault Refusal := (s.intI o latVector min).out
def execVimaxI (o : OpI) (s : State) : Host.Outcome State Fault Refusal := (s.intI o latVector max).out
def execVimulI (o : OpI) (s : State) : Host.Outcome State Fault Refusal := (s.intI o latVectorMul (· * ·)).out
def execViaddI (o : OpI) (s : State) : Host.Outcome State Fault Refusal := (s.intI o latVector (· + ·)).out

/-! ### Bitwise (R170, R171): one register at a time, whatever pair it belongs to. -/

/-- The checks of a bitwise word: the two tags agree, or one of them is X32. -/
def State.checkBitwise (s : State) (u : Bool) (a : Nat) (b : Option Nat) : Chk Tag := do
  s.checkUniform u (a :: b.toList)
  let t ← s.checkOne a 0 (fun _ => true) false
  match b with
  | none => return t
  | some b =>
    let t' ← s.checkOne b 1 (fun t' => t' == t || t' == .x32 || t == .x32) true
    return if t == .x32 then t' else t

/-- The lane-wise result of a bitwise word. -/
def State.bitwise (s : State) (u : Bool) (d a : Nat) (b : Option Nat) (f : Nat → Word32 → Word32) : Res :=
  (s.checkBitwise u a b).run s (fun t =>
    .done (s.putLanes latVector d s.active (fun i => ⟨f (s.src u i) (s.V a (s.src u i)).val, t⟩)))

def State.bitwiseR (s : State) (o : OpR) (f : Word32 → Word32 → Word32) : Res :=
  s.bitwise o.u o.d.toNat o.a.toNat (some o.b.toNat) (fun j x => f x (s.V o.b.toNat j).val)
def State.bitwiseI (s : State) (o : OpI) (f : Word32 → Word32 → Word32) : Res :=
  s.bitwise o.u o.d.toNat o.a.toNat none (fun _ x => f x (BitVec.ofInt 32 o.immI))

def execVandR (o : OpR) (s : State) : Host.Outcome State Fault Refusal := (s.bitwiseR o (· &&& ·)).out
def execVorR (o : OpR) (s : State) : Host.Outcome State Fault Refusal := (s.bitwiseR o (· ||| ·)).out
def execVxorR (o : OpR) (s : State) : Host.Outcome State Fault Refusal := (s.bitwiseR o (· ^^^ ·)).out
def execVandI (o : OpI) (s : State) : Host.Outcome State Fault Refusal := (s.bitwiseI o (· &&& ·)).out
def execVorI (o : OpI) (s : State) : Host.Outcome State Fault Refusal := (s.bitwiseI o (· ||| ·)).out
def execVxorI (o : OpI) (s : State) : Host.Outcome State Fault Refusal := (s.bitwiseI o (· ^^^ ·)).out

/-! ### Shifts (R172). -/

/-- The shifts of an element of width w. -/
def shiftLeft (w x n : Nat) : Nat := if w ≤ n then 0 else x * 2 ^ n % 2 ^ w
def shiftRight (w x n : Nat) : Nat := if w ≤ n then 0 else x / 2 ^ n
def shiftArith (w x n : Nat) : Nat := wrapInt w (signedOf w x / 2 ^ min n (w - 1))

/-- The checks of a register shift: a 32-bit source takes any index tag, a packed one its own. -/
def State.checkShift (s : State) (o : OpR) : Chk Tag := do
  s.checkUniform o.u [o.a.toNat, o.b.toNat]
  let t ← s.checkOne o.a.toNat 0 isShiftable false
  if t.packed then
    let _ ← s.checkOne o.b.toNat 1 (· == t) true
  else
    let _ ← s.checkOne o.b.toNat 1 isIndex false
  return t

def State.shiftR (s : State) (o : OpR) (f : Nat → Nat → Nat → Nat) : Res :=
  (s.checkShift o).run s (fun t =>
    .done (s.putElems latVector o.d.toNat t (fun i =>
      let j := s.src o.u i
      List.zipWith (f t.width) (s.elemsAt o.a.toNat t j) (s.elemsAt o.b.toNat t j))))

def State.shiftI (s : State) (o : OpI) (f : Nat → Nat → Nat → Nat) : Res :=
  (s.checkSources o.u o.a.toNat [] o.d.toNat isShiftable).run s (fun t =>
    .done (s.putElems latVector o.d.toNat t (fun i =>
      (s.elemsAt o.a.toNat t (s.src o.u i)).map (fun x => f t.width x o.immN))))

def execVshlR (o : OpR) (s : State) : Host.Outcome State Fault Refusal := (s.shiftR o shiftLeft).out
def execVshrR (o : OpR) (s : State) : Host.Outcome State Fault Refusal := (s.shiftR o shiftRight).out
def execVsraR (o : OpR) (s : State) : Host.Outcome State Fault Refusal := (s.shiftR o shiftArith).out
def execVshlI (o : OpI) (s : State) : Host.Outcome State Fault Refusal := (s.shiftI o shiftLeft).out
def execVshrI (o : OpI) (s : State) : Host.Outcome State Fault Refusal := (s.shiftI o shiftRight).out
def execVsraI (o : OpI) (s : State) : Host.Outcome State Fault Refusal := (s.shiftI o shiftArith).out

/-! ### Counts (R173). -/

/-- A count per element; a 32-bit one is tagged N32. -/
def State.countBits (s : State) (o : OpR) (f : Nat → Nat → Nat) : Res :=
  (s.checkSources o.u o.a.toNat [] o.d.toNat isShiftable).run s (fun t =>
    .done (s.putElems latVector o.d.toNat (if t.packed then t else .n32) (fun i =>
      (s.elemsAt o.a.toNat t (s.src o.u i)).map (f t.width))))

def execVpopc (o : OpR) (s : State) : Host.Outcome State Fault Refusal := (s.countBits o popCount).out
def execVclz (o : OpR) (s : State) : Host.Outcome State Fault Refusal := (s.countBits o leadZeros).out

end Sys2Proof.Machine
end

