-- ==== Sys2Proof/Machine/VectorMove.lean ====
section
/-! DEFINITION. Comparison, selection, moves, broadcasts, tags, lane movement and lane combining (R174, R175, R177 to
R184). -/

namespace Sys2Proof.Machine

/-! ### Comparison (R174). -/

def isComparable (t : Tag) : Bool := t == .f32 || t == .f64l || t == .i32 || t == .n32

/-- The exact value that a source lane holds under a tag. -/
def State.valueAt (s : State) (r : Nat) (t : Tag) (i : Nat) : FVal :=
  let x := (s.elemsAt r t i).headD 0
  match t.fmt with
  | some f => f.val x
  | none => FVal.ofInt (if t == .i32 then signedOf 32 x else x)

/-- A comparison of `va` with `y t i`: bit i is the result of active lane i, and 0 in every inactive lane. -/
def State.compareLanes (s : State) (u : Bool) (d : BitVec 6) (a : Nat) (b : Option Nat) (y : Tag → Nat → FVal) : Res :=
  let regs := a :: b.toList
  let check : Chk Tag := do
    s.checkUniform u regs
    let t ← s.checkTag a 0 isComparable
    b.toList.forM (fun b => do let _ ← s.checkSame b 1 t)
    s.checkUniform u (t.partners regs)
    return t
  check.run s (fun t =>
    let hit (i : Nat) : Bool :=
      let j := s.src u i
      vcmpTest (d.toNat / 8) (exactCmp (s.valueAt a t j) (y t j))
    .done (s.put latVector (.k (d.toNat % 8) (BitVec.allOnes 32) (maskOf ((lanesOf s.active).filter hit)))))

def execVcmpR (o : OpR) (s : State) : Host.Outcome State Fault Refusal :=
  (s.compareLanes o.u o.d o.a.toNat (some o.b.toNat) (s.valueAt o.b.toNat)).out
def execVcmpI (o : OpI) (s : State) : Host.Outcome State Fault Refusal :=
  (s.compareLanes o.u o.d o.a.toNat none (fun _ _ => FVal.ofInt o.immI)).out

/-! ### Lanes copied with their tags. -/

/-- The registers of an operand that m = 1 makes a fixed pair. -/
def pairOf (m : Bool) (r : Nat) : List Nat := if m then [r, r + 1] else [r]

/-- Register offset k of the destination takes, in each active lane i, the lane `f k i`. -/
def State.copyLanes (s : State) (lat d : Nat) (m : Bool) (f : Nat → Nat → Lane) : State :=
  s.putAll lat ((pairOf m 0).flatMap (fun k => (lanesOf s.active).map (fun i => .v (d + k) i (f k i))))

/-- VSEL (R175). With `.p` a pair tag is tested as a pair. -/
def execVsel (o : OpR) (s : State) : Host.Outcome State Fault Refusal :=
  let a := o.a.toNat
  let b := o.b.toNat
  let check : Chk Unit := do
    s.checkUniform o.u (pairOf o.m a ++ pairOf o.m b)
    let t ← s.checkOne a 0 (fun _ => true) false
    if o.m then
      let _ ← s.checkPair a 0 t
    let t ← s.checkOne b 1 (· == t) true
    if o.m then
      let _ ← s.checkPair b 1 t
  let k := s.K (o.xm.toNat % 8)
  (check.run s (fun _ =>
    .done (s.copyLanes latVector o.d.toNat o.m (fun n i =>
      let j := s.src o.u i
      s.V ((if k.getLsbD j then a else b) + n) j)))).out

/-- VMOV R (R177): no tag is checked. -/
def execVmovR (o : OpR) (s : State) : Host.Outcome State Fault Refusal :=
  ((s.checkUniform o.u (pairOf o.m o.a.toNat)).run s (fun _ =>
    .done (s.copyLanes latVector o.d.toNat o.m (fun n i => s.V (o.a.toNat + n) (s.src o.u i))))).out

/-- VMOV L (R177). -/
def execVmovL (o : OpL) (s : State) : Host.Outcome State Fault Refusal :=
  let x : Lane := if o.ext.isEmpty then ⟨BitVec.ofInt 32 o.immI, .i32⟩
    else ⟨BitVec.ofNat 32 o.immN, Tag.ofCode (o.immN / 2 ^ 32 % 16)⟩
  (Res.done (s.putLanes latVector o.d.toNat s.active (fun _ => x))).out

/-- VBCAST R (R178). -/
def execVbcastR (o : OpR) (s : State) : Host.Outcome State Fault Refusal :=
  let x := s.S o.a
  (Res.done (s.copyLanes latMove o.d.toNat o.m (fun n _ =>
    if o.m then (if n = 0 then ⟨x.setWidth 32, .f64l⟩ else ⟨x.extractLsb' 32 32, .f64h⟩)
    else ⟨x.setWidth 32, Tag.ofCode (o.b.toNat % 16)⟩))).out

/-- VBCAST I (R178): the lane may be inactive. -/
def execVbcastI (o : OpI) (s : State) : Host.Outcome State Fault Refusal :=
  (Res.done (s.putLanes latMove o.d.toNat s.active (fun _ => s.V o.a.toNat o.immN))).out

/-- VLANE (R179). A lane index of 32 or more names no lane of va: FOUND is then its tag in the lowest active lane, which LANE names
(log 23). -/
def execVlane (o : OpR) (s : State) : Host.Outcome State Fault Refusal :=
  let n := (s.S o.b).toNat
  let check : Chk Lane := do
    if 32 ≤ n then
      throw (0x08A, opndData o.b.toNat (s.V o.a.toNat (lowLane s.active)).tag.code (lowLane s.active) 1 (min n (2 ^ 32 - 1)))
    let x := s.V o.a.toNat n
    if x.tag == .empty then
      throw (0x09F, opndData o.a.toNat 15 n 0 0)
    return x
  (check.run s (fun x =>
    .done (s.putS latMove o.d (if o.m then x.val.signExtend 64 else x.val.setWidth 64)))).out

/-- VTAG (R180): the bits stay, and no tag is checked. -/
def State.retag (s : State) (u : Bool) (d a t : Nat) : Res :=
  (s.checkUniform u [a]).run s (fun _ =>
    .done (s.putLanes latVector d s.active (fun i => ⟨(s.V a (s.src u i)).val, Tag.ofCode t⟩)))

def execVtagI (o : OpI) (s : State) : Host.Outcome State Fault Refusal :=
  (s.retag o.u o.d.toNat o.a.toNat (o.imm.toNat % 16)).out

/-- VTAG R: a tag of 12 to 14, or a value of 16 or more, raises 0x088. -/
def execVtagR (o : OpR) (s : State) : Host.Outcome State Fault Refusal :=
  let n := (s.S o.b).toNat
  (if 16 ≤ n || (12 ≤ n && n ≤ 14) then Res.trap s 0x088 (opndData o.b.toNat (n % 16) (lowLane s.active) 1 0)
   else s.retag o.u o.d.toNat o.a.toNat n).out

/-! ### Lane movement (R181, R182, R184). -/

/-- VSHFL R: the source lane may be inactive, and va is not checked. -/
def execVshflR (o : OpR) (s : State) : Host.Outcome State Fault Refusal :=
  ((s.checkOne o.b.toNat 1 isIndex false).run s (fun _ =>
    .done (s.copyLanes latMove o.d.toNat o.m (fun n i =>
      s.V (o.a.toNat + n) ((s.V o.b.toNat i).val.toNat % 32))))).out

/-- The source lane of VSHFL I (R181). -/
def shuffleLane (mode c i : Nat) : Nat :=
  match mode with
  | 0 => i ^^^ c
  | 1 => if i < c then i else i - c
  | 2 => if 31 < i + c then i else i + c
  | _ => (i + c) % 32

def execVshflI (o : OpI) (s : State) : Host.Outcome State Fault Refusal :=
  (Res.done (s.putLanes latMove o.d.toNat s.active (fun i =>
    s.V o.a.toNat (shuffleLane (o.imm.toNat / 32) (o.imm.toNat % 32) i)))).out

/-- The byte that selector byte `sel` takes from a lane (R182). -/
def permByte (x sel : Nat) : Nat := if 128 ≤ sel then 0 else x / 2 ^ (8 * (sel % 4)) % 256

/-- VPERM (R182). -/
def execVperm (o : OpR) (s : State) : Host.Outcome State Fault Refusal :=
  let check : Chk Unit := do
    s.checkUniform o.u [o.a.toNat, o.b.toNat]
    let _ ← s.checkOne o.a.toNat 0 (fun _ => true) false
    let _ ← s.checkOne o.b.toNat 1 isIndex false
  (check.run s (fun _ =>
    .done (s.putLanes latMove o.d.toNat s.active (fun i =>
      let j := s.src o.u i
      let x := (s.V o.a.toNat j).val.toNat
      ⟨BitVec.ofNat 32 (pack 8 ((elems 8 4 (s.V o.b.toNat j).val.toNat).map (permByte x))), .x32⟩)))).out

/-! ### Lane combining (R149, R183). -/

/-- The tags that a combining operation accepts. -/
def combinable (op : Nat) (t : Tag) : Bool := if op < 3 then isFloat4 t || isInt t else isShiftable t

/-- One combine step of an element. -/
def combineElem (op : Nat) (t : Tag) (n : Bool) (rm : Rm) (sat : Bool) (acc x : Nat) : Nat :=
  match op, t.fmt with
  | 0, some f => f.round (FVal.sum [f.val acc, f.val x] rm) rm sat
  | 0, none => storeElem t n sat (readElem t n acc + readElem t n x)
  | 1, some f => f.minMax false acc x
  | 1, none => storeElem t n false (min (readElem t n acc) (readElem t n x))
  | 2, some f => f.minMax true acc x
  | 2, none => storeElem t n false (max (readElem t n acc) (readElem t n x))
  | 3, _ => acc &&& x
  | 4, _ => acc ||| x
  | _, _ => acc ^^^ x

/-- The running folds of a list of element lists: the first stands as it is. -/
def runningFolds (f : Nat → Nat → Nat) (acc : List Nat) : List (List Nat) → List (List Nat)
  | [] => [acc]
  | x :: xs => acc :: runningFolds f (List.zipWith f acc x) xs

/-- The folds of the active lanes in ascending lane order: one list of elements per active lane. -/
def State.laneFolds (s : State) (o : OpR) (t : Tag) : List (List Nat) :=
  let f := combineElem o.b.toNat t o.m (Rm.ofBits o.rm) o.sat
  match (lanesOf s.active).map (s.elemsAt o.a.toNat t) with
  | [] => []
  | x :: xs => runningFolds f x xs

/-- VSCAN, or with `all` VRED (R183). -/
def State.combineLanes (s : State) (o : OpR) (all : Bool) : Res :=
  let check : Chk Tag := do
    let t ← s.checkTag o.a.toNat 0 (combinable o.b.toNat)
    s.checkNatural o.a.toNat o.m t
    s.checkDest o.d.toNat t
    return t
  check.run s (fun t =>
    let folds := s.laneFolds o t
    let out := if all then folds.map (fun _ => folds.getLastD []) else folds
    .done (s.putAll latCombine
      ((List.zip (lanesOf s.active) out).flatMap (fun e => laneWrites o.d.toNat t e.1 e.2))))

def execVscan (o : OpR) (s : State) : Host.Outcome State Fault Refusal := (s.combineLanes o false).out
def execVred (o : OpR) (s : State) : Host.Outcome State Fault Refusal := (s.combineLanes o true).out

end Sys2Proof.Machine
end

