-- ==== Sys2Proof/Machine/Dispatch.lean ====
section
/-! DEFINITION. The dispatch: one arm for each row of the opcode table, each one direct call of its meaning. -/

namespace Sys2Proof.Machine

def exec (i : Instr) (s : State) : Host.Outcome State Fault Refusal :=
  match i with
  | .qtailWrite a b c => Sys2Proof.Machine.execQtailWrite a b c s
  | .queueEnable a b => Sys2Proof.Machine.execQueueEnable a b s
  | .queueDisable a b => Sys2Proof.Machine.execQueueDisable a b s
  | .qcheadWrite a b c => Sys2Proof.Machine.execQcheadWrite a b c s
  | .registerWrite a b c d => Sys2Proof.Machine.execRegisterWrite a b c d s
  | .packetIntake a => Sys2Proof.Machine.execPacketIntake a s
  | .taskDispatch a => Sys2Proof.Machine.execTaskDispatch a s
  | .unitPlacement a => Sys2Proof.Machine.execUnitPlacement a s
  | .unitRestore a => Sys2Proof.Machine.execUnitRestore a s
  | .taskCompletion a => Sys2Proof.Machine.execTaskCompletion a s
  | .interruptDelay a b => Sys2Proof.Machine.execInterruptDelay a b s
  | .workgroupRelease a b => Sys2Proof.Machine.execWorkgroupRelease a b s
  | .residencyDeadlock a => Sys2Proof.Machine.execResidencyDeadlock a s
  | .packetDecode a => Sys2Proof.Machine.execPacketDecode a s
  | .joinRelease a => Sys2Proof.Machine.execJoinRelease a s
  | .pageWalk a b => Sys2Proof.Machine.execPageWalk a b s
  | .upcallPost a b => Sys2Proof.Machine.execUpcallPost a b s
  | .homeAccess a b => Sys2Proof.Machine.execHomeAccess a b s
  | .classDrain a b => Sys2Proof.Machine.execClassDrain a b s
  | .reclassificationPoint a => Sys2Proof.Machine.execReclassificationPoint a s
  | .inval a => Sys2Proof.Machine.execInval a s
  | .harvest a => Sys2Proof.Machine.execHarvest a s
  | .migrate a => Sys2Proof.Machine.execMigrate a s
  | .torusPacketArrival a b c => Sys2Proof.Machine.execTorusPacketArrival a b c s
  | .crossingParityError a => Sys2Proof.Machine.execCrossingParityError a s
  | .linkFlitReceive a b => Sys2Proof.Machine.execLinkFlitReceive a b s
  | .nackReceive a b => Sys2Proof.Machine.execNackReceive a b s
  | .laneLockLoss a => Sys2Proof.Machine.execLaneLockLoss a s
  | .forceRetrain a => Sys2Proof.Machine.execForceRetrain a s
  | .retrainEnd a b => Sys2Proof.Machine.execRetrainEnd a b s
  | .linkDownEvent a => Sys2Proof.Machine.execLinkDownEvent a s
  | .portEnable a => Sys2Proof.Machine.execPortEnable a s
  | .portDisable a => Sys2Proof.Machine.execPortDisable a s
  | .linkTrained a b c => Sys2Proof.Machine.execLinkTrained a b c s
  | .peerRequest a b => Sys2Proof.Machine.execPeerRequest a b s
  | .peerTagAssign a => Sys2Proof.Machine.execPeerTagAssign a s
  | .peerTargetRequest a => Sys2Proof.Machine.execPeerTargetRequest a s
  | .peerResponse a b => Sys2Proof.Machine.execPeerResponse a b s
  | .peerTimeout a => Sys2Proof.Machine.execPeerTimeout a s
  | .peerCancel a b c d => Sys2Proof.Machine.execPeerCancel a b c d s
  | .inboundWrite a b c d => Sys2Proof.Machine.execInboundWrite a b c d s
  | .inboundWriteRelease a b => Sys2Proof.Machine.execInboundWriteRelease a b s
  | .inboundRead a b c d => Sys2Proof.Machine.execInboundRead a b c d s
  | .hostCompletion a b c => Sys2Proof.Machine.execHostCompletion a b c s
  | .hostCompletionTimeout a b => Sys2Proof.Machine.execHostCompletionTimeout a b s
  | .copyLineRequest a b => Sys2Proof.Machine.execCopyLineRequest a b s
  | .copyCompletion a b => Sys2Proof.Machine.execCopyCompletion a b s
  | .multicastItem a b c => Sys2Proof.Machine.execMulticastItem a b c s
  | .shuffleExecute a b => Sys2Proof.Machine.execShuffleExecute a b s
  | .msclScaleWrite a => Sys2Proof.Machine.execMsclScaleWrite a s
  | .reclaimWalk a b => Sys2Proof.Machine.execReclaimWalk a b s
  | .countWordWake a b => Sys2Proof.Machine.execCountWordWake a b s
  | .waitRepoll a => Sys2Proof.Machine.execWaitRepoll a s
  | .remoteCwwaitPoll a => Sys2Proof.Machine.execRemoteCwwaitPoll a s
  | .groupWatchdog a => Sys2Proof.Machine.execGroupWatchdog a s
  | .preemptionRequest a => Sys2Proof.Machine.execPreemptionRequest a s
  | .preemptionSave a b => Sys2Proof.Machine.execPreemptionSave a b s
  | .preemptDeadline a b => Sys2Proof.Machine.execPreemptDeadline a b s
  | .debugHalt a => Sys2Proof.Machine.execDebugHalt a s
  | .debugResume a => Sys2Proof.Machine.execDebugResume a s
  | .debugRegRead a => Sys2Proof.Machine.execDebugRegRead a s
  | .debugRegWrite a => Sys2Proof.Machine.execDebugRegWrite a s
  | .debugResumeNext a => Sys2Proof.Machine.execDebugResumeNext a s
  | .debugResumeTret a => Sys2Proof.Machine.execDebugResumeTret a s
  | .debugKill a => Sys2Proof.Machine.execDebugKill a s
  | .sleepExpiry a => Sys2Proof.Machine.execSleepExpiry a s
  | .eventLogEnable => Sys2Proof.Machine.execEventLogEnable s
  | .elheadWrite a => Sys2Proof.Machine.execElheadWrite a s
  | .scrubPass a b c d => Sys2Proof.Machine.execScrubPass a b c d s
  | .bankRetired a b c => Sys2Proof.Machine.execBankRetired a b c s
  | .moduleReset => Sys2Proof.Machine.execModuleReset s
  | .bringup => Sys2Proof.Machine.execBringup s
  | .deviceReset a => Sys2Proof.Machine.execDeviceReset a s
  | .engineDrainTimeout a => Sys2Proof.Machine.execEngineDrainTimeout a s
  | .attest => Sys2Proof.Machine.execAttest s
  | .cert => Sys2Proof.Machine.execCert s
  | .load a b => Sys2Proof.Machine.execLoad a b s
  | .fwWatchdog => Sys2Proof.Machine.execFwWatchdog s
  | .thermalTrip a => Sys2Proof.Machine.execThermalTrip a s
  | .thermalThrottle a => Sys2Proof.Machine.execThermalThrottle a s
  | .powerFault => Sys2Proof.Machine.execPowerFault s
  | .ctFatal => Sys2Proof.Machine.execCtFatal s
  | .clockChange a => Sys2Proof.Machine.execClockChange a s
  | .nop o => Sys2Proof.Machine.execNop o s
  | .saddR o => Sys2Proof.Machine.execSaddR o s
  | .ssubR o => Sys2Proof.Machine.execSsubR o s
  | .smulR o => Sys2Proof.Machine.execSmulR o s
  | .smulh o => Sys2Proof.Machine.execSmulh o s
  | .sdiv o => Sys2Proof.Machine.execSdiv o s
  | .srem o => Sys2Proof.Machine.execSrem o s
  | .sandR o => Sys2Proof.Machine.execSandR o s
  | .sorR o => Sys2Proof.Machine.execSorR o s
  | .sxorR o => Sys2Proof.Machine.execSxorR o s
  | .sshlR o => Sys2Proof.Machine.execSshlR o s
  | .sshrR o => Sys2Proof.Machine.execSshrR o s
  | .ssraR o => Sys2Proof.Machine.execSsraR o s
  | .sminR o => Sys2Proof.Machine.execSminR o s
  | .smaxR o => Sys2Proof.Machine.execSmaxR o s
  | .scmpR o => Sys2Proof.Machine.execScmpR o s
  | .ssel o => Sys2Proof.Machine.execSsel o s
  | .smov o => Sys2Proof.Machine.execSmov o s
  | .sleaR o => Sys2Proof.Machine.execSleaR o s
  | .spopc o => Sys2Proof.Machine.execSpopc o s
  | .sclz o => Sys2Proof.Machine.execSclz o s
  | .sbrev o => Sys2Proof.Machine.execSbrev o s
  | .saddI o => Sys2Proof.Machine.execSaddI o s
  | .smulI o => Sys2Proof.Machine.execSmulI o s
  | .sandI o => Sys2Proof.Machine.execSandI o s
  | .sorI o => Sys2Proof.Machine.execSorI o s
  | .sxorI o => Sys2Proof.Machine.execSxorI o s
  | .sshlI o => Sys2Proof.Machine.execSshlI o s
  | .sshrI o => Sys2Proof.Machine.execSshrI o s
  | .ssraI o => Sys2Proof.Machine.execSsraI o s
  | .scmpI o => Sys2Proof.Machine.execScmpI o s
  | .sli o => Sys2Proof.Machine.execSli o s
  | .br o => Sys2Proof.Machine.execBr o s
  | .brc o => Sys2Proof.Machine.execBrc o s
  | .brv o => Sys2Proof.Machine.execBrv o s
  | .rcv o => Sys2Proof.Machine.execRcv o s
  | .call o => Sys2Proof.Machine.execCall o s
  | .ret o => Sys2Proof.Machine.execRet o s
  | .jmpi o => Sys2Proof.Machine.execJmpi o s
  | .mfs o => Sys2Proof.Machine.execMfs o s
  | .mts o => Sys2Proof.Machine.execMts o s
  | .enq o => Sys2Proof.Machine.execEnq o s
  | .exit o => Sys2Proof.Machine.execExit o s
  | .sminI o => Sys2Proof.Machine.execSminI o s
  | .smaxI o => Sys2Proof.Machine.execSmaxI o s
  | .sleaI o => Sys2Proof.Machine.execSleaI o s
  | .vadd o => Sys2Proof.Machine.execVadd o s
  | .vsub o => Sys2Proof.Machine.execVsub o s
  | .vmul o => Sys2Proof.Machine.execVmul o s
  | .vfma o => Sys2Proof.Machine.execVfma o s
  | .vneg o => Sys2Proof.Machine.execVneg o s
  | .vabs o => Sys2Proof.Machine.execVabs o s
  | .vmin o => Sys2Proof.Machine.execVmin o s
  | .vmax o => Sys2Proof.Machine.execVmax o s
  | .vdiv o => Sys2Proof.Machine.execVdiv o s
  | .vsqrt o => Sys2Proof.Machine.execVsqrt o s
  | .vrcp o => Sys2Proof.Machine.execVrcp o s
  | .vrsq o => Sys2Proof.Machine.execVrsq o s
  | .vexp2 o => Sys2Proof.Machine.execVexp2 o s
  | .vlog2 o => Sys2Proof.Machine.execVlog2 o s
  | .vscpi o => Sys2Proof.Machine.execVscpi o s
  | .vcmul o => Sys2Proof.Machine.execVcmul o s
  | .vcfma o => Sys2Proof.Machine.execVcfma o s
  | .vbfly o => Sys2Proof.Machine.execVbfly o s
  | .vtwid o => Sys2Proof.Machine.execVtwid o s
  | .vcvtR o => Sys2Proof.Machine.execVcvtR o s
  | .vqnt o => Sys2Proof.Machine.execVqnt o s
  | .vcvtI o => Sys2Proof.Machine.execVcvtI o s
  | .vtagI o => Sys2Proof.Machine.execVtagI o s
  | .viaddR o => Sys2Proof.Machine.execViaddR o s
  | .visub o => Sys2Proof.Machine.execVisub o s
  | .vimulR o => Sys2Proof.Machine.execVimulR o s
  | .vimulh o => Sys2Proof.Machine.execVimulh o s
  | .vifma o => Sys2Proof.Machine.execVifma o s
  | .vandR o => Sys2Proof.Machine.execVandR o s
  | .vorR o => Sys2Proof.Machine.execVorR o s
  | .vxorR o => Sys2Proof.Machine.execVxorR o s
  | .vshlR o => Sys2Proof.Machine.execVshlR o s
  | .vshrR o => Sys2Proof.Machine.execVshrR o s
  | .vsraR o => Sys2Proof.Machine.execVsraR o s
  | .viminR o => Sys2Proof.Machine.execViminR o s
  | .vimaxR o => Sys2Proof.Machine.execVimaxR o s
  | .viminI o => Sys2Proof.Machine.execViminI o s
  | .vimaxI o => Sys2Proof.Machine.execVimaxI o s
  | .vimulI o => Sys2Proof.Machine.execVimulI o s
  | .viaddI o => Sys2Proof.Machine.execViaddI o s
  | .vandI o => Sys2Proof.Machine.execVandI o s
  | .vorI o => Sys2Proof.Machine.execVorI o s
  | .vxorI o => Sys2Proof.Machine.execVxorI o s
  | .vshlI o => Sys2Proof.Machine.execVshlI o s
  | .vshrI o => Sys2Proof.Machine.execVshrI o s
  | .vsraI o => Sys2Proof.Machine.execVsraI o s
  | .vcmpR o => Sys2Proof.Machine.execVcmpR o s
  | .vsel o => Sys2Proof.Machine.execVsel o s
  | .vmovR o => Sys2Proof.Machine.execVmovR o s
  | .vbcastR o => Sys2Proof.Machine.execVbcastR o s
  | .vlane o => Sys2Proof.Machine.execVlane o s
  | .vshflR o => Sys2Proof.Machine.execVshflR o s
  | .vperm o => Sys2Proof.Machine.execVperm o s
  | .vscan o => Sys2Proof.Machine.execVscan o s
  | .vred o => Sys2Proof.Machine.execVred o s
  | .vpopc o => Sys2Proof.Machine.execVpopc o s
  | .vclz o => Sys2Proof.Machine.execVclz o s
  | .vtagR o => Sys2Proof.Machine.execVtagR o s
  | .vcmpI o => Sys2Proof.Machine.execVcmpI o s
  | .vmovL o => Sys2Proof.Machine.execVmovL o s
  | .vbcastI o => Sys2Proof.Machine.execVbcastI o s
  | .vshflI o => Sys2Proof.Machine.execVshflI o s
  | .kand o => Sys2Proof.Machine.execKand o s
  | .kor o => Sys2Proof.Machine.execKor o s
  | .kxor o => Sys2Proof.Machine.execKxor o s
  | .knot o => Sys2Proof.Machine.execKnot o s
  | .kpopc o => Sys2Proof.Machine.execKpopc o s
  | .kmovR o => Sys2Proof.Machine.execKmovR o s
  | .kmovL o => Sys2Proof.Machine.execKmovL o s
  | .ldM o => Sys2Proof.Machine.execLdM o s
  | .stM o => Sys2Proof.Machine.execStM o s
  | .ldsM o => Sys2Proof.Machine.execLdsM o s
  | .stsM o => Sys2Proof.Machine.execStsM o s
  | .ldu o => Sys2Proof.Machine.execLdu o s
  | .atmM o => Sys2Proof.Machine.execAtmM o s
  | .xaddM o => Sys2Proof.Machine.execXaddM o s
  | .xrdM o => Sys2Proof.Machine.execXrdM o s
  | .xclr o => Sys2Proof.Machine.execXclr o s
  | .btl o => Sys2Proof.Machine.execBtl o s
  | .btinv o => Sys2Proof.Machine.execBtinv o s
  | .classR o => Sys2Proof.Machine.execClassR o s
  | .pfhM o => Sys2Proof.Machine.execPfhM o s
  | .send o => Sys2Proof.Machine.execSend o s
  | .rpop o => Sys2Proof.Machine.execRpop o s
  | .rwait o => Sys2Proof.Machine.execRwait o s
  | .ldN o => Sys2Proof.Machine.execLdN o s
  | .stN o => Sys2Proof.Machine.execStN o s
  | .ldsN o => Sys2Proof.Machine.execLdsN o s
  | .stsN o => Sys2Proof.Machine.execStsN o s
  | .atmN o => Sys2Proof.Machine.execAtmN o s
  | .pfhN o => Sys2Proof.Machine.execPfhN o s
  | .classI o => Sys2Proof.Machine.execClassI o s
  | .xaddN o => Sys2Proof.Machine.execXaddN o s
  | .xrdN o => Sys2Proof.Machine.execXrdN o s
  | .ldshape o => Sys2Proof.Machine.execLdshape o s
  | .stshape o => Sys2Proof.Machine.execStshape o s
  | .cpyR o => Sys2Proof.Machine.execCpyR o s
  | .cpym o => Sys2Proof.Machine.execCpym o s
  | .shufR o => Sys2Proof.Machine.execShufR o s
  | .cpyI o => Sys2Proof.Machine.execCpyI o s
  | .shufI o => Sys2Proof.Machine.execShufI o s
  | .mma o => Sys2Proof.Machine.execMma o s
  | .mscl o => Sys2Proof.Machine.execMscl o s
  | .mrdR o => Sys2Proof.Machine.execMrdR o s
  | .mwrR o => Sys2Proof.Machine.execMwrR o s
  | .mst o => Sys2Proof.Machine.execMst o s
  | .mzero o => Sys2Proof.Machine.execMzero o s
  | .mprog o => Sys2Proof.Machine.execMprog o s
  | .mrdI o => Sys2Proof.Machine.execMrdI o s
  | .mwrI o => Sys2Proof.Machine.execMwrI o s
  | .tsbind o => Sys2Proof.Machine.execTsbind o s
  | .tsdesc o => Sys2Proof.Machine.execTsdesc o s
  | .tsexp o => Sys2Proof.Machine.execTsexp o s
  | .tsback o => Sys2Proof.Machine.execTsback o s
  | .tsleaf o => Sys2Proof.Machine.execTsleaf o s
  | .tsroot o => Sys2Proof.Machine.execTsroot o s
  | .tsstat o => Sys2Proof.Machine.execTsstat o s
  | .cwsigR o => Sys2Proof.Machine.execCwsigR o s
  | .cwwaitR o => Sys2Proof.Machine.execCwwaitR o s
  | .cwrd o => Sys2Proof.Machine.execCwrd o s
  | .cwset o => Sys2Proof.Machine.execCwset o s
  | .gnew o => Sys2Proof.Machine.execGnew o s
  | .gjoin o => Sys2Proof.Machine.execGjoin o s
  | .gleave o => Sys2Proof.Machine.execGleave o s
  | .gbar o => Sys2Proof.Machine.execGbar o s
  | .gvote o => Sys2Proof.Machine.execGvote o s
  | .gred o => Sys2Proof.Machine.execGred o s
  | .gstat o => Sys2Proof.Machine.execGstat o s
  | .gfree o => Sys2Proof.Machine.execGfree o s
  | .cwsigI o => Sys2Proof.Machine.execCwsigI o s
  | .cwwaitI o => Sys2Proof.Machine.execCwwaitI o s
  | .trapL o => Sys2Proof.Machine.execTrapL o s
  | .tret o => Sys2Proof.Machine.execTret o s
  | .region o => Sys2Proof.Machine.execRegion o s
  | .pgsupply o => Sys2Proof.Machine.execPgsupply o s
  | .bkpt o => Sys2Proof.Machine.execBkpt o s
  | .sleep o => Sys2Proof.Machine.execSleep o s
  | .mflog o => Sys2Proof.Machine.execMflog o s
  | .trapR o => Sys2Proof.Machine.execTrapR o s
  | .coreRetirement a => Sys2Proof.Machine.execCoreRetirement a s
  | .hostPortLinkChange a b c => Sys2Proof.Machine.execHostPortLinkChange a b c s
  | .ageingInterval a => Sys2Proof.Machine.execAgeingInterval a s
  | .debugPortMemoryAccess a b => Sys2Proof.Machine.execDebugPortMemoryAccess a b s
  | .mopBadArg a => Sys2Proof.Machine.execMopBadArg a s
  | .mbcmdBadCmd => Sys2Proof.Machine.execMbcmdBadCmd s

end Sys2Proof.Machine
end

