-- ==== Sys2Proof/Machine/Errors.lean ====
section
/-! DEFINITION. Errors that the hardware's checks find (R355, R383): which causes of class 11 a word, a copy, a shuffle and a
reclaim walk can meet, and what becomes of them. Errors that no check finds (R384). -/

namespace Sys2Proof.Machine

/-- The types of the accesses that a word makes (R209). -/
def accessTypes : Instr → List Nat
  | .ldM _ | .ldN _ | .ldsM _ | .ldsN _ | .ldu _ | .rpop _ | .rwait _ | .cwrd _ | .cwwaitR _ | .cwwaitI _ => [0]
  | .stM _ | .stN _ | .stsM _ | .stsN _ | .stshape _ => [1]
  | .atmM _ | .atmN _ | .xaddM _ | .xaddN _ | .xrdM _ | .xrdN _ | .xclr _ | .cwsigR _ | .cwsigI _ | .cwset _ => [2]
  | .cpym _ => [4]
  | .mma _ | .mst _ | .mscl _ => [5]
  | .tsbind _ | .tsdesc _ | .tsexp _ | .tsback _ | .tsleaf _ | .tsroot _ | .tsstat _ => [6]
  | .ldshape _ | .enq _ => [7]
  | .region _ => [3]
  | _ => []

/-- The register files that a word reads, by the parameter of REGFILE_UE; a group register counts as special. -/
def State.filesRead (s : State) (i : Instr) : List Nat :=
  (s.uses i).reads.filterMap (fun r => match r.1 with
    | .s => some 0
    | .v => some 1
    | .k => some 2
    | .g => some 3
    | .h => some 4
    | .x => some 3
    | .b => none) ++
  (match i with
   | .mfs _ => [3]
   | .mts _ => [3]
   | .brv _ => [5]
   | .rcv _ => [5]
   | _ => [])

/-- The units that a word uses, by the parameter of ENGINE_UE. -/
def unitsUsed : Instr → List Nat
  | .cpyR _ | .cpyI _ | .cpym _ => [0]
  | .shufR _ | .shufI _ => [1]
  | .mma _ => [2, 3, 4]
  | .mscl _ => [4]
  | .mrdR _ | .mrdI _ | .mwrR _ | .mwrI _ | .mzero _ | .mst _ => [3]
  | .tsbind _ | .tsdesc _ | .tsexp _ | .tsback _ | .tsleaf _ | .tsroot _ | .tsstat _ => [5]
  | .stM _ | .stN _ | .atmM _ | .atmN _ | .xaddM _ | .xaddN _ | .xclr _ | .stshape _ | .region _ => [6]
  | .cwwaitR _ | .cwwaitI _ => [7]
  | _ => []

/-- The structures of CT that a word uses, by the parameter of CT_UE: the group table, the walkers, the upcall buffer. -/
def ctUsed (i : Instr) : List Nat :=
  (match i with
   | .gnew _ | .gjoin _ | .gleave _ | .gfree _ | .gbar _ | .gvote _ | .gred _ | .gstat _ => [0]
   | .pgsupply _ => [5, 4]
   | .btl _ | .classR _ | .classI _ | .cpyR _ | .cpyI _ | .shufR _ | .shufI _ => [4]
   | _ => []) ++ if (accessTypes i).isEmpty then [] else [4]

/-- The access type of a word on a receiver-resident ring, which is in scratch (R233). -/
def ringType : Instr → Option Nat
  | .rpop _ | .rwait _ => some 0
  | .send _ => some 1
  | _ => none

/-- Whether a word can meet the error that a class 11 detail names; errors of the first three kinds, and of the held-task table, are
those of an access (`meet`, `badSlot`), but for those of scratch that a word on a ring meets. -/
def State.canStrike (s : State) (d : DWord) (detail : Nat) : Bool :=
  let p := detail % 8
  if isPfh d then false
  else match detail / 8 with
  | 0 | 1 => false
  | 2 => ringType d.instr = some p
  | 3 => (accessTypes d.instr).contains p && (s.uses d.instr).reads.any (fun r => r.1 = .b)
  | 4 => (s.filesRead d.instr).contains p
  | 5 => d.pipe.map Pipe.index = some p
  | 6 => (unitsUsed d.instr).contains p
  | _ => (ctUsed d.instr).contains p

/-- The cause of a class 11 detail. -/
def integrityCause (detail : BitVec 6) : BitVec 10 := 0x2C0 + detail.setWidth 10

/-- A word in progress that meets an error makes no further access, and traps once those that are outstanding have been answered (R355,
R358). A tree word meets one before its first access only (log 38). -/
def Flight.struck (fl : Flight) (cause : BitVec 10) (data : Word64) : Flight :=
  if fl.tree.isSome || fl.reqs.isEmpty || fl.fault.isSome then fl else { fl with fault := some (cause, data) }

/-- The next word of the fragment in focus, if it can meet the error, traps at it (R355). -/
def State.strikeWord (s : State) (detail : BitVec 6) (data : Word64) : State :=
  let c := s.focus.core
  let k := s.focus.slot
  let key := s.focus.frag
  match Tab.find (s.warp c k).frags key with
  | none => s
  | some f => match f.words with
    | [] => s
    | d :: _ =>
      let t := s.focusOn c k key
      if !t.canStrike d detail.toNat then s
      else match f.flight, f.park with
      | none, .none => t.stopWaiting.takeTrap (integrityCause detail) data false
      | some fl, .none => t.setF { f with flight := some (fl.struck (integrityCause detail) data) }
      | some fl, .busy => t.setF { f with flight := some (fl.struck (integrityCause detail) data) }
      | _, _ => s

/-- A copy fails at an error of its slot, or of a line that it accesses; the shuffle that runs, at one of the scratchpad or of
its queue (R274, R281). -/
def State.strikeItem (s : State) (c slot : Nat) (detail : BitVec 6) (addr : Word64) : State :=
  let f := (integrityCause detail, addr)
  if slot < 32 then
    match Tab.find (s.core c).copies slot with
    | none => s
    | some x => if x.failed.isSome || !x.half.isEmpty || !([4, 12, 20, 48, 60].contains detail.toNat) then s else s.setCopy c slot { x with failed := some f }
  else
    match (s.core c).shuffles with
    | [] => s
    | x :: rest =>
      if x.failed.isSome || !([20, 49].contains detail.toNat) then s
      else s.setCore c { s.core c with shuffles := { x with failed := some f } :: rest }

/-- A reclaim walk ends at an error of the engine, or of a line that it accesses, and is logged (R317). -/
def State.strikeWalk (s : State) (d ctx : Nat) (detail : BitVec 6) (addr : Word64) : State :=
  let eng := (s.device d).spinel
  let x := Tab.get eng.ctxs {} ctx
  if x.walk.isNone || !([6, 14, 53].contains detail.toNat) then s
  else ((s.setSpinel d { eng with ctxs := Tab.set eng.ctxs ctx (x.endWalk d ctx) }).dropWaiter (.engine (192 + d) ctx)).logEvent
    { cause := integrityCause detail, src := d, addr := addr, task := some x.task }

/-- A bank corrects an error at an access: it is counted and logged, and no result changes (R383, R385). -/
def State.correctError (s : State) (d slice bank : Nat) : State :=
  let x := s.slice d slice
  (s.setSlice d slice { x with counts := Tab.set x.period bank (Tab.get x.period 0 bank + 1), closed := false }).logEvent
    { cause := 0x00C, src := d, aux := bankAux slice bank }

/-- Another checked structure corrects an error: a stack, an SRAM or a register file of a die, or a table of CT. It is logged, and no
result changes (R383). -/
def State.correctedIn (s : State) (src core : Nat) : State :=
  s.logEvent { cause := 0x00C, src := src, core := if src = dieOf core then core else 0 }

/-! ### Errors that no check finds (R384). -/

/-- A register write with a wrong value. -/
def spoilWrite (m : Word64) : RegWrite → RegWrite
  | .s r v => .s r (v ^^^ m)
  | .v r lane x => .v r lane { x with val := x.val ^^^ m.setWidth 32 }
  | .k r lanes bits => .k r lanes (bits ^^^ m.setWidth 32)
  | .b r x => .b r x
  | .g r x => .g r (x ^^^ m.setWidth 32)
  | .h r x => .h r x
  | .spr n x => .spr n x

/-- The rows of tiles that an operation has written, with wrong values. -/
def spoilTiles (m : Word64) (before after : Tab (List Word32)) : Tab (List Word32) :=
  after.map (fun e => (e.1, (e.2.zipIdx.map (fun x =>
    if (Tab.get before (List.replicate 192 0) e.1)[x.2]? = some x.1 then x.1 else x.1 ^^^ m.setWidth 32))))

/-- The bytes of memory, on the stacks or the host's, that an operation has written, with wrong values. -/
def spoilMem (m : Word64) (before after : Memory) : Memory :=
  (after.filter (fun e => !before.contains e)).foldl (fun t e => Memory.put t e.1 (e.2 ^^^ m.setWidth 8)) after

/-- What a word of a warp has written between two states takes wrong values: register results still to complete, tiles, memory. -/
def State.spoil (before after : State) (c k : Nat) (m : Word64) : State :=
  let old := before.warp c k
  let w := after.warp c k
  let after := if (Tab.find (after.core c).warps k).isNone then after else
    let g := after.wg c w.wg
    (after.setWarp c k { w with pend := w.pend.map (fun p =>
      if old.pend.contains p then p else { p with write := spoilWrite m p.write }) }).setWg c w.wg
        { g with tiles := spoilTiles m (before.wg c w.wg).tiles g.tiles }
  { after with mem := spoilMem m before.mem after.mem }

/-- Whether an error that no check finds can make a word's results wrong: the arithmetic of the S, V and T pipes, the matrix
multiplier array, the Spinel score arithmetic, and the torus hops, the bridge and the slice ALUs behind a word's accesses. -/
def unchecked (d : DWord) : Bool :=
  match d.pipe with
  | some .S | some .V | some .T | some .M => true
  | _ => countOpcode d.op || match d.instr with
    | .mma _ | .mst _ | .mscl _ | .enq _ | .region _ => true
    | .tsbind _ | .tsdesc _ | .tsexp _ | .tsback _ | .tsleaf _ | .tsroot _ | .tsstat _ => true
    | _ => false

/-- Data that a copy has read, or that the shuffle that runs moves, turn wrong. -/
def State.wrongItem (s : State) (c slot : Nat) (m : Word64) : State :=
  let bad (t : Tab Nat) : Tab Nat := match t.getLast? with
    | some e => Tab.set t e.1 (e.2 ^^^ (m.setWidth 8).toNat)
    | none => t
  let x := s.core c
  if slot < 32 then s.setCore c { x with copies := x.copies.map (fun k => if k.1 = slot then (k.1, { k.2 with buf := bad k.2.buf }) else k) }
  else match x.shuffles with
    | [] => s
    | y :: rest => s.setCore c { x with shuffles := { y with buf := bad y.buf } :: rest }

/-- The eight bytes at an address with wrong bits. -/
def Memory.flip (m : Memory) (a : Nat) (x : Word64) : Memory := m.write a 8 (m.read a 8 ^^^ x.toNat)

/-- Bytes that a move has read wrong and not written are as they were. -/
def Memory.unflip (m before wrong : Memory) (a : Nat) : Memory :=
  (List.range 8).foldl (fun m i => if m.get (a + i) = wrong.get (a + i) then m.put (a + i) (before.get (a + i)) else m) m

/-- Data that has left the module with wrong bits. -/
def Output.spoil (x : Word64) : Output → Output
  | .readData fn (some bs) => .readData fn (some (bs.map (· ^^^ x.setWidth 8)))
  | .peerAnswer m d t (.value v) => .peerAnswer m d t (.value (v ^^^ x.toNat))
  | o => o

/-- The state after a move whose traffic no check covered (R384): `before` is the state it began in, with the eight bytes at `a` read
as in `wrong`, and `x` marks the bits that are wrong in what it has written to memory or sent out. -/
def State.garbled (t before : State) (wrong : Memory) (a : Nat) (x : Word64) : State :=
  let n := before.io.outputs.length
  { t with mem := spoilMem x before.mem (t.mem.unflip before.mem wrong a),
           io := { t.io with outputs := t.io.outputs.take n ++ (t.io.outputs.drop n).map (Output.spoil x) } }

/-- A TLB entry is dropped (R208, R383). -/
def State.dropTlb (s : State) (c page : Nat) : State := s.setCore c { s.core c with tlb := Tab.del (s.core c).tlb page }

end Sys2Proof.Machine
end

