-- ==== Sys2Proof/Machine/Run.lean ====
section
/-! DEFINITION. What one turn does: the words of an issue group run in order, a quadrant issues or goes on, the hardware
takes one of its other steps, the clock runs on. -/

namespace Sys2Proof.Machine

/-- The words that need not wait for the words before them in their group: those of the S, V and T pipes, which make no
access and transfer no control (R93). -/
def isPrompt (d : DWord) : Bool :=
  (0x01 ≤ d.op && d.op ≤ 0x1F) || d.op == 0x27 || (0x2B ≤ d.op && d.op ≤ 0x2D) || (0x30 ≤ d.op && d.op ≤ 0x76)

/-- The words of the group in focus behind one that waits: a prompt word takes effect now, in its issue cycle, unless it
traps; what is left, in order, runs once the words before it have ended. -/
def State.runBehind (s : State) : List DWord → State × List DWord
  | [] => (s, [])
  | d :: ds =>
    let on : State := { s with focus := { s.focus with pos := d.pos, ord := d.pos, enc := d.enc } }
    let stay (s : State) : State × List DWord :=
      let r := s.runBehind ds
      (r.1, d :: r.2)
    if !isPrompt d then stay s
    else match Sys2Proof.Machine.exec d.instr on with
      | .next t => if t.focus.out = .done then State.runBehind { t with focus := s.focus } ds else stay s
      | _ => stay s

/-- A memory instruction that has made its accesses is outstanding until its answer stands (R202): one that touched a SHARED or
unclassified page, as every count word's page is (R201), or one of the others that count. A scratch access never counts (R187), nor
does a word that touches no page itself. -/
def State.answered (s : State) (d : DWord) : State :=
  let touched := if countOpcode d.op then some true else s.focus.touched
  match touched with
  | none => s
  | some strict =>
    if s.focus.slow = 0 || !(strict || (s.wordReqs d.instr).isSome) then s
    else
      let w := s.w
      let due := max (s.focus.issue + 1) s.now + s.focus.slow
      s.setW { w with memq := (due, strict) :: w.memq.filter (fun e => s.now < e.1) }

/-- The words of the fragment in focus run in order, until one waits or traps. Every word reads the registers as they were
when the group issued (R93); at most six words stand in a group (R72). The prompt words behind one that waits run too. -/
def State.runWords (s : State) : Nat → Host.Outcome State Fault Refusal
  | 0 => .next s
  | n + 1 =>
    let c := s.focus.core
    let k := s.focus.slot
    let key := s.focus.frag
    let lanes := s.focus.lanes
    let slow := s.focus.slow
    match (s.frag c k key).words with
    | [] => .next s
    | d :: _ =>
      let s := s.focusOn c k key
      match Sys2Proof.Machine.exec d.instr { s with focus := { s.focus with lanes := lanes, slow := slow } } with
      | .fault r => .fault r
      | .refused r => .refused r
      | .next s =>
        match Tab.find (s.warp c k).frags key with
        | none => .next s
        | some f =>
          match s.focus.out with
          | .trapped => .next s
          | .waiting =>
            let r := s.runBehind f.words.tail
            .next (r.1.setFrag c k key { r.1.frag c k key with words := f.words.take 1 ++ r.2 })
          | .done =>
            if f.words.isEmpty then .next s
            else State.runWords ((s.answered d).setFrag c k key ((s.answered d).frag c k key).finishWord) n

/-- A quadrant moves (R92): it issues one group, at most one in a cycle, or goes on with one of the groups that it has
issued, which a halt (R373) does not stop. What it gives is the state with that group in focus, and whether it has words to
run. -/
def State.openGroup (s : State) (c q sel slow : Nat) (lanes : BitVec 32) : State × Bool :=
  if s.module.fatal.isSome then (s, false)
  else if sel = 0 then
    if !s.dieRuns (dieOf c) || (s.device (dieOf c)).dhalt || (s.quad c q).lastIssue = some s.now then (s, false)
    else
      let s := (s.restoreQuad c q).passSplits c q
      s.tryIssue c lanes slow (s.readyFrags c q)
  else
    let l := s.openFrags c q
    match l[(sel - 1) % l.length]? with
    | none => (s, false)
    | some (k, f) =>
      let s := s.focusOn c k f
      ({ s with focus := { s.focus with lanes := lanes, slow := slow } }, true)

/-- A quadrant's move. -/
def State.issueTurn (s : State) (c q sel slow : Nat) (lanes : BitVec 32) : Host.Outcome State Fault Refusal :=
  match s.openGroup c q sel slow lanes with
  | (s, true) => s.runWords 6
  | (s, false) => .next s

/-- The state after a turn that ran with an error. -/
def clearUpset : Host.Outcome State Fault Refusal → Host.Outcome State Fault Refusal
  | .next t => .next { t with upset := none }
  | r => r

/-- Whether a class 11 detail is one of an access, fetches and the read of HTSLOT among them: kinds 0 to 2, and 0x2F9. -/
def ofAccess (detail : Nat) : Bool := detail < 24 || detail = 57

/-- Whether the word of the fragment in focus after the next `n` works on a ring. -/
def State.ringNext (s : State) (n : Nat) : Bool :=
  match (s.frag s.focus.core s.focus.slot s.focus.frag).words[n]? with
  | some d => (ringType d.instr).isSome
  | none => false

/-- A quadrant's move that meets an error (R355): one of an access, which strikes the access after the first `n`, or another one,
which strikes the word after the first `n`; one of scratch strikes a word on a ring, and one of the walker a fetch of the move whose
translation misses. -/
def State.strikeTurn (s : State) (c q sel n : Nat) (lanes : BitVec 32) (detail : BitVec 6) (data : Word64) :
    Host.Outcome State Fault Refusal :=
  let met : Option Upset :=
    if ofAccess detail.toNat then some (.found (detail.toNat / 8) n) else if detail = 60 then some .walker else none
  match { s with upset := met }.openGroup c q sel 0 lanes with
  | (s, false) => .next { s with upset := none }
  | (s, true) =>
    if (s.upset.isNone && met.isSome) || (ofAccess detail.toNat && !(detail.toNat / 8 = 2 && s.ringNext n)) then
      clearUpset (s.runWords 6)
    else match { s with upset := none }.runWords n with
    | .next t => .next (if n = 0 || t.focus.out = .done then t.strikeWord detail data else t)
    | r => r

/-- A quadrant's move in which the word after the first `n` has wrong results (R384). -/
def State.wrongTurn (s : State) (c q sel n : Nat) (lanes : BitVec 32) (mask : Word64) : Host.Outcome State Fault Refusal :=
  match s.openGroup c q sel 0 lanes with
  | (s, false) => .next s
  | (s, true) => match s.runWords n with
    | .next t =>
      if n != 0 && t.focus.out != .done then .next t
      else match (t.frag t.focus.core t.focus.slot t.focus.frag).words.head? with
        | none => .next t
        | some d => match clearUpset ({ t with upset := some (.wrong mask) }.runWords 1) with
          | .next u => .next (if unchecked d then t.spoil u t.focus.core t.focus.slot mask else u)
          | r => r
    | r => r

/-- The steps that need a compute die, none of which is taken after a fatal event (R248, R357). -/
def needsDie : Instr → Bool
  | .unitRestore _ => true
  | .workgroupRelease _ _ => true
  | .residencyDeadlock _ => true
  | .packetDecode _ => true
  | .joinRelease _ => true
  | .pageWalk _ _ => true
  | .homeAccess _ _ => true
  | .classDrain _ _ => true
  | .reclassificationPoint _ => true
  | .inval _ => true
  | .harvest _ => true
  | .migrate _ => true
  | .peerRequest _ _ => true
  | .peerTargetRequest _ => true
  | .inboundWrite _ _ _ _ => true
  | .inboundWriteRelease _ _ => true
  | .inboundRead _ _ _ _ => true
  | .copyLineRequest _ _ => true
  | .copyCompletion _ _ => true
  | .multicastItem _ _ _ => true
  | .shuffleExecute _ _ => true
  | .msclScaleWrite _ => true
  | .reclaimWalk _ _ => true
  | .countWordWake _ _ => true
  | .waitRepoll _ => true
  | .remoteCwwaitPoll _ => true
  | .groupWatchdog _ => true
  | .preemptionRequest _ => true
  | .preemptionSave _ _ => true
  | .preemptDeadline _ _ => true
  | .debugRegRead _ => true
  | .debugRegWrite _ => true
  | .debugResumeNext _ => true
  | .debugResumeTret _ => true
  | .debugKill _ => true
  | .sleepExpiry _ => true
  | .scrubPass _ _ _ _ => true
  | .ageingInterval _ => true
  | .upcallPost _ _ => true
  | _ => false

/-- A core's L1 drops its copy of a line; a line that it owns is written back (R192). -/
def State.dropLine (s : State) (c line : Nat) : State := s.setCore c { s.core c with l1 := Tab.del (s.core c).l1 line }

/-- The translation of an address that a core holds, in its TLB or in a base register of one of its warps (R207, R232). -/
def Core.holdsPage (x : Core) (va : Nat) : Option TlbEntry :=
  match x.tlbAt va with
  | some e => some e
  | none => (x.warps.flatMap (fun w => w.2.bregs.filterMap (fun b => b.2.at ((va : Int) - b.2.vbase.toNat)))).head?

/-- A prefetch brings the line of an address into a core's L1, where the core's translation has recorded its page as PRIVATE to it or
READONLY; it sets no bit (R192, R214, R232). -/
def State.bringLine (s : State) (c va : Nat) : State :=
  match (s.core c).holdsPage va with
  | some e =>
    let l := e.leaf
    let pa := l.pa + va % 65536
    if l.mt = 0 && !l.cnt && !l.peer && (e.seen = .priv || e.seen = .readOnly) && (s.shut (dieOf c) va).isNone &&
        (Tab.find s.reclass l.key).isNone && !s.lineLost pa 1 && (Tab.find (s.core c).l1 (pa / 128)).isNone then
      s.fillLine c (pa / 128) false
    else s
  | none => s

/-- One of the hardware's other steps. A word is no such step, and nothing happens. -/
def State.eventTurn (s : State) (i : Instr) : Host.Outcome State Fault Refusal :=
  if i.opcode.isSome || (needsDie i && s.module.fatal.isSome) then .next s else Sys2Proof.Machine.exec i s

/-- One turn. In one whose traffic no check covers, the eight bytes at an address are read wrong, or what is written or sent is. -/
def State.takeTurn (s : State) : Turn → Host.Outcome State Fault Refusal
  | .garbled a read write move =>
    let wrong := s.mem.flip a read
    match State.takeTurn { s with mem := wrong } move with
    | .next t => .next (t.garbled s wrong a write)
    | r => r
  | .tick n => .next (s.advance n)
  | .issue c q delay sel lanes slow => (s.advance delay).issueTurn c.val q.val sel slow lanes
  | .event i => s.eventTurn i
  | .strike c q delay sel n lanes detail data => (s.advance delay).strikeTurn c.val q.val sel n lanes detail data
  | .strikeItem c slot detail addr => .next (if s.module.fatal.isSome then s else s.strikeItem c.val slot.val detail addr)
  | .strikeWalk d ctx detail addr => .next (if s.module.fatal.isSome then s else s.strikeWalk d.val ctx.val detail addr)
  | .wrong c q delay sel n lanes mask => (s.advance delay).wrongTurn c.val q.val sel n lanes mask
  | .wrongItem c slot mask => .next (s.wrongItem c.val slot.val mask)
  | .writebackLost d line => .next (s.writebackLost d.val line.toNat)
  | .correctedIn src core => .next (s.correctedIn src.val core.val)
  | .linkPacket p cls flits req => .next (s.linkPacket p.val cls.toNat flits req)
  | .linkSend p cls => .next (s.linkSend p.val cls.toNat)
  | .windowRead by_ off n => .next (s.inOrder by_ (s.windowRead by_.fn.val off.toNat n.val))
  | .dropLine c line => .next (s.dropLine c.val line)
  | .bringLine c va => .next (if s.module.fatal.isSome then s else s.bringLine c.val va)
  | .readAhead c va => .next (if s.module.fatal.isSome then s else s.readAhead c.val va)
  | .corrected d slice bank => .next (if s.module.fatal.isSome then s else s.correctError d.val slice.val bank.val)
  | .dropTlb c page => .next (s.dropTlb c.val page)
  | .torusSend src dst cls flits => .next (s.torusSend src.val dst.val cls.toNat flits)
  | .torusHop i => .next (s.torusHop i)
  | .walkAhead d page => .next (if s.module.fatal.isSome then s else s.walkAhead d.val page)
  | .cancelLoad req => .next (s.cancelLoad req)

end Sys2Proof.Machine
end

