-- ==== Sys2Proof/Machine/Step.lean ====
section
/-! DEFINITION. The step: the next turn of the agenda, or, when it is used up, whichever turn comes next (log 1). -/

namespace Sys2Proof.Machine

/-- The turn that comes next, and the state without it. -/
def State.nextTurn (s : State) : Turn × State :=
  match s.turns with
  | t :: ts => (t, { s with turns := ts })
  | [] => (Config.turn s.turnNo, { s with turnNo := s.turnNo + 1 })

/-- One step of the machine: one turn, the ends of units whose backing failed in it (R59), and the placement of units on what it
has freed (R60). -/
def step (s : State) : Host.Outcome State Fault Refusal :=
  match s.nextTurn.2.takeTurn s.nextTurn.1 with
  | .next t => .next (s.serveFreed t.settle)
  | .fault r => .fault r
  | .refused r => .refused r

/-- The state with one instruction placed as the next packet of a kernel that has just been dispatched to core 0: its
bytes in Guash memory behind a translation, one warp of 32 lanes at its first packet (R58), and the turn in which its
quadrant issues. The host loads a program so, through its queues (log 2). -/
def State.withFetchWord (s : State) (_nbits w : Nat) : State :=
  let t := s.nextTask
  let f : Frag := { mask := BitVec.allOnes 32, pc := 65536, arrived := 65536, stamp := s.now, nextIssue := s.now }
  let wg : Workgroup := { task := t, slots := [0], rplc := 1 }
  let core : Core := { wgs := [(0, wg)], warps := [(0, { frags := [(0, f)] })],
                       tlb := [(1, { leaf := { pa := 65536, x := true } })], placements := 1 }
  let desc : Desc := { code := 65536, codeLen := 1, regs := 8, tiles := 0xF }
  let task : Task := { desc := desc, phase := .running, nextUnit := 1, units := 1, left := 1, alive := [(0, [0])] }
  let d := s.device 0
  let s := ((s.setCore 0 core).setTask t task).setDevice 0 { d with dhalt := false, drst := false }
  { s with
    nextTask := t + 1
    mem := Memory.write s.mem 65536 12 (w % 2 ^ 32)
    lost := []
    upset := none
    module := { s.module with fatal := none, ready := true }
    turns := .issue 0 0 0 0 (BitVec.allOnes 32) 0 :: s.turns }

end Sys2Proof.Machine
end

