-- ==== Sys2Proof/Safety.lean ====
section
/-! DEFINITION. What a safe run is, in the terms of the statements: the predicates over states, outcomes and instructions
that they share. -/

namespace Sys2Proof.Machine

/-! ### Outcomes. -/

/-- The outcome of a step or a meaning is a next state that has a property. -/
def Ends (r : Host.Outcome State Fault Refusal) (p : State → Prop) : Prop := ∃ t, r = .next t ∧ p t

/-- The word in focus has ended, its effect done, in a state that has a property. -/
def Completes (r : Host.Outcome State Fault Refusal) (p : State → Prop) : Prop :=
  ∃ t, r = .next t ∧ t.focus.out = .done ∧ p t

/-- The word in focus takes the trap `cause` with TRAPDATA `data` from the state `s` (R358). -/
def Traps (r : Host.Outcome State Fault Refusal) (s : State) (cause : BitVec 10) (data : Word64) : Prop :=
  r = .next (s.takeTrap cause data false)

/-- No byte of memory differs between two states. -/
def SameMemory (s t : State) : Prop := ∀ a, t.mem.get a = s.mem.get a

/-- A safe state: memory is in its canonical form. -/
def State.Safe (s : State) : Prop := s.mem.wf = true

/-! ### What a word that writes registers leaves. -/

/-- The state in which the word in focus has ended, its effect done. -/
def State.ended (s : State) : State := { s with focus := { s.focus with out := .done } }

/-- The state in which the word in focus has ended with register writes of latency `lat` (0: interlocked, R98), and has done
nothing else: every other part of the state is that of `s`. -/
def State.writes (s : State) (lat : Nat) (ws : List RegWrite) : State := (s.putAll lat ws).ended

/-- The scalar register `d` takes `v`, and nothing else happens. -/
def State.writesS (s : State) (lat : Nat) (d : BitVec 6) (v : Word64) : State := s.writes lat [.s d.toNat v]

/-- The state in which a control word has ended and the fragment in focus goes on at the packet `target` (R119). -/
def State.goes (s : State) (target : Word64) : State := (s.setF { s.f with target := some target }).ended

/-- The word in focus has issued a write of latency `lat` (0: interlocked), which stands among its warp's writes that are
still to complete (R95, R98). -/
def Issues (s t : State) (lat : Nat) (x : RegWrite) : Prop :=
  ⟨if lat = 0 then max (s.focus.issue + 1) s.now + s.focus.slow else s.focus.issue + lat, s.focus.issue, s.focus.ord, x,
    lat == 0⟩ ∈ t.w.pend

/-- The fragment in focus is parked as `p`: the word that it has issued has not ended (R91). -/
def Parks (r : Host.Outcome State Fault Refusal) (p : Park) (q : State → Prop) : Prop :=
  ∃ t, r = .next t ∧ t.focus.out = .waiting ∧ t.f.park = p ∧ q t

/-- A workgroup all of whose touched scratch pages stand in its window (R188). -/
def Workgroup.Settled (g : Workgroup) : Prop := ∀ p ∈ g.touched, p ∈ g.pinned

/-- The ring header `r` stands at an offset of a resident workgroup's window, and is valid (R233). -/
def State.RingAt (s : State) (c g ofs : Nat) (r : Ring) : Prop :=
  (s.wg c g).Settled ∧ ofs + 64 ≤ s.windowOf c g ∧ r = Ring.of ((s.wg c g).scratch.read ofs 64) ∧
  r.ok ofs (s.windowOf c g) = true

/-- Two warps agree on a register: all lanes of it, all bits of it. -/
def SameReg (w w' : Warp) : Reg → Prop
  | (.s, r) => Tab.get w'.sregs 0 r = Tab.get w.sregs 0 r
  | (.v, r) => ∀ l, l < 32 → Tab.get w'.vregs {} (32 * r + l) = Tab.get w.vregs {} (32 * r + l)
  | (.k, r) => Tab.get w'.kregs 0 r = Tab.get w.kregs 0 r
  | (.b, r) => Tab.get w'.bregs {} r = Tab.get w.bregs {} r
  | (.g, r) => Tab.get w'.gregs 0xFFFFFFFF r = Tab.get w.gregs 0xFFFFFFFF r
  | (.h, r) => Tab.get w'.hregs none r = Tab.get w.hregs none r
  | (.x, r) => (r = 0x011 → w'.trapPc = w.trapPc) ∧ (r = 0x012 → w'.trapData = w.trapData)

/-! ### Operands of vector words. -/

/-- Every active lane of a vector register holds the tag `t`, which is not EMPTY (R144). -/
def State.Holds (s : State) (t : Tag) (r : Nat) : Prop :=
  t ≠ .empty ∧ ∀ i, s.active.getLsbD i = true → (s.V r i).tag = t

/-- Every active lane of a vector register holds the tag `t`, and where `t` makes it a pair (R142, R144), the register is
even, its partner exists and holds the partner tag. -/
def State.Tagged (s : State) (t : Tag) (r : Nat) : Prop :=
  s.Holds t r ∧
  ∀ p, t.partner = some p → r % 2 = 0 ∧ r + 1 < s.vregs ∧ ∀ i, s.active.getLsbD i = true → (s.V (r + 1) i).tag = p

/-- The lanes of vector registers agree as a checked uniform word needs them to (R90, R101). -/
def State.Uniform (s : State) (u : Bool) (rs : List Nat) : Prop :=
  u = true → s.t.desc.check = true →
    ∀ r ∈ rs, ∀ i, s.active.getLsbD i = true → (s.V r i).val = (s.V r (lowLane s.active)).val

/-- What an element-wise word needs of its vector sources (R101, R144): a lane is active, every source holds the tag `t`, and
with the uniform bit the lanes agree. -/
def State.Sources (s : State) (u : Bool) (t : Tag) (rs : List Nat) : Prop :=
  s.active ≠ 0 ∧ (∀ r ∈ rs, s.Tagged t r) ∧ s.Uniform u (rs ++ t.partners rs)

/-- What a destination needs that the tag `t` makes a pair (R158). -/
def State.Dest (s : State) (t : Tag) (d : Nat) : Prop := t.partner.isSome = true → d % 2 = 0 ∧ d + 1 < s.vregs

/-- The writes that give each active lane of `d`, or of the pair that `t` makes it, the elements `f lane` under the tag
`t`. -/
def State.lanes (s : State) (d : Nat) (t : Tag) (f : Nat → List Nat) : List RegWrite :=
  (lanesOf s.active).flatMap (fun i => laneWrites d t i (f i))

/-! ### The accesses of a memory word. -/

/-- One lane access that ends at once with its value (R219): the state after it, and the value. There is none where the
access faults or has to wait, where it goes to another module, or where not all lanes may go on in this turn. -/
def State.accessOne (s : State) (type : Nat) (commits : Bool) (r : LaneReq) : Option (State × Nat) :=
  if s.focus.lanes ≠ BitVec.allOnes 32 then none
  else if r.scr then
    match s.meet (s.laneActor type r.lane) true with
    | (some _, _) => none
    | (none, s) =>
      let x := s.scratchOp s.focus.core s.w.wg r.va r.op
      some (x.2, x.1)
  else if s.goesFar r then none
  else match s.access (s.laneActor type r.lane) (r.via.map (fun e => e.leaf)) r.va r.op with
    | (.ok v, t) =>
      some (if commits && (s.seenAt r).strict then t.commit else t, v)
    | _ => none

/-- The lane accesses of a word, one after another, when each ends at once: the state after them, and the value that each
lane received, added to `got`. -/
def State.accessAll (s : State) (type : Nat) (commits : Bool) : List LaneReq → Tab Nat → Option (State × Tab Nat)
  | [], got => some (s, got)
  | r :: rs, got => match s.accessOne type commits r with
    | some (t, v) => t.accessAll type commits rs (Tab.set got r.lane v)
    | none => none

/-- The lane accesses of a memory word that begins with the flight `fl`, one after another in their order (R219), when each ends
at once: the state after them, with nothing in progress, and the value that each lane received. -/
def State.flown (s : State) (commits : Bool) (fl : Flight) : Option (State × Tab Nat) :=
  let b := s.begun commits fl fl.reqs
  match b.accessAll fl.type fl.commits (b.orderReqs fl.reqs) fl.got with
  | some (t, got) => some ((t.noting (s.touchesShared fl.reqs)).landed, got)
  | none => none

/-- The fragment in focus has nothing in progress, and no TRET has just resumed a word whose lanes are part done (R220). -/
def State.Fresh (s : State) : Prop := s.f.flight = none ∧ s.w.progress.armed = false

/-- The state in which nothing is kept of the progress of the word that has ended, lanes or steps (R220, R295). -/
def State.progressed (s : State) : State :=
  if s.w.progress.pc = s.f.pc && s.w.progress.pos = s.focus.pos then s.setW { s.w with progress := {} } else s

/-- What a memory word needs of its addresses (R216, R218): the offset register holds offsets, and the address of every lane
that makes an access is aligned and lies in the scratch window or in the 57 bits of a virtual address. -/
def State.Addressed (s : State) (fm : Form) (align : Nat) (lanes : List Nat) : Prop :=
  (∀ r, fm.off = some r → ∃ t ∈ [Tag.x32, .i32, .n32], s.Holds t r) ∧
  ∀ i ∈ lanes, 0 ≤ fm.addr i ∧ fm.addr i < (if fm.scratch then (s.window : Int) else 2 ^ 57) ∧ fm.addr i % (align : Int) = 0

/-- The blocks of an MMA from block `i` on, `n` at most, when every read ends at once (R293): the state after the last. -/
def State.mmaDone (x : Mma) : Nat → Nat → Tab Nat → State → Option State
  | 0, _, _, s => some s
  | n + 1, i, got, s =>
    if x.m.blocks ≤ i then some s
    else match s.accessAll 5 false (s.mmaReads x { got := got } i) got with
      | some (t, got) =>
        if t.whole then State.mmaDone x n (i + 1) got (t.landed.mmaBlock x { got := got } i) else none
      | none => none

/-- The selected rows that an MST stores from the `i`-th on, `n` at most, when every write ends at once (R300): the state
after the last. -/
def State.mstDone (t : Nat) (bf scr : Bool) (addr : Nat → Nat) : Nat → Nat → State → Option State
  | 0, _, s => some s
  | n + 1, i, s =>
    match s.tileRows[i]? with
    | none => some s
    | some r =>
      match s.accessAll 5 (!scr) (rowReqs scr (addr r) (192 * if bf then 2 else 4) (s.storedRow t r bf)) [] with
      | some (u, _) => if u.whole then State.mstDone t bf scr addr n (i + 1) u.landed else none
      | none => none

/-- The stages of a tree word from `st` on, when none waits or traps: the state after the last, and the result. -/
def State.treeDone (step : State → TreeStage → Micro) : Nat → State → TreeStage → Option (State × Word64)
  | 0, _, _ => none
  | n + 1, s, st => match step (s.setStage st) st with
    | .done t v => some (t, v)
    | .go t st => if t.whole then State.treeDone step n t st else none
    | _ => none

/-- The tree that a tree handle names (R308). -/
def State.TreeAt (s : State) (h : Word64) (i : Nat) : Prop :=
  let v := h.toNat % 2 ^ 32
  i = v % 16 ∧ bitsOf v 15 4 = 0 ∧ (s.ctx i).bound = true ∧ (s.ctx i).gen = v / 2 ^ 16

/-- The path slot that a slot reference names (R311). -/
def State.SlotAt (s : State) (r : Word64) (k : Nat) : Prop :=
  let h := bitsOf r.toNat 47 32
  k = h % 64 ∧ (s.slot k).held = true ∧ (s.slot k).gen % 1024 = h / 64

/-- A tile of the workgroup in focus that the warp in focus may write (R296): it is not persistent, or this warp keeps it and
has written it since its mark. -/
def State.TileReady (s : State) (t : Nat) : Prop :=
  s.t.desc.persist.getLsbD t = false ∨
  (Tab.find s.g.keeper t = some s.w.warpId ∧ s.g.written.contains t = true)

/-- A value of a tile of the workgroup in focus. -/
def State.tileAt (s : State) (t r c : Nat) : Word32 := (s.g.row t r).getD c 0

/-- The leaf through which a core's access goes (R207, R208): that of its base register, or of its TLB. -/
def State.leafFor (s : State) (a : Actor) (via : Option Leaf) (va : Nat) : Option Leaf :=
  match via, (s.translate a va).1 with
  | some l, _ => some l
  | none, .leaf l => some l
  | none, _ => none

/-- The bytes of Guash or host memory that the accesses touch: the first address and the number, for each in turn. -/
def State.touched (s : State) (type : Nat) (commits : Bool) : List LaneReq → List (Nat × Nat)
  | [] => []
  | r :: rs =>
    let here := match s.leafFor (s.laneActor type r.lane) (r.via.map (fun e => e.leaf)) r.va with
      | some l => [(l.pa + r.va % 65536, r.op.size)]
      | none => []
    match s.accessOne type commits r with
    | some (t, _) => here ++ t.touched type commits rs
    | none => here

/-- Every access goes through a leaf that names memory of this module: no peer window, no control window. -/
def State.Plain (s : State) (type : Nat) (commits : Bool) : List LaneReq → Prop
  | [] => True
  | r :: rs =>
    (∃ l, s.leafFor (s.laneActor type r.lane) (r.via.map (fun e => e.leaf)) r.va = some l ∧ l.peer = false ∧ l.mt = 0) ∧
    match s.accessOne type commits r with
    | some (t, _) => t.Plain type commits rs
    | none => True

end Sys2Proof.Machine
end

