-- ==== Sys2Proof/Certificates/Slice0/Obligations.lean ====
section
/-! DEFINITION. The statements for the provers. -/

open Sys2Proof Sys2Proof.Machine

/-! ### Scalar words. -/

/-- R110: SADD, SSUB, SMUL, SMULH and the shifts, in format R, at every operand and modifier. The sums are exact integers,
clamped under SAT; a 32-bit form reads the low halves and extends its 32-bit result. A shift by the width or more gives 0,
or all sign bits. -/
def Obligations.ScalarArithmeticResults : Prop :=
  ∀ (o : OpR) (s : State),
    let x := s.S o.a
    let y := s.S o.b
    let lo (a : Word64) : BitVec 32 := a.setWidth 32
    let clamp (lim e : Int) : Int := if o.sat then min (max e (-lim)) (lim - 1) else e
    let sum (e64 e32 : Int) : Word64 :=
      if o.m then (BitVec.ofInt 32 (clamp (2 ^ 31) e32)).signExtend 64 else BitVec.ofInt 64 (clamp (2 ^ 63) e64)
    exec (.saddR o) s = .next (s.writesS 2 o.d (sum (x.toInt + y.toInt) ((lo x).toInt + (lo y).toInt))) ∧
    exec (.ssubR o) s = .next (s.writesS 2 o.d (sum (x.toInt - y.toInt) ((lo x).toInt - (lo y).toInt))) ∧
    exec (.smulR o) s = .next (s.writesS 4 o.d (if o.m then (lo x * lo y).signExtend 64 else x * y)) ∧
    exec (.smulh o) s = .next (s.writesS 4 o.d
      (if o.m then BitVec.ofNat 64 (x.toNat * y.toNat / 2 ^ 64) else BitVec.ofInt 64 (x.toInt * y.toInt / 2 ^ 64))) ∧
    exec (.sshlR o) s = .next (s.writesS 2 o.d (if o.m then (lo x <<< y.toNat).signExtend 64 else x <<< y.toNat)) ∧
    exec (.sshrR o) s = .next (s.writesS 2 o.d (if o.m then (lo x >>> y.toNat).signExtend 64 else x >>> y.toNat)) ∧
    exec (.ssraR o) s = .next (s.writesS 2 o.d
      (if o.m then ((lo x).sshiftRight y.toNat).signExtend 64 else x.sshiftRight y.toNat))

/-- R111: SDIV rounds toward zero and SREM leaves the rest; a zero divisor gives all ones and the dividend, and the one signed
overflow wraps; nothing is raised. Both are interlocked and occupy their pipe for 8 cycles. -/
def Obligations.ScalarDivisionResults : Prop :=
  ∀ (o : OpR) (s : State),
    let x := s.S o.a
    let y := s.S o.b
    exec (.sdiv o) s = .next (s.writesS 0 o.d
      (if y = 0 then BitVec.allOnes 64 else if o.m then x / y else x.sdiv y)) ∧
    exec (.srem o) s = .next (s.writesS 0 o.d
      (if y = 0 then x else if o.m then x % y else x.srem y)) ∧
    (o.m = false → y ≠ 0 → x = x.sdiv y * y + x.srem y) ∧
    (o.m = false → x = BitVec.intMin 64 → y = BitVec.allOnes 64 → x.sdiv y = x ∧ x.srem y = 0) ∧
    s.timing (.sdiv o) = (0, 8) ∧ s.timing (.srem o) = (0, 8)

/-- R112: SCMP, SMIN, SMAX and SSEL in format R. SCMP writes −1, 0 or +1; all but SSEL read their operands as i64, or as n64
with m = 1; SSEL selects by the old value of its destination: non-zero, or with m = 1 its bit 63; that register is a source and the destination of it for the timing rules. R109 and R113: SAND, SOR,
SXOR and the one-source words. SPOPC counts the set bits of the whole register or, with m = 1, of its low half; SCLZ leaves
the number n of zero bits above the highest set bit; SBREV reverses the bits. -/
def Obligations.ScalarComparisonBitResults : Prop :=
  (∀ (o : OpR) (s : State),
     let x := s.S o.a
     let y := s.S o.b
     let less := if o.m then x.ult y else x.slt y
     exec (.scmpR o) s = .next (s.writesS 2 o.d (if less then BitVec.allOnes 64 else if x = y then 0 else 1)) ∧
     exec (.sminR o) s = .next (s.writesS 2 o.d (if less then x else y)) ∧
     exec (.smaxR o) s = .next (s.writesS 2 o.d (if less then y else x)) ∧
     exec (.ssel o) s = .next (s.writesS 2 o.d
       (if (if o.m then (s.S o.d).msb else s.S o.d != 0) then x else y)) ∧
     (File.s, o.d.toNat) ∈ (s.uses (.ssel o)).reads ∧ (File.s, o.d.toNat) ∈ (s.uses (.ssel o)).writes) ∧
  (∀ (o : OpR) (s : State),
     let x := s.S o.a
     let y := s.S o.b
     let w := if o.m then 32 else 64
     exec (.sandR o) s = .next (s.writesS 2 o.d (x &&& y)) ∧
     exec (.sorR o) s = .next (s.writesS 2 o.d (x ||| y)) ∧
     exec (.sxorR o) s = .next (s.writesS 2 o.d (x ^^^ y)) ∧
     exec (.smov o) s = .next (s.writesS 2 o.d x) ∧
     exec (.spopc o) s = .next (s.writesS 2 o.d (BitVec.ofNat 64 ((List.range w).countP (fun i => x.getLsbD i)))) ∧
     (∃ n : Nat, exec (.sclz o) s = .next (s.writesS 2 o.d (BitVec.ofNat 64 n)) ∧ n ≤ w ∧
       (∀ j, j < n → x.getLsbD (w - 1 - j) = false) ∧ (n < w → x.getLsbD (w - 1 - n) = true)) ∧
     (∃ v : Word64, exec (.sbrev o) s = .next (s.writesS 2 o.d v) ∧
       ∀ i, i < 64 → v.getLsbD i = (decide (i < w) && x.getLsbD (w - 1 - i))))

/-- R115: the scalar words with an immediate. The immediate is signed but for the shifts, whose amount is natural; a comparison,
minimum or maximum reads i64. R114, R116, R117 and R118: SLEA in both formats, SLI and NOP. A constant of SLI is the
immediate with the payloads of its EXT words before it, sign-extended; SLEA in format I forms the address of a packet
relative to its own packet. -/
def Obligations.ScalarImmediateAddressResults : Prop :=
  (∀ (o : OpI) (s : State),
     let x := s.S o.a
     let k : Word64 := BitVec.ofInt 64 o.immI
     exec (.saddI o) s = .next (s.writesS 2 o.d (x + k)) ∧
     exec (.smulI o) s = .next (s.writesS 4 o.d (x * k)) ∧
     exec (.sandI o) s = .next (s.writesS 2 o.d (x &&& k)) ∧
     exec (.sorI o) s = .next (s.writesS 2 o.d (x ||| k)) ∧
     exec (.sxorI o) s = .next (s.writesS 2 o.d (x ^^^ k)) ∧
     exec (.sshlI o) s = .next (s.writesS 2 o.d (x <<< o.immN)) ∧
     exec (.sshrI o) s = .next (s.writesS 2 o.d (x >>> o.immN)) ∧
     exec (.ssraI o) s = .next (s.writesS 2 o.d (x.sshiftRight o.immN)) ∧
     exec (.scmpI o) s = .next (s.writesS 2 o.d (if x.slt k then BitVec.allOnes 64 else if x = k then 0 else 1)) ∧
     exec (.sminI o) s = .next (s.writesS 2 o.d (if x.slt k then x else k)) ∧
     exec (.smaxI o) s = .next (s.writesS 2 o.d (if x.slt k then k else x))) ∧
  (∀ (o : OpR) (i : OpI) (l : OpL) (z : OpZ) (s : State) (p q : BitVec 24),
     let y := s.S o.b
     exec (.sleaR o) s = .next (s.writesS 2 o.d
       (s.S o.a + ((if o.m then (y.setWidth 32).signExtend 64 else y) <<< (o.xm.extractLsb' 0 3).toNat))) ∧
     exec (.sleaI i) s = .next (s.writesS 2 i.d (s.f.pc + 12 * (BitVec.ofInt 64 i.immI + s.S i.a))) ∧
     (l.ext = [] → exec (.sli l) s = .next (s.writesS 2 l.d (l.imm.signExtend 64))) ∧
     (l.ext = [p] → exec (.sli l) s = .next (s.writesS 2 l.d ((p ++ l.imm).signExtend 64))) ∧
     (l.ext = [p, q] → exec (.sli l) s = .next (s.writesS 2 l.d ((p ++ q ++ l.imm).signExtend 64))) ∧
     exec (.nop z) s = .next s.ended)

/-- R127 to R129: MFS of each special register, and MTS of TRAPPC and TRAPDATA. LANEID writes the active lanes of a vector
register; every other register reads into a scalar register; CLOCK alone is interlocked. -/
def Obligations.SpecialRegisterResults : Prop :=
  (∀ (o : OpL) (s : State),
    (o.immN = 0x000 → exec (.mfs o) s =
      .next (s.writes 2 ((lanesOf s.active).map (fun i => .v o.d.toNat i ⟨BitVec.ofNat 32 i, .n32⟩)))) ∧
    (o.immN = 0x001 → exec (.mfs o) s = .next (s.writesS 2 o.d (BitVec.ofNat 64 s.w.warpId))) ∧
    (o.immN = 0x002 → exec (.mfs o) s = .next (s.writesS 2 o.d (BitVec.ofNat 64 s.g.wgx))) ∧
    (o.immN = 0x003 → exec (.mfs o) s = .next (s.writesS 2 o.d (BitVec.ofNat 64 s.g.wgy))) ∧
    (o.immN = 0x004 → exec (.mfs o) s = .next (s.writesS 2 o.d (BitVec.ofNat 64 s.g.wgz))) ∧
    (o.immN = 0x005 → exec (.mfs o) s = .next (s.writesS 2 o.d (BitVec.ofNat 64 s.g.rank))) ∧
    (o.immN = 0x006 → exec (.mfs o) s = .next (s.writesS 2 o.d (BitVec.ofNat 64 s.focus.core))) ∧
    (o.immN = 0x007 → exec (.mfs o) s = .next (s.writesS 2 o.d (BitVec.ofNat 64 s.die))) ∧
    (o.immN = 0x008 → exec (.mfs o) s =
      .next (s.writesS 2 o.d (BitVec.ofNat 64 (s.t.gridX * s.t.gridY * s.t.gridZ)))) ∧
    (o.immN = 0x009 → exec (.mfs o) s = .next (s.writesS 2 o.d s.t.argBase)) ∧
    (o.immN = 0x00A → exec (.mfs o) s = .next (s.writesS 2 o.d s.t.seq)) ∧
    (o.immN = 0x00B → exec (.mfs o) s = .next (s.writesS 0 o.d (BitVec.ofNat 64 (s.clock s.die)))) ∧
    (o.immN = 0x00C → exec (.mfs o) s = .next (s.writesS 2 o.d (s.active.setWidth 64))) ∧
    (o.immN = 0x00D → exec (.mfs o) s = .next (s.writesS 2 o.d
      (if s.t.desc.frame = 0 then 0 else BitVec.ofNat 64 (s.t.desc.frame + 4096 * s.g.linear)))) ∧
    (o.immN = 0x00E → exec (.mfs o) s = .next (s.writesS 2 o.d (BitVec.ofNat 64 s.t.desc.warps))) ∧
    (o.immN = 0x010 → exec (.mfs o) s = .next (s.writesS 2 o.d (s.view.trapCause.setWidth 64))) ∧
    (o.immN = 0x011 → exec (.mfs o) s = .next (s.writesS 2 o.d s.view.trapPc)) ∧
    (o.immN = 0x012 → exec (.mfs o) s = .next (s.writesS 2 o.d s.view.trapData)) ∧
    (o.immN = 0x011 ∨ o.immN = 0x012 → exec (.mts o) s = .next (s.writes 0 [.spr o.immN (s.S o.d)]))) ∧
  (∀ (w : Warp) (x : Word64),
    w.apply (.spr 0x011 x) = { w with trapPc := x } ∧ w.apply (.spr 0x012 x) = { w with trapData := x })

/-- R176: the mask instructions. A source k0 is the active mask of the fragment (`State.K`). -/
def Obligations.MaskResults : Prop :=
  ∀ (o : OpR) (l : OpL) (s : State),
    let ka := s.K o.a.toNat
    let kb := s.K o.b.toNat
    let sets (d : BitVec 6) (x : BitVec 32) : State := s.writes 2 [.k d.toNat (BitVec.allOnes 32) x]
    s.K 0 = s.active ∧
    exec (.kand o) s = .next (sets o.d (if o.m then ka &&& ~~~kb else ka &&& kb)) ∧
    exec (.kor o) s = .next (sets o.d (ka ||| kb)) ∧
    exec (.kxor o) s = .next (sets o.d (ka ^^^ kb)) ∧
    exec (.knot o) s = .next (sets o.d (~~~ka)) ∧
    exec (.kpopc o) s = .next (s.writesS 2 o.d (BitVec.ofNat 64
      ((List.range 32).countP (fun i => ka.getLsbD i && (!o.m || s.active.getLsbD i))))) ∧
    (o.b = 0 → exec (.kmovR o) s = .next (sets o.d ka)) ∧
    (o.b = 1 → exec (.kmovR o) s = .next (sets o.d ((s.S o.a).setWidth 32))) ∧
    (o.b = 2 → exec (.kmovR o) s = .next (s.writesS 2 o.d (ka.setWidth 64))) ∧
    exec (.kmovL l) s = .next (sets l.d (BitVec.ofNat 32 l.immN))

/-! ### Vector words. In these statements `s.src o.u i` is the lane that lane i reads: itself, or with the uniform bit the
lowest active lane (R101). -/

/-- R159 and R160: VADD, VSUB, VMUL and VFMA. Each element is the exact sum or product rounded once. -/
def Obligations.VectorSumResults : Prop :=
  ∀ (o : OpR) (s : State) (t : Tag),
    let a := o.a.toNat
    let b := o.b.toNat
    let c := if o.cv then o.creg.toNat else o.d.toNat
    let f := t.format
    let at_ (r i : Nat) := s.elemsAt r t (s.src o.u i)
    let round (xs : List FVal) := f.round (FVal.sum xs (Rm.ofBits o.rm)) (Rm.ofBits o.rm) o.sat
    let gives (e : Nat → List Nat) : State := s.writes (if t = .f64l then 8 else 6) (s.lanes o.d.toNat t e)
    s.Dest t o.d.toNat → s.Sources o.u t [a, b] →
    (t ∈ [Tag.f32, .f64l, .bf16x2, .h16x2, .cpx32] →
      exec (.vadd o) s = .next (gives (fun i => List.zipWith (fun x y => round [f.val x, f.val y]) (at_ a i) (at_ b i))) ∧
      exec (.vsub o) s =
        .next (gives (fun i => List.zipWith (fun x y => round [f.val x, (f.val y).neg]) (at_ a i) (at_ b i)))) ∧
    (t ∈ [Tag.f32, .f64l, .bf16x2, .h16x2] →
      exec (.vmul o) s = .next (gives (fun i => List.zipWith
        (fun x y => f.round ((f.val x).mul (f.val y)) (Rm.ofBits o.rm) o.sat) (at_ a i) (at_ b i))) ∧
      (s.Sources o.u t [a, b, c] →
        exec (.vfma o) s = .next (gives (fun i => List.zipWith
          (fun xy z => let p := (f.val xy.1).mul (f.val xy.2)
            round [if o.m then p.neg else p, f.val z])
          (List.zip (at_ a i) (at_ b i)) (at_ c i)))))

/-- R159 and R161: VMIN and VMAX take one of their operands' encodings, VNEG inverts and VABS clears the sign bit of every
element. -/
def Obligations.VectorSignResults : Prop :=
  (∀ (o : OpR) (s : State) (t : Tag),
    let a := o.a.toNat
    let b := o.b.toNat
    let f := t.format
    let at_ (r i : Nat) := s.elemsAt r t (s.src o.u i)
    let gives (e : Nat → List Nat) : State := s.writes (if t = .f64l then 8 else 6) (s.lanes o.d.toNat t e)
    s.Dest t o.d.toNat →
    (t ∈ [Tag.f32, .f64l, .bf16x2, .h16x2] → s.Sources o.u t [a, b] →
      exec (.vmin o) s = .next (gives (fun i => List.zipWith (f.minMax false) (at_ a i) (at_ b i))) ∧
      exec (.vmax o) s = .next (gives (fun i => List.zipWith (f.minMax true) (at_ a i) (at_ b i)))) ∧
    (t ∈ [Tag.f32, .f64l, .bf16x2, .h16x2, .e4m3x4, .cpx32] → s.Sources o.u t [a] →
      exec (.vneg o) s = .next (gives (fun i => (at_ a i).map (fun x => x ^^^ 2 ^ (f.width - 1)))) ∧
      exec (.vabs o) s = .next (gives (fun i => (at_ a i).map (fun x => x % 2 ^ (f.width - 1)))))) ∧
  (∀ (f : Fmt) (x y : Nat),
    let a := f.val x
    let b := f.val y
    (a.isNan = true → b.isNan = true → f.minMax false x y = f.nan ∧ f.minMax true x y = f.nan) ∧
    (a.isNan = true → b.isNan = false → f.minMax false x y = y ∧ f.minMax true x y = y) ∧
    (a.isNan = false → b.isNan = true → f.minMax false x y = x ∧ f.minMax true x y = x) ∧
    (a.isNan = false → b.isNan = false →
      (FVal.cmp a b < 0 → f.minMax false x y = x ∧ f.minMax true x y = y) ∧
      (0 < FVal.cmp a b → f.minMax false x y = y ∧ f.minMax true x y = x) ∧
      (FVal.cmp a b = 0 → a.isNeg = true → b.isNeg = false → f.minMax false x y = x ∧ f.minMax true x y = y) ∧
      (FVal.cmp a b = 0 → a.isNeg = false → b.isNeg = true → f.minMax false x y = y ∧ f.minMax true x y = x)))

/-- R159 and R162: VDIV and the one-source functions, each the exact value rounded once. -/
def Obligations.VectorFunctionResults : Prop :=
  ∀ (o : OpR) (s : State) (t : Tag),
    let a := o.a.toNat
    let b := o.b.toNat
    let f := t.format
    let rm := Rm.ofBits o.rm
    let at_ (r i : Nat) := s.elemsAt r t (s.src o.u i)
    let gives (lat : Nat) (e : Nat → List Nat) : State :=
      s.writes (if t = .f64l then 0 else lat) (s.lanes o.d.toNat t e)
    let one (lat : Nat) (g : FVal → FVal) : State :=
      gives lat (fun i => (at_ a i).map (fun x => f.round (g (f.val x)) rm o.sat))
    t ∈ [Tag.f32, .f64l, .bf16x2, .h16x2] → s.Dest t o.d.toNat →
    (s.Sources o.u t [a, b] → exec (.vdiv o) s = .next (gives 16 (fun i =>
      List.zipWith (fun x y => f.round ((f.val x).div (f.val y)) rm o.sat) (at_ a i) (at_ b i)))) ∧
    (s.Sources o.u t [a] →
      exec (.vsqrt o) s = .next (one 16 FVal.sqrt) ∧
      exec (.vrcp o) s = .next (one 12 (fun x => (FVal.fin false 1 0).div x)) ∧
      exec (.vrsq o) s = .next (one 12 FVal.rsqrt) ∧
      exec (.vexp2 o) s = .next (gives 12 (fun i => (at_ a i).map (fun x => f.exp2 (f.val x) rm o.sat))) ∧
      exec (.vlog2 o) s = .next (gives 12 (fun i => (at_ a i).map (fun x => f.log2 (f.val x) rm o.sat))))

/-- R163 to R166: the words that write complex pairs, a real part tagged CPX32 and an imaginary part tagged F32, each
component rounded once from its exact sum. -/
def Obligations.VectorComplexResults : Prop :=
  ∀ (o : OpR) (s : State),
    let a := o.a.toNat
    let b := o.b.toNat
    let d := o.d.toNat
    let c := if o.cv then o.creg.toNat else d
    let rm := Rm.ofBits o.rm
    let re (r i : Nat) : FVal := Fmt.f32.val (s.V r (s.src o.u i)).val.toNat
    let im (r i : Nat) : FVal := re (r + 1) i
    let conj (x : FVal) : FVal := if o.m then x.neg else x
    let round (xs : List FVal) : Nat := Fmt.f32.round (FVal.sum xs rm) rm o.sat
    s.active ≠ 0 →
    (s.Sources o.u .f32 [a] → exec (.vscpi o) s = .next (s.writes 12 (s.lanes d .cpx32 (fun i =>
      [Fmt.f32.cospi (re a i) rm, Fmt.f32.sinpi (re a i) rm])))) ∧
    (s.Sources o.u .cpx32 [a, b] → exec (.vcmul o) s = .next (s.writes 8 (s.lanes d .cpx32 (fun i =>
      [round [(re a i).mul (re b i), ((im a i).mul (conj (im b i))).neg],
       round [(re a i).mul (conj (im b i)), (im a i).mul (re b i)]])))) ∧
    (s.Sources o.u .cpx32 [a, b, c] → exec (.vcfma o) s = .next (s.writes 8 (s.lanes d .cpx32 (fun i =>
      [round [(re a i).mul (re b i), ((im a i).mul (conj (im b i))).neg, re c i],
       round [(re a i).mul (conj (im b i)), (im a i).mul (re b i), im c i]])))) ∧
    (s.Sources o.u .cpx32 ([a, b] ++ if o.cv then [o.creg.toNat] else []) →
      let wr (i : Nat) : FVal := if o.cv then re o.creg.toNat i else .fin false 1 0
      let wi (i : Nat) : FVal := conj (if o.cv then im o.creg.toNat i else .fin false 0 0)
      exec (.vbfly o) s = .next (s.writes 8 ((lanesOf s.active).flatMap (fun i =>
        let pr := [(wr i).mul (re b i), ((wi i).mul (im b i)).neg]
        let pi := [(wr i).mul (im b i), (wi i).mul (re b i)]
        laneWrites d .cpx32 i [round (re a i :: pr), round (im a i :: pi)] ++
        laneWrites (d + 2) .cpx32 i [round (re a i :: pr.map FVal.neg), round (im a i :: pi.map FVal.neg)])))) ∧
    (∀ t ∈ [Tag.i32, .n32], s.Sources o.u t [a] → exec (.vtwid o) s = .next (s.writes 12 (s.lanes d .cpx32 (fun i =>
      let w := twiddle ((s.V a (s.src o.u i)).val.toNat % 2 ^ o.b.toNat) o.b.toNat o.m rm
      [w.1, w.2]))))

/-- R141, R167 and R168: VCVT in both forms and VQNT. A packed target takes an element from each source and, with `.hi`, keeps
the two low elements of the old destination. The latencies are those of R96; that VCVT takes the 8 cycles of a wide word where its
source or its target is F64L is the model's choice (log 21). -/
def Obligations.VectorConversionResults : Prop :=
  (∀ (o : OpR) (i : OpI) (s : State) (t : Tag),
    t ∈ [Tag.i32, .n32, .f32, .f64l, .bf16x2, .h16x2, .e4m3x4, .i16x2, .i8x4] →
    (let dst := Tag.ofCode o.sub.toNat
     let sel := o.xm.toNat % 4
     let nat := o.xm.getLsbD 2
     let regs := o.a.toNat :: if dst.packed then [o.b.toNat] else []
     let elem (r j : Nat) := convertElem dst nat (Rm.ofBits o.rm) o.sat (sourceElem t nat ((s.elemsAt r t j).getD sel 0))
     s.Sources o.u t regs → sel < t.count → (t.packed && dst.packed) = false →
     (o.m = true → dst ∈ [Tag.e4m3x4, .i8x4] ∧ s.Sources o.u dst [o.d.toNat]) →
     exec (.vcvtR o) s = .next (s.writes (if t = .f64l ∨ dst = .f64l then 8 else 6) (s.lanes o.d.toNat dst (fun l =>
       let j := s.src o.u l
       let es := (if o.m then (s.elemsAt o.d.toNat dst j).take 2 else []) ++ regs.map (fun r => elem r j)
       es ++ List.replicate (if dst.packed then dst.count - es.length else 0) 0)))) ∧
    (let n := i.imm.toNat
     let dst := Tag.ofCode (n % 16)
     let sel := n / 16 % 4
     let nat := i.imm.getLsbD 6
     s.Sources i.u t [i.a.toNat] → sel < t.count → (t.packed && dst.packed) = false →
     exec (.vcvtI i) s = .next (s.writes (if t = .f64l ∨ dst = .f64l then 8 else 6) (s.lanes i.d.toNat dst (fun l =>
       convertElem dst nat .rn false (sourceElem t nat ((s.elemsAt i.a.toNat t (s.src i.u l)).getD sel 0)) ::
         List.replicate (if dst.packed then dst.count - 1 else 0) 0))))) ∧
  (∀ (o : OpR) (s : State),
    let at_ (i j : Nat) : Nat := (s.V (o.a.toNat + j) i).val.toNat
    s.active = BitVec.allOnes 32 → (∀ j, j < 4 → s.Tagged .f32 (o.a.toNat + j)) →
    ∃ scale : Nat,
      exec (.vqnt o) s = .next (s.writes 14 ((List.range 32).flatMap (fun i =>
        [.v o.d.toNat i ⟨BitVec.ofNat 32 (pack 8 ((List.range 4).map (fun j =>
          Fmt.e4m3.round ((Fmt.f32.val (at_ i j)).div (Fmt.f32.val scale)) (Rm.ofBits o.rm) false))), .e4m3x4⟩,
         .v (o.d.toNat + 1) i ⟨BitVec.ofNat 32 scale, .f32⟩]))) ∧
      ((∀ i j, i < 32 → j < 4 → at_ i j % 2 ^ 31 = 0 ∨ 0x7F800000 ≤ at_ i j % 2 ^ 31) → scale = 0x3F800000) ∧
      (∀ m, (∃ i j, i < 32 ∧ j < 4 ∧ at_ i j % 2 ^ 31 = m) → 0 < m → m < 0x7F800000 →
        (∀ i j, i < 32 → j < 4 → at_ i j % 2 ^ 31 ≤ m ∨ 0x7F800000 ≤ at_ i j % 2 ^ 31) →
        (o.m = false → scale = Fmt.f32.round ((Fmt.f32.val m).div (.fin false 448 0)) .ru false) ∧
        (o.m = true → ∃ e : Int, scale = Fmt.f32.round (.fin false 1 e) .rn false ∧ -149 ≤ e ∧
          FVal.cmp (Fmt.f32.val m) (.fin false 448 e) ≤ 0 ∧
          (-149 < e → 0 < FVal.cmp (Fmt.f32.val m) (.fin false 448 (e - 1))))))

/-- R169 and R170: integer arithmetic on the elements of a lane, exact and then kept modulo 2^w or, with SAT, clamped.
Packed elements are natural under `.n`; an immediate is taken modulo 2^w and read as the element type. -/
def Obligations.VectorIntegerResults : Prop :=
  ∀ (o : OpR) (k : OpI) (s : State) (t : Tag),
    let a := o.a.toNat
    let b := o.b.toNat
    let c := if o.cv then o.creg.toNat else o.d.toNat
    let w := t.width
    t ∈ [Tag.i32, .n32, .i16x2, .i8x4] →
    (let signed := decide (t = .i32) || (decide (t ≠ .n32) && !o.m)
     let rd (x : Nat) : Int := if signed then signedOf w x else x
     let clamp (x : Int) : Int :=
       if signed then max (-(2 ^ (w - 1))) (min x (2 ^ (w - 1) - 1)) else max 0 (min x (2 ^ w - 1))
     let st (sat : Bool) (x : Int) : Nat := ((if sat then clamp x else x) % 2 ^ w).toNat
     let at_ (r i : Nat) := s.elemsAt r t (s.src o.u i)
     let two (lat : Nat) (sat : Bool) (g : Int → Int → Int) : State := s.writes lat (s.lanes o.d.toNat t (fun i =>
       List.zipWith (fun x y => st sat (g (rd x) (rd y))) (at_ a i) (at_ b i)))
     (o.m = true → t.packed = true) → s.Sources o.u t [a, b] →
     exec (.viaddR o) s = .next (two 4 o.sat (· + ·)) ∧
     exec (.visub o) s = .next (two 4 o.sat (· - ·)) ∧
     exec (.vimulR o) s = .next (two 6 o.sat (· * ·)) ∧
     exec (.vimulh o) s = .next (two 6 false (fun x y => x * y / 2 ^ w)) ∧
     exec (.viminR o) s = .next (two 4 false min) ∧
     exec (.vimaxR o) s = .next (two 4 false max) ∧
     (s.Sources o.u t [a, b, c] → exec (.vifma o) s = .next (s.writes 6 (s.lanes o.d.toNat t (fun i =>
       List.zipWith (fun xy z => st o.sat (rd xy.1 * rd xy.2 + rd z)) (List.zip (at_ a i) (at_ b i)) (at_ c i)))))) ∧
    (let rd (x : Nat) : Int := if t = .n32 then x else signedOf w x
     let v : Int := rd (k.immI % 2 ^ w).toNat
     let one (lat : Nat) (g : Int → Int → Int) : State := s.writes lat (s.lanes k.d.toNat t (fun i =>
       (s.elemsAt k.a.toNat t (s.src k.u i)).map (fun x => (g (rd x) v % 2 ^ w).toNat)))
     s.Sources k.u t [k.a.toNat] →
     exec (.viaddI k) s = .next (one 4 (· + ·)) ∧
     exec (.vimulI k) s = .next (one 6 (· * ·)) ∧
     exec (.viminI k) s = .next (one 4 min) ∧
     exec (.vimaxI k) s = .next (one 4 max))

/-- R170 to R173 and R180: bitwise words, shifts, counts and VTAG. Where the tags of a bitwise word differ, the one that is
not X32 is the result's; a count of 32-bit elements is tagged N32; VTAG changes the tag alone. -/
def Obligations.VectorBitResults : Prop :=
  ∀ (o : OpR) (k : OpI) (s : State) (t t' : Tag),
    let a := o.a.toNat
    let b := o.b.toNat
    let w := t.width
    let val (r i : Nat) : Word32 := (s.V r (s.src o.u i)).val
    let valI (i : Nat) : Word32 := (s.V k.a.toNat (s.src k.u i)).val
    let sets (d : Nat) (tag : Tag) (f : Nat → Word32) : State :=
      s.writes 4 ((lanesOf s.active).map (fun i => .v d i ⟨f i, tag⟩))
    s.active ≠ 0 →
    (s.Holds t a → s.Holds t' b → t = t' ∨ t = .x32 ∨ t' = .x32 → s.Uniform o.u [a, b] →
      let r := if t = .x32 then t' else t
      exec (.vandR o) s = .next (sets o.d.toNat r (fun i => val a i &&& val b i)) ∧
      exec (.vorR o) s = .next (sets o.d.toNat r (fun i => val a i ||| val b i)) ∧
      exec (.vxorR o) s = .next (sets o.d.toNat r (fun i => val a i ^^^ val b i))) ∧
    (s.Holds t k.a.toNat → s.Uniform k.u [k.a.toNat] →
      let imm : Word32 := BitVec.ofInt 32 k.immI
      exec (.vandI k) s = .next (sets k.d.toNat t (fun i => valI i &&& imm)) ∧
      exec (.vorI k) s = .next (sets k.d.toNat t (fun i => valI i ||| imm)) ∧
      exec (.vxorI k) s = .next (sets k.d.toNat t (fun i => valI i ^^^ imm))) ∧
    (t ∈ [Tag.x32, .i32, .n32, .i16x2, .i8x4] →
      (let at_ (r i : Nat) := s.elemsAt r t (s.src o.u i)
       let two (f : Nat → Nat → Nat) : State := s.writes 4 (s.lanes o.d.toNat t (fun i =>
         List.zipWith f (at_ a i) (at_ b i)))
       s.Holds t a → s.Holds t' b → (if t.packed then t' = t else t' ∈ [Tag.x32, .i32, .n32]) → s.Uniform o.u [a, b] →
       exec (.vshlR o) s = .next (two (fun x n => x * 2 ^ n % 2 ^ w)) ∧
       exec (.vshrR o) s = .next (two (fun x n => x / 2 ^ n)) ∧
       exec (.vsraR o) s = .next (two (fun x n => (signedOf w x / 2 ^ n % 2 ^ w).toNat))) ∧
      (let one (f : Nat → Nat) : State := s.writes 4 (s.lanes k.d.toNat t (fun i =>
         (s.elemsAt k.a.toNat t (s.src k.u i)).map f))
       s.Sources k.u t [k.a.toNat] →
       exec (.vshlI k) s = .next (one (fun x => x * 2 ^ k.immN % 2 ^ w)) ∧
       exec (.vshrI k) s = .next (one (fun x => x / 2 ^ k.immN)) ∧
       exec (.vsraI k) s = .next (one (fun x => (signedOf w x / 2 ^ k.immN % 2 ^ w).toNat))) ∧
      (let counts (f : Nat → Nat) : State := s.writes 4 (s.lanes o.d.toNat (if t.packed then t else .n32) (fun i =>
         (s.elemsAt a t (s.src o.u i)).map f))
       s.Sources o.u t [a] →
       exec (.vpopc o) s = .next (counts (fun x => (List.range w).countP (fun i => x.testBit i))) ∧
       ∃ z : Nat → Nat, exec (.vclz o) s = .next (counts z) ∧
         ∀ x, x < 2 ^ w → z x ≤ w ∧ x < 2 ^ (w - z x) ∧ (x = 0 → z x = w) ∧ (0 < x → 2 ^ (w - z x) ≤ 2 * x))) ∧
    (s.Uniform o.u [a] → (s.S o.b).toNat < 12 ∨ (s.S o.b).toNat = 15 →
      exec (.vtagR o) s = .next (sets o.d.toNat (Tag.ofCode (s.S o.b).toNat) (fun i => val a i))) ∧
    (s.Uniform k.u [k.a.toNat] →
      exec (.vtagI k) s = .next (sets k.d.toNat (Tag.ofCode (k.imm.toNat % 16)) (fun i => valI i)))

/-- R174, R175 and R177 to R179: comparison into a mask register, selection, moves, broadcasts and the read of one lane. -/
def Obligations.VectorMoveResults : Prop :=
  ∀ (o : OpR) (k : OpI) (l : OpL) (s : State) (t : Tag),
    let a := o.a.toNat
    let b := o.b.toNat
    let pair (r : Nat) : List Nat := if o.m then [r, r + 1] else [r]
    let copies (lat : Nat) (f : Nat → Nat → Lane) : State :=
      s.writes lat ((pair 0).flatMap (fun n => (lanesOf s.active).map (fun i => .v (o.d.toNat + n) i (f n i))))
    let sets (lat d : Nat) (x : Lane) : State := s.writes lat ((lanesOf s.active).map (fun i => .v d i x))
    let holds (c : Nat) (x y : FVal) : Bool :=
      let un := x.isNan || y.isNan
      let n := FVal.cmp x y
      match c with
      | 0 => !un && n == 0
      | 1 => un || n != 0
      | 2 => !un && decide (n < 0)
      | 3 => !un && decide (n ≤ 0)
      | 4 => !un && decide (0 < n)
      | 5 => !un && decide (0 ≤ n)
      | 6 => un
      | _ => !un
    s.active ≠ 0 →
    (t ∈ [Tag.f32, .f64l, .i32, .n32] →
      (s.Sources o.u t [a, b] → ∃ m, exec (.vcmpR o) s = .next (s.writes 4 [.k (o.d.toNat % 8) (BitVec.allOnes 32) m]) ∧
        ∀ i, i < 32 → m.getLsbD i = (s.active.getLsbD i &&
          holds (o.d.toNat / 8) (s.valueAt a t (s.src o.u i)) (s.valueAt b t (s.src o.u i)))) ∧
      (s.Sources k.u t [k.a.toNat] →
        ∃ m, exec (.vcmpI k) s = .next (s.writes 4 [.k (k.d.toNat % 8) (BitVec.allOnes 32) m]) ∧
        ∀ i, i < 32 → m.getLsbD i = (s.active.getLsbD i &&
          holds (k.d.toNat / 8) (s.valueAt k.a.toNat t (s.src k.u i)) (FVal.ofInt k.immI)))) ∧
    (s.Holds t a → s.Holds t b → (o.m = true → s.Tagged t a ∧ s.Tagged t b) → s.Uniform o.u (pair a ++ pair b) →
      exec (.vsel o) s = .next (copies 4 (fun n i =>
        if (s.K (o.xm.toNat % 8)).getLsbD (s.src o.u i) then s.V (a + n) (s.src o.u i) else s.V (b + n) (s.src o.u i)))) ∧
    (s.Uniform o.u (pair a) → exec (.vmovR o) s = .next (copies 4 (fun n i => s.V (a + n) (s.src o.u i)))) ∧
    (l.ext = [] → exec (.vmovL l) s = .next (sets 4 l.d.toNat ⟨l.imm.signExtend 32, .i32⟩)) ∧
    (∀ p, l.ext = [p] → exec (.vmovL l) s =
      .next (sets 4 l.d.toNat ⟨(p ++ l.imm).extractLsb' 0 32, Tag.ofCode ((p ++ l.imm).extractLsb' 32 4).toNat⟩)) ∧
    (∀ p q, l.ext = [p, q] → exec (.vmovL l) s = .next (sets 4 l.d.toNat
      ⟨(p ++ q ++ l.imm).extractLsb' 0 32, Tag.ofCode ((p ++ q ++ l.imm).extractLsb' 32 4).toNat⟩)) ∧
    (o.m = false → exec (.vbcastR o) s = .next (sets 6 o.d.toNat ⟨(s.S o.a).setWidth 32, Tag.ofCode (o.b.toNat % 16)⟩)) ∧
    (o.m = true → exec (.vbcastR o) s = .next (copies 6 (fun n _ =>
      if n = 0 then ⟨(s.S o.a).extractLsb' 0 32, .f64l⟩ else ⟨(s.S o.a).extractLsb' 32 32, .f64h⟩))) ∧
    exec (.vbcastI k) s = .next (sets 6 k.d.toNat (s.V k.a.toNat k.immN)) ∧
    (∀ n, (s.S o.b).toNat = n → n < 32 → (s.V a n).tag ≠ .empty → exec (.vlane o) s = .next (s.writesS 6 o.d
      (if o.m then (s.V a n).val.signExtend 64 else (s.V a n).val.setWidth 64)))

/-- R149 and R181 to R185: lane movement and lane combining. Each word answers the next state given, in which it has ended, under
the conditions of its rule on the state and the operands alone. A scan gives each active lane the fold of the lanes up to it in
ascending order, a reduction gives every active lane the fold of all; `.n` on a tag that is not of packed integers traps. -/
def Obligations.VectorLaneResults : Prop :=
  ∀ (o : OpR) (k : OpI) (s : State) (t : Tag),
    let a := o.a.toNat
    let b := o.b.toNat
    let c := k.imm.toNat % 32
    let moves (f : Nat → Nat) : State := s.writes 6 ((lanesOf s.active).map (fun i => .v k.d.toNat i (s.V k.a.toNat (f i))))
    s.active ≠ 0 →
    (s.Holds t b → t ∈ [Tag.x32, .i32, .n32] → exec (.vshflR o) s = .next (s.writes 6
      ((if o.m then [0, 1] else [0]).flatMap (fun n => (lanesOf s.active).map (fun i =>
        .v (o.d.toNat + n) i (s.V (a + n) ((s.V b i).val.toNat % 32))))))) ∧
    (k.imm.toNat / 32 = 0 → exec (.vshflI k) s = .next (moves (fun i => i ^^^ c))) ∧
    (k.imm.toNat / 32 = 1 → exec (.vshflI k) s = .next (moves (fun i => if c ≤ i then i - c else i))) ∧
    (k.imm.toNat / 32 = 2 → exec (.vshflI k) s = .next (moves (fun i => if i + c < 32 then i + c else i))) ∧
    (k.imm.toNat / 32 = 3 → exec (.vshflI k) s = .next (moves (fun i => (i + c) % 32))) ∧
    (∀ t', s.Holds t' a → s.Holds t b → t ∈ [Tag.x32, .i32, .n32] → s.Uniform o.u [a, b] →
      ∃ f : Nat → Word32,
        exec (.vperm o) s = .next (s.writes 6 ((lanesOf s.active).map (fun i => .v o.d.toNat i ⟨f i, .x32⟩))) ∧
        ∀ i j, j < 4 → (f i).extractLsb' (8 * j) 8 =
          (let sel := ((s.V b (s.src o.u i)).val.extractLsb' (8 * j) 8).toNat
           if 128 ≤ sel then 0 else (s.V a (s.src o.u i)).val.extractLsb' (8 * (sel % 4)) 8)) ∧
    (s.Sources false t [a] → s.Dest t o.d.toNat → combinable o.b.toNat t = true → (o.m = true → t ∈ [Tag.i16x2, .i8x4]) →
      let step := combineElem o.b.toNat t o.m (Rm.ofBits o.rm) o.sat
      let fold (ls : List Nat) : List Nat := match ls.map (s.elemsAt a t) with
        | [] => []
        | x :: xs => xs.foldl (List.zipWith step) x
      exec (.vscan o) s = .next (s.writes 12 (s.lanes o.d.toNat t (fun i =>
        fold ((lanesOf s.active).filter (fun j => decide (j ≤ i)))))) ∧
      exec (.vred o) s = .next (s.writes 12 (s.lanes o.d.toNat t (fun _ => fold (lanesOf s.active))))) ∧
    (s.Sources false t [a] → combinable o.b.toNat t = true → o.m = true → t ∉ [Tag.i16x2, .i8x4] →
      let data : Word64 := BitVec.ofNat 64 (a + 2 ^ 6 * t.code + 2 ^ 10 * lowLane s.active + 2 ^ 32 * t.code)
      Traps (exec (.vscan o) s) s 0x08B data ∧ Traps (exec (.vred o) s) s 0x08B data)

/-! ### Control transfer, lanes and traps. -/

/-- R119 to R121, R124 and R125: BR, BRC, CALL, RET and JMPI. Each sets the packet that the fragment takes next, which a
fragment with no group left then arrives at; a BRC whose test fails, as any word that is no transfer, leaves the packet 12
bytes on. -/
def Obligations.TransferResults : Prop :=
  (∀ (j : OpJ) (c : OpC) (o : OpR) (s : State),
    let here := s.f.pc
    let test := match c.cc.toNat with
      | 0 => s.S c.a == 0
      | 1 => s.S c.a != 0
      | 2 => (s.S c.a).slt 0
      | 3 => (0 : Word64).sle (s.S c.a)
      | 4 => (0 : Word64).slt (s.S c.a)
      | _ => (s.S c.a).sle 0
    exec (.br j) s = .next (s.goes (here + 12 * BitVec.ofInt 64 j.immI)) ∧
    exec (.brc c) s = .next (if test then s.goes (here + 12 * BitVec.ofInt 64 c.immI) else s.ended) ∧
    exec (.call j) s = .next ((s.putAll 0 [.s 63 (here + 12)]).goes (here + 12 * BitVec.ofInt 64 j.immI)) ∧
    exec (.ret o) s = .next (s.goes (s.S o.a)) ∧
    (o.m = false → exec (.jmpi o) s = .next (s.goes (s.S o.a))) ∧
    (o.m = true → exec (.jmpi o) s = .next ((s.putAll 0 [.s o.d.toNat (here + 12)]).goes (s.S o.a)))) ∧
  (∀ (f : Frag) (w : DWord), f.words = [w] → f.groups = [] →
    f.finishWord.pc = f.target.getD (f.pc + 12) ∧ f.finishWord.target = none ∧ f.finishWord.arrived = f.pc ∧
    f.finishWord.mask = f.mask)

/-- R122 and R102: BRV. Lanes that agree stay one fragment. Lanes that differ split: the side with fewer lanes, the taken
one on a tie, goes into the split entry, both sides with the old stamp, next-issue cycle and token. -/
def Obligations.VectorBranchResults : Prop :=
  ∀ (o : OpC) (s : State) (t : BitVec 32) (tag : Tag),
    let target := s.f.pc + 12 * BitVec.ofInt 64 o.immI
    let next := s.f.pc + 12
    let x (i : Nat) : Word32 := (s.V o.a.toNat i).val
    let k := s.K (o.a.toNat % 8)
    let test (i : Nat) : Bool := match o.cc.toNat with
      | 0 => x i == 0
      | 1 => x i != 0
      | 2 => (x i).msb
      | 3 => !(x i).msb
      | 4 => k.getLsbD i
      | _ => !k.getLsbD i
    let rest := s.active &&& ~~~t
    s.active ≠ 0 → (o.cc.toNat < 4 → s.Holds tag o.a.toNat) → o.cc.toNat < 6 →
    (∀ i, i < 32 → t.getLsbD i = (s.active.getLsbD i && test i)) →
    (t = 0 → exec (.brv o) s = .next s.ended) ∧
    (t ≠ 0 → rest = 0 ∨ target = next → exec (.brv o) s = .next (s.goes target)) ∧
    (∀ e, t ≠ 0 → rest ≠ 0 → target ≠ next → e ≠ s.focus.frag →
      s.splitFor s.focus.core (s.focus.slot / 32) s.focus.frag = some e →
      let takenLeaves := decide ((lanesOf t).length ≤ (lanesOf rest).length)
      ∃ u, exec (.brv o) s = .next u ∧ u.focus.out = .done ∧
        (u.frag s.focus.core s.focus.slot e).mask = (if takenLeaves then t else rest) ∧
        (u.frag s.focus.core s.focus.slot e).pc = (if takenLeaves then target else next) ∧
        (u.frag s.focus.core s.focus.slot e).stamp = s.f.stamp ∧
        (u.frag s.focus.core s.focus.slot e).nextIssue = s.f.nextIssue ∧
        (u.frag s.focus.core s.focus.slot e).token = s.f.token ∧
        u.f = { s.f with mask := if takenLeaves then rest else t,
                         target := some (if takenLeaves then next else target), brvWait := false } ∧
        Tab.get (u.quad s.focus.core (s.focus.slot / 32)).splits 1 e = 0 ∧
        u.w = { s.w with frags := u.w.frags } ∧ u.mem = s.mem)

/-- R103, R104 and R123: RCV makes a token of its join address, the active lanes and the fragment's old token, or traps with
16 tokens live; a fragment that arrives at the join address of its token with every lane of it that has not exited frees it,
takes the outer token and tests again. -/
def Obligations.ReconvergenceResults : Prop :=
  (∀ (o : OpJ) (s : State),
    let join := s.f.pc + 12 * BitVec.ofInt 64 o.immI
    let live (k : Nat) : Prop := (Tab.find s.w.tokens k).isSome = true
    let free (k : Nat) : Prop := k ∉ s.w.tokens.keys
    (∀ k, k < 16 → free k → (∀ j, j < k → ¬ free j) → exec (.rcv o) s =
      .next ((s.setW { s.w with
        frags := Tab.set s.w.frags s.focus.frag { s.f with token := some k }
        tokens := Tab.set s.w.tokens k { addr := join, expect := s.active, outer := s.f.token } }).ended)) ∧
    ((∀ k, k < 16 → live k) → Traps (exec (.rcv o) s) s 0x302 join)) ∧
  (∀ (s : State) (n t : Nat) (x : Token), s.f.token = some t → Tab.find s.w.tokens t = some x →
    (x.addr ≠ s.f.pc → s.joinTest (n + 1) = (true, s)) ∧
    (x.addr = s.f.pc → x.expect &&& ~~~s.w.exited &&& ~~~s.f.mask = 0 → s.joinTest (n + 1) =
      (s.setW { s.w with frags := Tab.set s.w.frags s.focus.frag { s.f with token := x.outer }
                         tokens := Tab.del s.w.tokens t }).joinTest n) ∧
    (x.addr = s.f.pc → x.expect &&& ~~~s.w.exited &&& ~~~s.f.mask ≠ 0 → (s.joinTest (n + 1)).1 = false)) ∧
  (∀ (s : State) (n : Nat), s.f.token = none → s.joinTest n = (true, s))

/-- R131 and R133: EXIT ends the active lanes. While the warp has another fragment, the lanes count as exited and the largest
status is kept; with its last fragment the warp ends. -/
def Obligations.ExitResults : Prop :=
  ∀ (o : OpL) (s : State),
    Completes (exec (.exit o) s) (fun t =>
      ((Tab.del s.w.frags s.focus.frag) ≠ [] →
        t.w.exited = s.w.exited ||| s.active ∧ t.w.xst = max s.w.xst o.immN ∧
        s.focus.frag ∉ t.w.frags.keys ∧ t.w.sregs = s.w.sregs ∧ t.mem = s.mem) ∧
      ((Tab.del s.w.frags s.focus.frag) = [] → s.focus.slot ∉ (t.core s.focus.core).warps.keys))

/-- R362 and R364: TRAP in both forms and BKPT take their trap. -/
def Obligations.TrapWordsTrap : Prop :=
  ∀ (l : OpL) (r : OpR) (s : State),
    Traps (exec (.trapL l) s) s (BitVec.ofNat 10 (0x380 + l.immN)) (s.S l.d) ∧
    Traps (exec (.trapR r) s) s (0x380#10 + ((s.S r.a).extractLsb' 0 6).setWidth 10) (s.S r.b) ∧
    Traps (exec (.bkpt l) s) s (BitVec.ofNat 10 (0x340 + l.immN)) 0

/-- R100, R358, R359 and R360: a trap that enters the handler. The trap registers are written over every write of them that the
warp had issued, each of its other register writes stays and completes in its own cycle, those of fixed latency before the
handler's first group issues; DMASK and MP stay only where they describe the trapping instruction; the other fragments of the
warp stop at this level, the hidden state is pushed, and the fragment goes on with its mask at packet TRAPIDX of the kernel. -/
def Obligations.TrapEntersHandler : Prop :=
  ∀ (s : State) (cause : BitVec 10) (data : Word64) (decodeFault : Bool),
    s.f.stopped = none → s.w.debugParked = none → s.t.desc.trapIdx ≠ 0xFFFFFFFF →
    cause ∉ [(0x303 : BitVec 10), 0x304, 0x30B] → (0x340 ≤ cause ∧ cause < 0x380 → (s.device s.die).dbgen = false) →
    s.w.hidden.length < 2 →
    let t := s.takeTrap cause data decodeFault
    t.focus.out = .trapped ∧
    t.w.trapCause = cause ∧ t.w.trapPc = s.f.pc ∧ t.w.trapData = data ∧
    t.w.sregs = s.w.sregs ∧ t.w.vregs = s.w.vregs ∧ t.w.kregs = s.w.kregs ∧ t.w.bregs = s.w.bregs ∧ t.w.gregs = s.w.gregs ∧
    t.w.hregs = s.w.hregs ∧
    (∀ p, p ∈ t.w.pend ↔ p ∈ s.w.pend ∧ ∀ n x, p.write ≠ .spr n x) ∧
    (∀ p ∈ t.w.pend, p.lock = false → p.due ≤ t.f.nextIssue) ∧ s.f.nextIssue ≤ t.f.nextIssue ∧
    t.w.progress = (if decodeFault = true ∨ s.w.progress.pc ≠ s.f.pc ∨ s.w.progress.pos ≠ s.focus.pos then {}
      else { s.w.progress with armed := false }) ∧
    (∃ h, t.w.hidden = h :: s.w.hidden ∧ h.mask = s.f.mask ∧ h.token = s.f.token ∧
      h.group = (if decodeFault then 0 else s.f.groupNo) ∧ h.trapPc = s.f.pc ∧
      ∀ k, k ∈ h.stopped ↔ ∃ f, (k, f) ∈ s.w.frags ∧ k ≠ s.focus.frag ∧ f.stopped = none) ∧
    t.f.pc = BitVec.ofNat 64 (s.t.desc.code + 12 * s.t.desc.trapIdx) ∧ t.f.mask = s.f.mask ∧ t.f.words = [] ∧
    (∀ k f, k ≠ s.focus.frag → Tab.find s.w.frags k = some f → f.stopped = none →
      ∃ f', Tab.find t.w.frags k = some f' ∧ f'.stopped = some (s.w.hidden.length + 1)) ∧
    SameMemory s t ∧ t.tasks = s.tasks ∧ t.devices = s.devices ∧ t.module = s.module

/-- R358, R360 and R361: a trap that ends its warp: one in a kernel without a handler, one at depth 2, and the three causes that
always do. R364: with DBGEN set a class 13 trap parks the warp for the debugger: the trap registers are written, the handler
depth stays, and the debug port is told. That the parked warp records the mask of the trapping fragment is the model's choice
(log 19). -/
def Obligations.TrapEndsOrParksWarp : Prop :=
  (∀ (s : State) (cause : BitVec 10) (data : Word64) (decodeFault : Bool),
     s.f.stopped = none → s.w.debugParked = none →
     cause ∈ [(0x303 : BitVec 10), 0x304, 0x30B] ∨
       ((0x340 ≤ cause ∧ cause < 0x380 → (s.device s.die).dbgen = false) ∧
         (s.t.desc.trapIdx = 0xFFFFFFFF ∨ 2 ≤ s.w.hidden.length)) →
     let t := s.takeTrap cause data decodeFault
     t.focus.out = .trapped ∧ s.focus.slot ∉ (t.core s.focus.core).warps.keys) ∧
  (∀ (s : State) (cause : BitVec 10) (data : Word64) (decodeFault : Bool),
     s.f.stopped = none → s.w.debugParked = none →
     0x340 ≤ cause → cause < 0x380 → (s.device s.die).dbgen = true →
     let t := s.takeTrap cause data decodeFault
     t.w.debugParked = some s.f.mask ∧ t.w.trapCause = cause ∧ t.w.trapPc = s.f.pc ∧ t.w.trapData = data ∧
     t.w.hidden = s.w.hidden ∧ t.f.pc = s.f.pc ∧
     t.io.outputs = s.io.outputs ++ [.debug s.focus.core s.focus.slot] ∧ SameMemory s t)

/-- R363: TRET, where the level and its lanes are there, resumes the trapped group, the one after it, or a moved TRAPPC, under
the recorded mask and token; elsewhere it raises 0x30A, whose TRAPDATA 0 is the model's choice (log 23). -/
def Obligations.TrapReturnResults : Prop :=
  ∀ (o : OpR) (s : State),
    let w := s.w.settleSpr
    (∀ h hs, s.w.hidden = h :: hs →
      let rest := h.mask &&& ~~~s.w.exited
      let moved := w.trapPc ≠ h.trapPc
      (rest &&& ~~~s.active = 0 →
        Completes (exec (.tret o) s) (fun t =>
          t.w.hidden = hs ∧ t.f.mask = rest ∧ t.f.token = h.token ∧ t.f.words = [] ∧ t.f.decoded = false ∧
          (moved → t.f.pc = w.trapPc ∧ t.f.startGroup = 0) ∧
          (¬ moved → o.m = false → t.f.pc = w.trapPc ∧ t.f.startGroup = h.group) ∧
          (¬ moved → o.m = true → h.decodeFault = true ∨ h.later = false →
            t.f.pc = w.trapPc + 12 ∧ t.f.startGroup = 0) ∧
          (¬ moved → o.m = true → h.decodeFault = false → h.later = true →
            t.f.pc = w.trapPc ∧ t.f.startGroup = h.group + 1) ∧
          (∀ e, e ∈ t.w.tokens ↔ e ∈ s.w.tokens ∧ e.1 ∈ h.tokens) ∧
          (∀ k f, k ≠ s.focus.frag → Tab.find s.w.frags k = some f → f.stopped = some (hs.length + 1) →
            ∃ f', Tab.find t.w.frags k = some f' ∧ f'.stopped = none) ∧
          ((t.f.pc, t.f.startGroup) ≠ (h.trapPc, h.group) → t.w.progress = {}) ∧
          ((t.f.pc, t.f.startGroup) = (h.trapPc, h.group) → t.w.progress = { s.w.progress with armed := true }) ∧
          (∀ p, p ∈ t.w.pend ↔ p ∈ s.w.pend ∧ ∀ n x, p.write ≠ .spr n x) ∧
          t.w.trapData = w.trapData ∧ SameMemory s t)) ∧
      (rest &&& ~~~s.active ≠ 0 → Traps (exec (.tret o) s) s 0x30A 0)) ∧
    (s.w.hidden = [] → Traps (exec (.tret o) s) s 0x30A 0)

/-! ### Memory words. -/

/-- R90, R189, R209: one access through a leaf that names Guash memory, allowed by its rights and its class, to a line without
an error: what it answers, and every byte of memory after it. R192, R214: one that no line of the core's L1 answers marks its
page accessed, and a write marks it dirty. That the bits are set so for atomics, exact sums and count words, which are made at the
slice, is the model's choice beyond R214 (log 8). -/
def Obligations.MemoryAccessResults : Prop :=
  ∀ (s : State) (a : Actor) (via : Option Leaf) (va : Nat) (op : MemOp) (l : Leaf) (n : Nat),
    let pa := l.pa + va % 65536
    let old (k : Nat) : Nat := s.mem.read pa k
    let c := (s.classFor a l va op.writes).2
    let answers (v : Nat) (m : Memory) : Prop :=
      ∃ t, s.access a via va op = (.ok v, t) ∧ t.mem = m ∧
        (c.l1Hit (a.cached l op) (c.owns a l) op.writes pa = false →
          pa / 65536 ∈ t.accessed ∧ (op.writes = true → pa / 65536 ∈ t.dirty))
    a.party = .core n → va < 2 ^ 57 →
    (via = some l ∧ s.shut a.dev va = none) ∨
      (via = none ∧ (s.takeFailed a va).1 = none ∧ s.shut (dieOf n) va = none ∧ ∃ e, (s.core n).tlbAt va = some e ∧ e.leaf = l) →
    protection l va a.type op = none → l.peer = false → l.mt = 0 →
    (s.classFor a l va op.writes).1 = true → s.lineLost pa op.size = false → s.upset = none →
    (∀ k, op = .read k → answers (old k) s.mem) ∧
    (∀ k v, op = .write k v → answers 0 (s.mem.write pa k v)) ∧
    (∀ o tag x y, op = .atm o tag x y →
      let k := if tag = 4 then 8 else 4
      answers (old k) (s.mem.write pa k (atmNew o tag (old k) x y))) ∧
    (∀ x, op = .xadd x → answers 0 (s.mem.write pa 64 (xaddLine (old 64) x))) ∧
    (∀ rm f64, op = .xrd rm f64 → answers (xrdLine (old 64) (Rm.ofBits rm) (if f64 then .f64 else .f32)) s.mem) ∧
    (op = .xclr → answers 0 (s.mem.write pa 64 0)) ∧
    (op = .cwRead → answers (old 8) s.mem) ∧
    (∀ v sat, op = .cwAdd v sat → old 8 + v.toNat < 2 ^ 64 → answers (old 8) (s.mem.write pa 8 (old 8 + v.toNat)))

/-- R217, R222 and R224: LD and LDS in both formats, and LDU. Every active lane receives the bytes at its address in the shape
of the width code, the word's result being interlocked. -/
def Obligations.LoadResults : Prop :=
  ∀ (s t : State) (got : Tab Nat) (om : OpM) (on : OpN),
    let shape (w : BitVec 3) (v : Nat) : List (Nat × Lane) :=
      let low : Word32 := BitVec.ofNat 32 v
      match w.toNat with
      | 0 => [(0, ⟨low, .n32⟩)]
      | 1 => [(0, ⟨(BitVec.ofNat 8 v).signExtend 32, .i32⟩)]
      | 2 => [(0, ⟨low, .n32⟩)]
      | 3 => [(0, ⟨(BitVec.ofNat 16 v).signExtend 32, .i32⟩)]
      | 4 => [(0, ⟨low, .x32⟩)]
      | 5 => [(0, ⟨low, .f32⟩)]
      | 6 => [(0, ⟨low, .f64l⟩), (1, ⟨BitVec.ofNat 32 (v / 2 ^ 32), .f64h⟩)]
      | _ => [(0, ⟨low, .x32⟩), (1, ⟨BitVec.ofNat 32 (v / 2 ^ 32), .x32⟩), (2, ⟨BitVec.ofNat 32 (v / 2 ^ 64), .x32⟩),
              (3, ⟨BitVec.ofNat 32 (v / 2 ^ 96), .x32⟩)]
    let scalar (w : BitVec 3) (v : Nat) : Word64 := match w.toNat with
      | 1 => (BitVec.ofNat 8 v).signExtend 64
      | 3 => (BitVec.ofNat 16 v).signExtend 64
      | 5 => (BitVec.ofNat 32 v).signExtend 64
      | _ => BitVec.ofNat 64 v
    let reads (fm : Form) (single : Bool) (n : Nat) : Prop :=
      s.Addressed fm n (s.lanesMade single) ∧ s.flown false (s.flight fm 0 single (fun _ => .read n)) = some (t, got)
    let loads (i : Instr) (fm : Form) (u : Bool) (d : BitVec 6) (w : BitVec 3) : Prop :=
      let single := u || fm.same
      s.Uniform u fm.off.toList → reads fm single (widthBytes w) →
      exec i s = .next (t.writes 0 ((lanesOf t.active).flatMap (fun l =>
        (shape w (Tab.get got 0 (if single then lowLane t.active else l))).map (fun e => .v (d.toNat + e.1) l e.2))))
    s.Fresh → s.active ≠ 0 →
    loads (.ldM om) (s.formM om (widthBytes om.w)) om.u om.d om.w ∧
    loads (.ldN on) (s.formN on (widthBytes on.w) false) on.u on.d on.w ∧
    loads (.ldsM om) (s.formScratch om (widthBytes om.w)) om.u om.d om.w ∧
    loads (.ldsN on) (s.formN on (widthBytes on.w) true) on.u on.d on.w ∧
    (reads (s.formN on (widthBytes on.w) false) true (widthBytes on.w) →
      exec (.ldu on) s = .next (t.writesS 0 on.d (scalar on.w (Tab.get got 0 (lowLane t.active)))))

/-- R217 and R223: ST and STS in both formats. Each active lane stores its registers, little end first; where all lanes have
one address the highest lane's data stands, with the uniform bit the lowest's. No register is written. -/
def Obligations.StoreResults : Prop :=
  ∀ (s t : State) (got : Tab Nat) (om : OpM) (on : OpN),
    let regs (w : BitVec 3) (d : BitVec 6) : List Nat :=
      List.range' d.toNat (if w = 7 then 4 else if w = 6 then 2 else 1)
    let value (w : BitVec 3) (d : BitVec 6) (i : Nat) : Nat :=
      ((regs w d).foldr (fun r acc => (s.V r i).val.toNat + 2 ^ 32 * acc) 0) % 2 ^ (8 * widthBytes w)
    let stores (i : Instr) (fm : Form) (u : Bool) (d : BitVec 6) (w : BitVec 3) : Prop :=
      let single := u || fm.same
      let n := widthBytes w
      let from_ (l : Nat) : Nat := if fm.same && !u then (lanesOf s.active).getLastD 0 else l
      let fl := { s.flight fm 1 single (fun l => .write n (value w d (from_ l))) with commits := !fm.scratch }
      s.Uniform u (regs w d ++ fm.off.toList) →
      (∀ r ∈ regs w d, ∀ l, s.active.getLsbD l = true → (s.V r l).tag ≠ .empty) →
      s.Addressed fm n (s.lanesMade single) → s.flown false fl = some (t, got) →
      exec i s = .next t.progressed.ended
    s.Fresh → s.active ≠ 0 →
    stores (.stM om) (s.formM om (widthBytes om.w)) om.u om.d om.w ∧
    stores (.stN on) (s.formN on (widthBytes on.w) false) on.u on.d on.w ∧
    stores (.stsM om) (s.formScratch om (widthBytes om.w)) om.u om.d om.w ∧
    stores (.stsN on) (s.formN on (widthBytes on.w) true) on.u on.d on.w

/-- R225 to R228: ATM, XADD, XRD and XCLR. ATM leaves the old value of each lane's word in its register or pair; XRD reads the
sum of a line rounded once; XADD and XCLR write no register. -/
def Obligations.AtomicResults : Prop :=
  ∀ (s t : State) (got : Tab Nat) (om : OpM) (on : OpN) (tag : Tag),
    let atm (i : Instr) (fm : Form) (u : Bool) (op : BitVec 3) (d : Nat) : Prop :=
      let n := (if tag = .f64l then 2 else 1) * (if op = 7 then 2 else 1)
      let word (r l : Nat) : Nat := (s.V r l).val.toNat + if tag = .f64l then (s.V (r + 1) l).val.toNat * 2 ^ 32 else 0
      let new (l : Nat) : Nat := if op = 7 then word (d + n / 2) l else 0
      let fl := s.flight fm 2 u (fun l => .atm op (BitVec.ofNat 4 tag.code) (word d l) (new l))
      let olds := if u then (lanesOf t.active).map (fun l => (l, Tab.get got 0 (lowLane t.active))) else got
      atmAccepts op tag = true → d % n = 0 → d + n ≤ s.vregs → s.Tagged tag d → (op = 7 → s.Tagged tag (d + n / 2)) →
      s.Uniform u (List.range' d n ++ fm.off.toList) →
      s.Addressed fm (if tag = .f64l then 8 else 4) (s.lanesMade u) → s.flown true fl = some (t, got) →
      exec i s = .next ((t.putAll 0 (olds.flatMap (fun e =>
        if tag = .f64l then laneWrites d tag e.1 [e.2] else [.v d e.1 ⟨BitVec.ofNat 32 e.2, tag⟩]))).progressed.ended)
    let sums (i : Instr) (fm : Form) (u : Bool) (op : Nat → MemOp) : Prop :=
      s.Addressed fm 64 (s.lanesMade u) → s.flown true (s.flight fm 2 u op) = some (t, got) →
      exec i s = .next t.progressed.ended
    let read (i : Instr) (fm : Form) (u : Bool) (w : BitVec 3) (d : Nat) : Prop :=
      let single := u || fm.same
      let f64 := w.getLsbD 2
      let at_ (l : Nat) : Nat := Tab.get got 0 (if single then lowLane t.active else l)
      s.Uniform u fm.off.toList → s.Addressed fm 64 (s.lanesMade single) →
      s.flown false (s.flight fm 2 single (fun _ => .xrd (w.extractLsb' 0 2) f64)) = some (t, got) →
      exec i s = .next (t.writes 0 ((lanesOf t.active).flatMap (fun l =>
        if f64 then [.v d l ⟨BitVec.ofNat 32 (at_ l), .f64l⟩, .v (d + 1) l ⟨BitVec.ofNat 32 (at_ l / 2 ^ 32), .f64h⟩]
        else [.v d l ⟨BitVec.ofNat 32 (at_ l), .f32⟩])))
    s.Fresh → s.active ≠ 0 →
    atm (.atmM om) (s.formM om 4) om.u om.w om.d.toNat ∧
    atm (.atmN on) (s.formN on 4 false) on.u on.w on.d.toNat ∧
    (s.Uniform om.u (om.d.toNat :: (s.formM om 64).off.toList) → s.Tagged .f32 om.d.toNat →
      sums (.xaddM om) (s.formM om 64) om.u (fun l => .xadd (s.V om.d.toNat l).val)) ∧
    (s.Uniform on.u [on.d.toNat] → s.Tagged .f32 on.d.toNat →
      sums (.xaddN on) (s.formN on 64 false) on.u (fun l => .xadd (s.V on.d.toNat l).val)) ∧
    (s.Uniform om.u (s.formM om 64).off.toList → sums (.xclr om) (s.formM om 64) om.u (fun _ => .xclr)) ∧
    read (.xrdM om) (s.formM om 64) om.u om.w om.d.toNat ∧
    read (.xrdN on) (s.formN on 64 false) on.u on.w on.d.toNat

/-- R90, R209, R219: the frame of the accesses of a memory word that go to memory of this module. A byte outside the bytes that
they touch reads as before; a word that only reads leaves every byte. -/
def Obligations.MemoryWordFrame : Prop :=
  ∀ (s t : State) (type : Nat) (commits : Bool) (reqs : List LaneReq) (got got' : Tab Nat),
    s.accessAll type commits reqs got = some (t, got') → s.Plain type commits reqs → (∀ r ∈ reqs, r.scr = false) →
    (∀ r ∈ reqs, (∃ n, r.op = .read n) ∨ (∃ n v, r.op = .write n v) ∨ r.op.atomic = true) →
    (∀ a, (∀ p ∈ s.touched type commits reqs, a < p.1 ∨ p.1 + p.2 ≤ a) → t.mem.get a = s.mem.get a) ∧
    ((∀ r ∈ reqs, r.op.writes = false) → t.mem = s.mem)

/-- R187 and R223: an access to scratch pages that have been pinned: a read gives the bytes of the window, a write changes them
alone; no byte of memory changes. -/
def Obligations.ScratchAccessResults : Prop :=
  ∀ (s : State) (c g off n v : Nat),
    let x := s.wg c g
    (∀ p ∈ scratchPages off n, p ∈ x.touched → p ∈ x.pinned) →
    (s.scratchOp c g off (.read n)).1 = x.scratch.read off n ∧
    ((s.scratchOp c g off (.read n)).2.wg c g).scratch = x.scratch ∧
    ((s.scratchOp c g off (.write n v)).2.wg c g).scratch = x.scratch.write off n v ∧
    (s.scratchOp c g off (.read n)).2.mem = s.mem ∧ (s.scratchOp c g off (.write n v)).2.mem = s.mem ∧
    (s.scratchOp c g off (.write n v)).2.tasks = s.tasks ∧
    ∀ k, (s.scratchOp c g off (.write n v)).2.warp c k = s.warp c k

/-! ### Words that control memory, messages and system words. -/

/-- R206, R229, R230, R232: BTL, BTINV and PFH. BTL fills a base register with the run of pages that starts at the page of its
address, or leaves it covering nothing and says why; BTINV leaves one register or all covering nothing; PFH changes nothing.
R231: CLASS over bytes of one page. A page whose leaf fixes no class, and which no other class change holds, takes the
hinted class and counts as 1; one that already allows what the hint says, or that is not mapped, counts as 0. A length of
zero, or beyond 1 GiB, traps. R208: a miss that would be a ninth one waits. Choices of the model: a walk that meets a lost line or a
failed read of host memory answers −2, the clause of `.lost` and that of `.host` (logs 77, 15); the empty set of holders after a hint
takes UNTOUCHED to READONLY (log 34); the register fields of 0x0A2's TRAPDATA (log 23). -/
def Obligations.TranslationWordResults : Prop :=
  (∀ (s t : State) (o : OpR) (om : OpM) (on : OpN) (p : Nat) (l : Leaf),
     let c := s.focus.core
     let va := (s.S o.a).toNat
     let bd := o.d.toNat % 8
     let gives (t : State) (b : BaseReg) (v : Word64) : Prop :=
       exec (.btl o) s = .next (t.writes 0 [.b bd { b with vbase := s.S o.a }, .s o.b.toNat v])
     exec (.pfhM om) s = .next s.ended ∧ exec (.pfhN on) s = .next s.ended ∧
     exec (.btinv o) s = .next (s.writes 0
       (((List.range 8).filter (fun b => o.m || b = bd)).map (fun b => .b b { s.B b with limit := 0 }))) ∧
     let walks := ∀ i < 32, s.missFull c (65536 * (va / 65536 + i)) = false
     (2 ^ 57 ≤ va → gives s {} (BitVec.ofInt 64 (-3))) ∧
     (va < 2 ^ 57 → ¬walks → Parks (exec (.btl o) s) (.reclass missPage) (fun t => SameMemory s t)) ∧
     (va < 2 ^ 57 → walks → s.tlbWalk c va = (.absent p, t) → gives t {} (BitVec.ofInt 64 (-1))) ∧
     (va < 2 ^ 57 → walks → s.tlbWalk c va = (.error, t) ∨ s.tlbWalk c va = (.host, t) → gives t {} (BitVec.ofInt 64 (-2))) ∧
     (va < 2 ^ 57 → walks → s.tlbWalk c va = (.lost p, t) →
       gives (t.unreadable (t.laneActor 7 (lowLane t.active)) p va).2 {} (BitVec.ofInt 64 (-2))) ∧
     (va < 2 ^ 57 → walks → s.tlbWalk c va = (.leaf l, t) → l.peer = true → gives t {} (BitVec.ofInt 64 (-4))) ∧
     (va < 2 ^ 57 → walks → s.tlbWalk c va = (.leaf l, t) → l.peer = false →
       let seen := (((t.core c).tlbAt va).map (fun e => e.seen)).getD .unknown
       let run := t.runPages c va l seen 31 1
       let limit := (run.1.length + 1) * 65536 - va % 65536
       gives run.2 { frame := l.pa + va % 65536, limit := limit, seen := seen, w := l.w, x := l.x,
                     pages := (l.cls, l.big) :: run.1, cnt := l.cnt, mt := l.mt } (BitVec.ofNat 64 limit) ∧
       0 < limit ∧ limit ≤ 2 ^ 21 ∧ run.2.mem = t.mem)) ∧
  (∀ (s t : State) (o : OpR) (oi : OpI) (w : Walk),
     let a := (s.S o.a).toNat
     let n := (s.S o.b).toNat
     let page := a / 65536
     let hinted (i : Instr) (d : BitVec 6) (page : Nat) (shared : Bool) : Prop :=
       page < 2 ^ 41 → s.f.flight = none → s.focus.lanes = BitVec.allOnes 32 → s.tlbWalk s.focus.core (page * 65536) = (w, t) →
       (w = .full → Parks (exec i s) (.reclass missPage) (fun t => SameMemory s t)) ∧
       (w ≠ .full → (∀ l, w ≠ .leaf l) → exec i s = .next (t.landed.writesS 0 d 0)) ∧
       (∀ l, w = .leaf l → l.fixed.isSome = true → exec i s = .next (t.landed.writesS 0 d 0)) ∧
       (∀ l, w = .leaf l → l.fixed = none → Tab.find t.reclass l.key = none →
         let t := t.nameMapping l.key s.die (l.tlbKey (page * 65536))
         let old := t.classOf l.key
         let changes := old ≠ .shared ∧ (shared = true ∨ ∀ ps, old ≠ .readOnly ps)
         (¬changes → exec i s = .next (t.landed.writesS 0 d 0)) ∧
         (changes → (∀ q ∈ old.holders, t.outstanding q l.key = false) →
           exec i s = .next ((t.reclassify l.key (if shared then .shared else .readOnly old.holders)).landed.writesS 0 d 1)))
     (n = 0 ∨ 2 ^ 30 < n → Traps (exec (.classR o) s) s 0x0A2
       (BitVec.ofNat 64 (o.b.toNat + 1 * 2 ^ 15 + min n (2 ^ 32 - 1) * 2 ^ 32))) ∧
     (0 < n → a % 65536 + n ≤ 65536 → hinted (.classR o) o.d page o.m) ∧
     (oi.immN / 2 = 0 → (s.S oi.a).toNat % 65536 = 0 → hinted (.classI oi) oi.d ((s.S oi.a).toNat / 65536) (oi.immN % 2 = 1)))

/-- R233 to R237: SEND, RPOP and RWAIT. A SEND whose lanes hold a message ends with a status, whatever its handle names. A message
lands in the slot of TAIL with its length and advances TAIL; a full ring counts a dropped one. RPOP takes the message of HEAD into
its registers, X32, the rest of the registers zero; on an invalid ring it traps in both forms, as RWAIT does. Choices of the model:
the m = 1 form of RPOP tests its ring too (log 33), REG and OPND of 0x0A1's TRAPDATA (log 23), the cycle in which interlocked results
stand (log 11). -/
def Obligations.MessageResults : Prop :=
  ∀ (s : State) (o : OpR) (r : Ring),
    let h := (s.S o.a).toNat
    let b := o.b.toNat
    let own := s.focus.core
    let g := s.w.wg
    let status (v : Int) : RegWrite := .s o.d.toNat (BitVec.ofInt 64 v)
    -- SEND: the receiving core, workgroup and ring that its handle names
    (let c := bitsOf h 25 18
     let rg := bitsOf h 30 26
     let ofs := bitsOf h 17 0
     let payload := (lanesOf s.active).map (fun i => (s.V b i).val)
     let len := 4 * payload.length
     let at_ := ofs + 64 + 16 * r.ssz * (r.tail % 2 ^ r.slog)
     let x := s.wg c rg
     let sends (p : State → Prop) : Prop := Completes (exec (.send o) s) p
     (∀ i, s.active.getLsbD i = true → (s.V b i).tag ≠ .empty) →
     (∃ t v, exec (.send o) s = .next t ∧ t.focus.out = .done ∧ Issues s t 0 (status v)) ∧
     (192 ≤ c ∨ dieOf c ≠ dieOf own ∨ bitOf h 31 = true ∨ ofs % 64 ≠ 0 → sends (fun t => Issues s t 0 (status (-5)) ∧ SameMemory s t)) ∧
     (c < 192 → dieOf c = dieOf own → bitOf h 31 = false → ofs % 64 = 0 →
       (Tab.find (s.core c).wgs rg = none ∨ x.rplc ≠ bitsOf h 63 32 →
         sends (fun t => Issues s t 0 (status (-2)) ∧ SameMemory s t)) ∧
       ((Tab.find (s.core c).wgs rg).isSome = true → x.rplc = bitsOf h 63 32 → x.Settled →
         s.windowOf c rg < ofs + 64 ∨ (Ring.of (x.scratch.read ofs 64)).ok ofs (s.windowOf c rg) = false →
         sends (fun t => Issues s t 0 (status (-3)) ∧ (t.wg c rg).scratch = x.scratch)) ∧
       ((Tab.find (s.core c).wgs rg).isSome = true → x.rplc = bitsOf h 63 32 → s.RingAt c rg ofs r →
         (16 * r.ssz < 16 + len → sends (fun t => Issues s t 0 (status (-4)) ∧ (t.wg c rg).scratch = x.scratch)) ∧
         (16 + len ≤ 16 * r.ssz → 2 ^ r.slog ≤ r.held → sends (fun t => Issues s t 0 (status (-1)) ∧
           (t.wg c rg).scratch = x.scratch.write (ofs + 12) 4 (min (r.drop + 1) (2 ^ 32 - 1)))) ∧
         (16 + len ≤ 16 * r.ssz → r.held < 2 ^ r.slog → sends (fun t => Issues s t 0 (status 0) ∧ SameMemory s t ∧
           (t.wg c rg).scratch = ((x.scratch.write at_ 16 len).write (at_ + 16) len
             (payload.foldr (fun v acc => v.toNat + 2 ^ 32 * acc) 0)).write ofs 4 ((r.tail + 1) % 2 ^ 32)))))) ∧
    -- RPOP and RWAIT: the ring of the own workgroup
    (let ofs := h
     let at_ := ofs + 64 + 16 * r.ssz * (r.head % 2 ^ r.slog)
     let scratch := s.g.scratch
     let len := scratch.read at_ 4
     (ofs % 64 = 0 → s.RingAt own g ofs r →
       (o.m = true → Completes (exec (.rpop o) s) (fun t =>
         Issues s t 0 (.s o.d.toNat (BitVec.ofNat 64 (ofs + own * 2 ^ 18 + g * 2 ^ 26 + s.g.rplc * 2 ^ 32))) ∧
         t.g.scratch = scratch ∧ SameMemory s t)) ∧
       (o.m = false → r.tail = r.head → Completes (exec (.rpop o) s) (fun t =>
         Issues s t 0 (status (-1)) ∧ t.g.scratch = scratch ∧ SameMemory s t)) ∧
       (o.m = false → r.tail ≠ r.head → s.active ≠ 0 → Completes (exec (.rpop o) s) (fun t =>
         Issues s t 0 (.s o.d.toNat (BitVec.ofNat 64 len)) ∧ SameMemory s t ∧
         t.g.scratch = scratch.write (ofs + 4) 4 ((r.head + 1) % 2 ^ 32) ∧
         ∀ i, s.active.getLsbD i = true → Issues s t 0 (.v b i
           ⟨if i < len / 4 then BitVec.ofNat 32 (scratch.read (at_ + 16) (16 * r.ssz - 16) / 2 ^ (32 * i)) else 0, .x32⟩))) ∧
       (r.tail ≠ r.head → Completes (exec (.rwait o) s) (fun t =>
         Issues s t 0 (.s o.d.toNat (BitVec.ofNat 64 r.held)) ∧ SameMemory s t)) ∧
       (r.tail = r.head → Parks (exec (.rwait o) s) (.ring ofs o.d.toNat) (fun t => SameMemory s t))) ∧
     (let data : Word64 := BitVec.ofNat 64 (o.a.toNat + ofs % 2 ^ 32 * 2 ^ 32)
      (ofs % 64 ≠ 0 ∨ s.windowOf own g < ofs + 64 →
        Traps (exec (.rpop o) s) s 0x0A1 data ∧ Traps (exec (.rwait o) s) s 0x0A1 data) ∧
      (ofs % 64 = 0 → ofs + 64 ≤ s.windowOf own g → s.g.Settled → (Ring.of (scratch.read ofs 64)).ok ofs (s.windowOf own g) = false →
        let t := (s.scratchRead own g ofs 64).2
        Traps (exec (.rpop o) s) t 0x0A1 data ∧ Traps (exec (.rwait o) s) t 0x0A1 data)))

/-- R39 and R33: the queue step of ENQ and of an upcall: it refuses a queue that is not fed by the device, is not enabled,
has no room or has used up its sequence numbers, in that order; else the packet stands in the slot of QTAIL with its SEQ field
replaced, and the answer is that number. -/
def Obligations.QueueStepResults : Prop :=
  ∀ (s : State) (d q : Nat) (bytes : List Byte),
    let x := s.queue d q
    let r := s.queueStep d q bytes
    let full := (x.qtail + 2 ^ 32 - x.qret) % 2 ^ 32 = 2 ^ x.slog
    let spent := 2 ^ 64 - 16 ≤ x.qnextseq
    let stamped := bytes.take 8 ++ natBytes 8 x.qnextseq ++ bytes.drop 16
    let pa := ringAddr x.ringFrames x.qbase (256 * (x.qtail % 2 ^ x.slog))
    (x.src = false → r = (0xFFFFFFFFFFFFFFF3, s)) ∧
    (x.src = true → x.en = false → r = (0xFFFFFFFFFFFFFFF2, s)) ∧
    (x.src = true → x.en = true → full → r = (0xFFFFFFFFFFFFFFF1, s)) ∧
    (x.src = true → x.en = true → ¬full → spent → r = (0xFFFFFFFFFFFFFFF5, s)) ∧
    (x.src = true → x.en = true → ¬full → ¬spent → s.lineLost pa stamped.length = false →
      r.1 = BitVec.ofNat 64 x.qnextseq ∧ r.2.mem = s.mem.write pa stamped.length (bytesNat stamped) ∧
      (r.2.queue d q).qtail = (x.qtail + 1) % 2 ^ 32 ∧ (r.2.queue d q).qnextseq = x.qnextseq + 1)

/-- R39, R365, R366, R375 and R376: ENQ, PGSUPPLY, REGION, SLEEP and MFLOG. Choices of the model: REGION takes the registers of its
save set at its issue (log 70), what selectors 1 and 2 of MFLOG count (log 42), the plain address in ENQ's TRAPDATA (log 24), ENQ
commits at its issue, before a trap of it (log 97), a read of the pager's entry that fails (log 15). -/
def Obligations.SystemWordResults : Prop :=
  ∀ (s t u : State) (o : OpR) (oi : OpI) (og : OpG) (got : Tab Nat) (n : Nat) (ws : List Word32) (up : Upcall)
    (pe : PagerEntry) (r : State) (cause : BitVec 10),
    let d := s.die
    let va := (s.S o.b).toNat
    let token := (s.S o.a).toNat % 2 ^ 32
    let e := token % 64
    let mask : Word64 := ws.getD 1 0 ++ ws.getD 0 0
    -- ENQ commits; the packet is read line by line, as long as its first byte said, then placed by the queue step
    (31 < (s.S o.a).toNat → exec (.enq o) s = .next (s.commit.writesS 0 o.d 0xFFFFFFFFFFFFFFF4)) ∧
    ((s.S o.a).toNat ≤ 31 → s.f.flight = none → 2 ^ 57 ≤ va → Traps (exec (.enq o) s) s.commit 0x117 (s.S o.b)) ∧
    ((s.S o.a).toNat ≤ 31 → s.f.flight = none → t.Fresh → va < 2 ^ 57 →
      s.commit.access (s.laneActor 7 (lowLane s.active)) none va (.read 1) = (.ok n, t) →
      let len := 16 * (n % 16 + 1)
      t.flown true { type := 7, single := true, got := [(lenKey, len)], reqs := packetReads va len } = some (u, got) →
      let x := u.queueStep u.die (s.S o.a).toNat ((packetBytes va got).take len)
      exec (.enq o) s = .next (x.2.writesS 0 o.d x.1)) ∧
    -- PGSUPPLY: an entry that the token does not name, a foreign caller, a refused page, a page still absent or broken
    (Tab.find (s.device d).upcalls e = none ∨ Tab.get (s.device d).upcallGen 0 e ≠ token / 64 →
      exec (.pgsupply o) s = .next (s.writesS 0 o.d (BitVec.allOnes 64))) ∧
    (Tab.find (s.device d).upcalls e = some up → Tab.get (s.device d).upcallGen 0 e = token / 64 →
      let mine := r.t.descAddr = pe.desc
      let walk := r.walkOn d up.va.toNat
      let frees (v : Int) : Prop := ∃ t : State, exec (.pgsupply o) s = .next (t.writesS 0 o.d (BitVec.ofInt 64 v)) ∧
        e ∉ Tab.keys (t.device d).upcalls
      (s.readPager d up.pgr 7 = (.error cause, r) → Traps (exec (.pgsupply o) s)
        (r.pagerLost (r.laneActor 7 (lowLane r.active)) d up.pgr token cause).2 cause (BitVec.ofNat 64 token)) ∧
      (s.readPager d up.pgr 7 = (.ok pe, r) →
        (¬mine → Traps (exec (.pgsupply o) s) r 0x308 (BitVec.ofNat 64 token)) ∧
        (mine → o.m = true → frees 0) ∧
        (mine → o.m = false → ∀ p, walk = (.absent p, t) →
          exec (.pgsupply o) s = .next (t.writesS 0 o.d (BitVec.ofInt 64 (-2)))) ∧
        (mine → o.m = false → ∀ l, walk = (.leaf l, t) → frees 0) ∧
        (mine → o.m = false → walk = (.error, t) ∨ walk = (.host, t) ∨ (∃ p, walk = (.lost p, t)) → frees (-3)))) ∧
    -- REGION: traps outside its conditions; the save-set packet is fetched and tested, the save set stored and the mark made
    (s.f.flight = none → s.t.desc.frame = 0 → Traps (exec (.region og) s) s 0x305 0) ∧
    (s.f.flight = none → s.t.desc.frame ≠ 0 → (s.w.hidden ≠ [] ∨ 1 < s.w.frags.length ∨ s.w.tokens ≠ []) →
      Traps (exec (.region og) s) s 0x307 0) ∧
    (s.f.flight = none → s.t.desc.frame ≠ 0 → s.w.hidden = [] → s.w.frags.length ≤ 1 → s.w.tokens = [] →
      s.fetchWords (s.packetAt og.offI).toNat 3 [] = .inr (ws, t) →
      let holds := t.t.desc.holdsPacket (s.packetAt og.offI).toNat = true ∧ ws.getD 2 0 = 0xE8000000#32 ∧
        (saveSet mask).length ≤ 16
      (¬holds → Traps (exec (.region og) s) t 0x306 (s.packetAt og.offI)) ∧
      (holds → t.Fresh →
        t.flown false { type := 1, single := true, got := [(100, mask.toNat)],
                        reqs := (List.zipIdx (saveSet mask)).map (fun e =>
          { lane := e.2, va := t.framePage + 128 * t.w.warpId + 8 * e.2,
            op := .write 8 (t.S (BitVec.ofNat 6 e.1)).toNat }) } = some (u, got) →
      Completes (exec (.region og) s) (fun v =>
        v.w.mark = some { pc := u.f.pc + 12, mask := u.active, save := mask } ∧ v.w.committed = false ∧ v.mem = u.mem))) ∧
    -- SLEEP and MFLOG
    Parks (exec (.sleep oi) s) (.sleep (s.counted d) oi.immN) (fun t => SameMemory s t) ∧
    exec (.mflog o) s = .next (s.writesS 0 o.d (BitVec.ofNat 64
      (if o.b = 0 then s.module.elseq else if o.b = 1 then s.t.events
       else if o.b = 2 then Tab.get s.t.entries (2 ^ 64 - 1) (32 * s.g.linear + s.w.warpId) else s.module.ellost)))

/-! ### Count words and groups. -/

/-- R337 to R342: CWSIG, CWRD, CWSET and CWWAIT. Each is one access at the home of its count word; CWWAIT ends at once if the
word has reached its target, and else parks its fragment. R254: a CWSIG or CWSET whose value another module has lost is made, and its
resumption makes no other and leaves sd. Choices of the model: the plain address in TRAPDATA for every cause (log 24), the registration
that a held re-read keeps (log 18), the words that commit at their issue, before a trap of them (log 97). -/
def Obligations.CountWordResults : Prop :=
  ∀ (s t : State) (o : OpR) (oi : OpI) (v : Nat) (c : BitVec 10),
    let word (i : Instr) (a : BitVec 6) (type : Nat) (commits : Bool) (op : MemOp) (ends : State → State) (done : Prop) : Prop :=
      let va := (s.S a).toNat
      let s' := if commits then s.commit else s
      let r := s'.access (s.laneActor type (lowLane s.active)) none va op
      (2 ^ 57 ≤ va → Traps (exec i s) (ends s') (BitVec.ofNat 10 (0x110 + type)) (s.S a)) ∧
      (va < 2 ^ 57 → va % 8 ≠ 0 → Traps (exec i s) (ends s') (BitVec.ofNat 10 (0x180 + type)) (s.S a)) ∧
      (va < 2 ^ 57 → va % 8 = 0 → r = (.fault c, t) → (commits = true → c ≠ 0x29A) → Traps (exec i s) (ends t) c (s.S a)) ∧
      -- a change whose value is lost has been made once, and its lane joins DMASK
      (va < 2 ^ 57 → va % 8 = 0 → r = (.fault 0x29A, t) → commits = true → Traps (exec i s) (t.setW { t.w with
        progress := { dmask := laneBit (lowLane s.active), pc := t.f.pc, pos := t.focus.pos } }) 0x29A (s.S a)) ∧
      (va < 2 ^ 57 → va % 8 = 0 → r = (.ok v, t) → done)
    let changes (i : Instr) (d a : BitVec 6) (op : MemOp) : Prop :=
      (s.addMade = false → word i a 2 true op id (exec i s = .next (t.writesS 0 d (BitVec.ofNat 64 v)))) ∧
      (s.addMade = true → exec i s = .next (s.setW { s.w with progress := {} }).ended)
    let waits (i : Instr) (d a : BitVec 6) (target : Nat) : Prop :=
      word i a 0 false .cwRead State.stopWaiting (
        (target ≤ v → exec i s = .next (t.stopWaiting.writesS 0 d (BitVec.ofNat 64 v))) ∧
        (v < target → Parks (exec i s) (t.waitAgain t.focus.core (s.S a).toNat target d.toNat).2
          (fun u => SameMemory t u)))
    changes (.cwsigR o) o.d o.a (.cwAdd (s.S o.b) false) ∧ changes (.cwsigI oi) oi.d oi.a (.cwAdd (BitVec.ofNat 64 oi.immN) false) ∧
    word (.cwrd o) o.a 0 false .cwRead id (exec (.cwrd o) s = .next (t.writesS 0 o.d (BitVec.ofNat 64 v))) ∧
    changes (.cwset o) o.d o.a (.cwSet (s.S o.b)) ∧
    waits (.cwwaitR o) o.d o.a (s.S o.b).toNat ∧ waits (.cwwaitI oi) oi.d oi.a oi.immN

/-- R345, R347 and R350: GNEW, GJOIN, GLEAVE, GFREE and GSTAT on groups that their handles name. That GNEW returns NONE to a warp in 16
groups is the model's choice (log 39). -/
def Obligations.GroupMembershipResults : Prop :=
  ∀ (s : State) (o : OpR) (i : Nat),
    let me := s.memberOf s.focus.core s.focus.slot
    let live := (s.groups.filter (fun e => e.2.live)).map (fun e => e.1)
    let used := (s.groups.map (fun e => e.2.members.length)).sum
    let mine := (s.groups.filter (fun e => e.2.members.contains me)).length
    let c := s.commit
    let pair (t : State) (h : Word32) (v : Word64) : State := t.writes 0 [.g (o.d.toNat % 8) h, .s o.b.toNat v]
    let names (h : Word32) (i : Nat) : Prop :=
      h.toNat % 4096 = i ∧ (s.group i).live = true ∧ (s.group i).gen = h.toNat / 4096 ∧ h.toNat / 4096 ≠ 0xFFFFF ∧
      ((s.group i).dev = s.die ∨ (s.group i).shared = true)
    let low : Word32 := (s.S o.a).setWidth 32
    let h := s.groupHandle o.a
    -- GNEW: the lowest entry that is not live, or none
    (firstFree live 0 4096 = some i → used < 32768 → mine < 16 →
      exec (.gnew o) s = .next (pair (c.setGroup i
        { gen := (s.group i).gen, live := true, dev := s.die, shared := o.m, members := [me] })
        (BitVec.ofNat 32 (i + (s.group i).gen * 4096)) ((BitVec.ofNat 32 (i + (s.group i).gen * 4096)).setWidth 64))) ∧
    (firstFree live 0 4096 = none ∨ 32768 ≤ used ∨ 16 ≤ mine →
      exec (.gnew o) s = .next (pair (c.setDevice s.die { s.device s.die with gnone := bump32 (s.device s.die).gnone })
        0xFFFFFFFF 0xFFFFFFFF)) ∧
    -- GJOIN: the rank of a member, that of the new member, or why there is none
    (names low i →
      ((s.group i).members.contains me = true →
        exec (.gjoin o) s = .next (pair c low (BitVec.ofNat 64 ((s.group i).members.findIdx (fun m => m == me))))) ∧
      ((s.group i).members.contains me = false →
        (32768 ≤ used → exec (.gjoin o) s = .next (pair c low (BitVec.ofInt 64 (-1)))) ∧
        (used < 32768 → 16 ≤ mine → exec (.gjoin o) s = .next (pair c low (BitVec.ofInt 64 (-2)))) ∧
        (used < 32768 → mine < 16 → exec (.gjoin o) s =
          .next (pair (c.setGroup i { s.group i with members := (s.group i).members ++ [me] }) low
            (BitVec.ofNat 64 (s.group i).members.length))))) ∧
    (names h i →
      -- GLEAVE: the members without this one
      ((s.group i).members.contains me = true → Completes (exec (.gleave o) s) (fun t =>
        (t.group i).members = (s.group i).members.filter (fun m => m != me) ∧ t.mem = s.mem)) ∧
      ((s.group i).members.contains me = false →
        exec (.gleave o) s = .next (c.writesS 0 o.d (BitVec.allOnes 64))) ∧
      -- GFREE: an empty group ends, and its generation advances past the reserved one
      ((s.group i).members ≠ [] → exec (.gfree o) s = .next (c.writesS 0 o.d (BitVec.allOnes 64))) ∧
      ((s.group i).members = [] → exec (.gfree o) s = .next ((c.setGroup i
        { gen := ((s.group i).gen + 1) % 0xFFFFF }).writesS 0 o.d 0)) ∧
      -- GSTAT
      (o.b = 1 → exec (.gstat o) s = .next (s.writesS 0 o.d (BitVec.ofNat 64 ((s.group i).members.length +
        (if (s.group i).members.contains me then (s.group i).members.findIdx (fun m => m == me) else 0xFFFF) * 2 ^ 16 +
        (s.group i).phase.count * 2 ^ 32)))) ∧
      (o.b = 3 → exec (.gstat o) s = .next (s.writesS 0 o.d (BitVec.ofNat 64
        ((s.group i).dev + if (s.group i).shared then 4 else 0))))) ∧
    (o.b = 0 → exec (.gstat o) s = .next (s.writesS 0 o.d (h.setWidth 64)))

/-- R348 to R350, R367: GBAR, GVOTE and GRED in a named group or in that of the workgroup or gang. An arrival that is not the last
parks its fragment; the last one completes the phase, which counts one more and holds no arrival, and for every member the fragment
that had arrived goes on, its warp commits, and the result is written to the register that the fragment's own word names. R350: what
a phase gives its members. A barrier gives the number of completed phases; a vote the count of non-zero values with its two flags; a
reduction folds the values in rank order, sums of floats rounded at each step in its mode. Choice of the model: the cycle in which
the interlocked results stand (log 11). -/
def Obligations.ArrivalResults : Prop :=
  (∀ (s : State) (o : OpR) (i : Nat) (r : GroupRef),
     let me := s.memberOf s.focus.core s.focus.slot
     let h := s.groupHandle o.a
     let p := s.phase r
     let named := r = .named i ∧ h.toNat % 4096 = i ∧ (s.group i).live = true ∧ (s.group i).gen = h.toNat / 4096 ∧
       h.toNat / 4096 ≠ 0xFFFFF ∧ ((s.group i).dev = s.die ∨ (s.group i).shared = true)
     let arrives (j : Instr) (kind : ArriveKind) (v : Word64) : Prop :=
       let x : Arrival := ⟨me, s.focus.core, s.focus.slot, s.focus.frag, o.d.toNat, v⟩
       let all := p.arrivals ++ [x]
       let of_ (m : Member) : Option Arrival := all.find? (fun a => a.who == m)
       (p.kind.isSome = true → p.kind ≠ some kind → Traps (exec j s) s 0x242 (h.setWidth 64)) ∧
       (p.kind = none ∨ p.kind = some kind →
         ((∃ m ∈ s.members r, of_ m = none) → Parks (exec j s) (.barrier o.d.toNat) (fun t =>
           (t.phase r).arrivals = all ∧ (t.phase r).kind = some kind ∧ t.mem = s.mem)) ∧
         ((∀ m ∈ s.members r, (of_ m).isSome = true) → Ends (exec j s) (fun t =>
           (t.phase r).count = (p.count + 1) % 2 ^ 32 ∧ (t.phase r).arrivals = [] ∧ t.mem = s.mem ∧
           ∀ m ∈ s.members r, ∃ a, of_ m = some a ∧ (t.frag a.core a.slot a.frag).park = .none ∧
             (t.warp a.core a.slot).committed = true ∧
             ∃ q ∈ (t.warp a.core a.slot).pend,
               q.due = max ((s.frag a.core a.slot a.frag).issued + 1) s.now + s.focus.slow ∧ q.write = .s a.d
                 (phaseResult kind ((p.count + 1) % 2 ^ 32) (((s.members r).filterMap of_).map (fun a => a.value))))))
     named ∨ (o.a = 8 ∧ r = .wg s.g.task s.g.linear) ∨ (o.a = 9 ∧ r = .gang s.g.task s.g.unit) →
     me ∈ s.members r → (∀ a ∈ p.arrivals, a.who ≠ me) →
     arrives (.gbar o) .bar 0 ∧ arrives (.gvote o) .vote (s.S o.b) ∧
     arrives (.gred o) (.red (o.xm.toNat % 16) o.rm) (s.S o.b)) ∧
  (∀ (n : Nat) (x : Word64) (xs : List Word64) (rm : BitVec 2),
     let count := ((x :: xs).filter (fun v => v != 0)).length
     phaseResult .bar n (x :: xs) = BitVec.ofNat 64 n ∧
     phaseResult .vote n (x :: xs) = BitVec.ofNat 64
       (count + (if count = xs.length + 1 then 2 ^ 32 else 0) + if count = 0 then 0 else 2 ^ 33) ∧
     phaseResult (.red 0 rm) n (x :: xs) = xs.foldl (· + ·) x ∧
     (let f64 (v : Word64) : FVal := Fmt.f64.val v.toNat
      let f32 (v : Word64) : FVal := Fmt.f32.val (v.toNat % 2 ^ 32)
      let mode := Rm.ofBits rm
      phaseResult (.red 1 rm) n (x :: xs) =
        xs.foldl (fun a v => BitVec.ofNat 64 (Fmt.f64.round (FVal.sum [f64 a, f64 v] mode) mode false)) x ∧
      phaseResult (.red 2 rm) n (x :: xs) =
        xs.foldl (fun a v => BitVec.ofNat 64 (Fmt.f32.round (FVal.sum [f32 a, f32 v] mode) mode false))
          (BitVec.ofNat 64 (x.toNat % 2 ^ 32)) ∧
      phaseResult (.red 7 rm) n (x :: xs) = xs.foldl (fun a v => BitVec.ofNat 64 (Fmt.f64.minMax false a.toNat v.toNat)) x ∧
      phaseResult (.red 8 rm) n (x :: xs) = xs.foldl (fun a v => BitVec.ofNat 64 (Fmt.f64.minMax true a.toNat v.toNat)) x) ∧
     phaseResult (.red 3 rm) n (x :: xs) = xs.foldl (fun a v => if v.slt a then v else a) x ∧
     phaseResult (.red 4 rm) n (x :: xs) = xs.foldl (fun a v => if v.ult a then v else a) x ∧
     phaseResult (.red 5 rm) n (x :: xs) = xs.foldl (fun a v => if a.slt v then v else a) x ∧
     phaseResult (.red 6 rm) n (x :: xs) = xs.foldl (fun a v => if a.ult v then v else a) x ∧
     phaseResult (.red 9 rm) n (x :: xs) = xs.foldl (· &&& ·) x ∧
     phaseResult (.red 10 rm) n (x :: xs) = xs.foldl (· ||| ·) x ∧
     phaseResult (.red 11 rm) n (x :: xs) = xs.foldl (· ^^^ ·) x)

/-! ### Copies, matrices and trees. -/

/-- R266 to R268: LDSHAPE and STSHAPE. LDSHAPE reads the 64 bytes of a record, checks it, and writes the shape register; STSHAPE
writes the register's record. R281 to R283: SHUF. A valid program over two disjoint parts of the window joins the queue of
its core. Choices of the model: TRAPDATA 0 of 0x1F0 to 0x1F3 (log 23), the plain address in that of 0x117 and 0x111 (log 24), STSHAPE
tests its address before its shape (log 98). -/
def Obligations.ShapeShuffleWordResults : Prop :=
  (∀ (s t : State) (o : OpR) (got : Tab Nat) (ws : List Word64) (c : BitVec 10),
     let va := (s.S o.a).toNat
     let h := o.d.toNat % 8
     let both (p : Instr → Prop) : Prop := p (.ldshape o) ∧ p (.stshape o)
     s.Fresh →
     (va % 64 ≠ 0 → both (fun i => Traps (exec i s) s 0x0A0 (BitVec.ofNat 64 (o.a.toNat + va % 2 ^ 32 * 2 ^ 32)))) ∧
     (va % 64 = 0 → 2 ^ 57 ≤ va → Traps (exec (.ldshape o) s) s 0x117 (s.S o.a) ∧ Traps (exec (.stshape o) s) s 0x111 (s.S o.a)) ∧
     (va % 64 = 0 → va < 2 ^ 57 →
       (s.flown false { type := 7, reqs := [{ lane := 0, va := va, op := .read 64 }] } = some (t, got) →
         let ws := wordsOf 8 (Tab.get got 0 0)
         (shapeFault ws = none → exec (.ldshape o) s = .next (t.writes 0 [.h h (some ws)])) ∧
         (shapeFault ws = some c → Traps (exec (.ldshape o) s) t c 0)) ∧
       (s.H h = none → Traps (exec (.stshape o) s) s 0x1C0 (BitVec.ofNat 64 (h * 8))) ∧
       (s.H h = some ws →
         s.flown false { type := 1, commits := true, reqs := [
           { lane := 0, va := va, op := .write 64 (pack 64 (ws.map (fun x => x.toNat))) }] } = some (t, got) →
         exec (.stshape o) s = .next t.progressed.ended))) ∧
  (∀ (s t : State) (o : OpR) (oi : OpI),
     let starts (i : Instr) (ofs cw : Word64) (steps : List Word64) : Prop :=
       let w := (steps.headD 0).toNat
       let n := stepCount w
       let e := 4 * 2 ^ stepSize w
       let dofs := bitsOf ofs.toNat 17 0
       let sofs := bitsOf ofs.toNat 35 18
       let last := if stepMode w = 2 then stepP w 2 + (n - 1) * stepP w 1 else n - 1
       let x : Shuffle := { wg := t.w.wg, rplc := t.g.rplc, task := t.g.task, n := n, e := e, steps := steps, dofs := dofs,
                            sofs := sofs, cw := cw }
       (∀ j, badStep (steps.map (fun w => w.toNat)) = some j →
         Traps (exec i s) s.commit 0x1C8 (BitVec.ofNat 64 (j % 2 ^ 32 * 2 ^ 32))) ∧
       (badStep (steps.map (fun w => w.toNat)) = none → ofs.toNat < 2 ^ 36 → sofs + (last + 1) * e ≤ s.window →
         dofs + n * e ≤ s.window → dofs + n * e ≤ sofs ∨ sofs + (last + 1) * e ≤ dofs →
         (∀ k, s.commit.namedCount s.engineActor cw k = k t) →
         let c := t.core t.focus.core
         (c.shuffles.length < 16 → exec i s =
           .next (t.setCore t.focus.core { c with shuffles := c.shuffles ++ [x] }).ended) ∧
         (16 ≤ c.shuffles.length → Parks (exec i s) .busy (fun u => SameMemory t u)))
     starts (.shufR o) (s.S o.d) (s.S o.b)
       ((List.range (o.xm.toNat % 4 + 1)).map (fun i => s.S (BitVec.ofNat 6 (o.a.toNat + i)))) ∧
     starts (.shufI oi) (s.S oi.d) (s.S oi.a) [BitVec.ofNat 64 (oi.immN / 32 % 4 * 4 + oi.immN % 32 * 2 ^ 16)])

/-- R264, R272, R275 to R277: CPY and CPYM. A copy that passes its checks takes a free slot of its workgroup and commits the
warp; with no free slot it waits. -/
def Obligations.CopyWordResults : Prop :=
  ∀ (s t u : State) (o : OpR) (oi : OpI) (a b : List Word64) (got : Tab Nat),
    let hs := o.a.toNat % 8
    let hd := o.d.toNat % 8
    let src := Shape.of a
    let dst := Shape.of b
    let forks (i : Instr) (v : State) (x : Copy) : Prop :=
      (∀ k, v.freeCopySlot = some k → exec i s = .next ((v.setCopy v.focus.core k
        { x with wg := some v.w.wg, rplc := v.g.rplc, task := v.g.task, linear := v.g.linear }).ended)) ∧
      (v.freeCopySlot = none → Parks (exec i s) .busy (fun u => SameMemory v u))
    let passes (x : Copy) (hs hd : Nat) : Prop :=
      (∀ k, s.commit.namedCount s.engineActor x.cw k = k t) ∧ x.rangeFault hs hd = none ∧
      (x.srcScr = true → hullOut x.srcHull t.window = none) ∧ (x.dstScr = true → hullOut x.dstHull t.window = none)
    let apart (x : Copy) : Prop := x.srcScr = x.dstScr → hullsMeet x.srcHull x.dstHull 0 = false
    -- CPY of two shape registers, with its origin
    (s.H hs = some a → s.H hd = some b → s.t.desc.cslots ≠ 0 → src.esize = dst.esize →
      let org := if o.cv then (List.range 4).map (fun i => (s.S o.creg).toNat / 2 ^ (16 * i) % 2 ^ 16) else [0, 0, 0, 0]
      let odst := o.sub.getLsbD 0
      let x : Copy := { src := src, dst := dst, origin := org, odst := odst, srcScr := o.xm.getLsbD 0,
                        dstScr := o.xm.getLsbD 1, cw := s.S o.b, it := if odst then src.ext else dst.ext }
      passes x hs hd → apart x → forks (.cpyR o) t x) ∧
    -- CPY of n elements of 16 bytes
    (let n := oi.immN / 4
     let line (v : Word64) : Shape := { base := v.toNat, esize := 4, ext := [n, 1, 1, 1], str := [16, 0, 0, 0] }
     let x : Copy := { src := line (s.S oi.a), dst := line (s.S oi.d), origin := [0, 0, 0, 0], srcScr := oi.immN % 2 = 1,
                       dstScr := oi.immN / 2 % 2 = 1, cw := s.S (oi.d + 1), it := [n, 1, 1, 1] }
     s.t.desc.cslots ≠ 0 → (s.S oi.a).toNat % 16 = 0 → (s.S oi.d).toNat % 16 = 0 →
     passes x 0 0 → apart x → forks (.cpyI oi) t x) ∧
    -- CPYM: the list of landing handles is read, and each must name a core of this die
    (s.H hs = some a → s.H hd = some b → s.t.desc.cslots ≠ 0 → src.esize = dst.esize →
      let n := o.xm.toNat % 16 + 1
      let list := (s.S o.creg).toNat
      let x : Copy := { src := src, dst := dst, origin := [0, 0, 0, 0], srcScr := o.xm.getLsbD 4, dstScr := true,
                        cw := s.S o.b, it := dst.ext }
      let handles : List Word64 := (List.range n).map (fun i => BitVec.ofNat 64 (Tab.get got 0 i))
      s.f.flight = none → t.Fresh → passes x hs hd → list % 8 = 0 →
      t.flown false { type := 7, reqs := (List.range n).map (fun i => { lane := i, va := list + 8 * i, op := .read 8 }) } =
        some (u, got) →
      (∀ h ∈ handles, landCore h < 192 ∧ dieOf (landCore h) = u.die ∧ h.getLsbD 31 = false) →
      (x.srcScr = true → ∀ h ∈ handles, landCore h = u.focus.core → landWg h = u.w.wg → landStamp h = u.g.rplc →
        hullsMeet x.srcHull x.dstHull (landOfs h) = false) →
      forks (.cpym o) u { x with items := handles.map (fun h => { handle := h }) }) ∧
    -- what stops them
    (s.H hs = none → Traps (exec (.cpyR o) s) s.commit 0x1C0 (BitVec.ofNat 64 (hs * 8))) ∧
    (s.H hs = some a → s.H hd = none → Traps (exec (.cpyR o) s) s.commit 0x1C0 (BitVec.ofNat 64 (4 + hd * 8))) ∧
    (s.t.desc.cslots = 0 → Traps (exec (.cpyI oi) s) s.commit 0x1C5 0)

/-- R285 to R289, R298 and R299: MPROG, MRD, MWR, MZERO and MSCL. A word on a tile reads or changes the rows of the lanes that
its fragment holds, and no other value of the tile. -/
def Obligations.MatrixWordResults : Prop :=
  ∀ (s u : State) (o : OpR) (oi : OpI) (got : Tab Nat) (v : Nat),
    let x := s.S o.a
    let y := s.S o.b
    let cfg := Mcfg.of (x, y)
    let index (k : Nat) : Prop := k / 256 < 3 ∧ k % 256 < 192
    let reads (i : Instr) (t d k : Nat) : Prop := exec i s = .next ((s.noteTile t).writes 0
      ((lanesOf s.active).map (fun l => .v d l ⟨s.tileAt t (32 * (k / 256) + l) (k % 256), .f32⟩)))
    let changes (i : Instr) (t : Nat) (new : Nat → Nat → Word32 → Word32) : Prop :=
      s.TileReady t → (∀ r, (s.g.row t r).length = 192) →
      Completes (exec i s) (fun u => u.mem = s.mem ∧ ∀ r c, r < 96 → c < 192 →
        u.tileAt t r c = if s.active.getLsbD (r % 32) then new r c (s.tileAt t r c) else s.tileAt t r c)
    let mwr (i : Instr) (t a k : Nat) : Prop := index k → s.active ≠ 0 → s.Tagged .f32 a →
      changes i t (fun r c old => if r / 32 = k / 256 ∧ c = k % 256 then (s.V a (r % 32)).val else old)
    -- MPROG
    (x.toNat < 2 ^ 21 → cfg.lda % cfg.es = 0 → cfg.ldb % cfg.es = 0 →
      exec (.mprog o) s = .next (s.setW { s.w with mcfg := some (x, y) }).ended) ∧
    (¬(x.toNat < 2 ^ 21 ∧ cfg.lda % cfg.es = 0 ∧ cfg.ldb % cfg.es = 0) →
      ∃ d, Traps (exec (.mprog o) s) (s.setW { s.w with mcfg := none }) 0x1D1 d) ∧
    -- MRD, MWR, MZERO
    (index y.toNat → reads (.mrdR o) (o.a.toNat % 4) o.d.toNat y.toNat) ∧
    reads (.mrdI oi) (oi.a.toNat % 4) oi.d.toNat oi.immN ∧
    (¬index y.toNat → Traps (exec (.mrdR o) s) s 0x1D4
      (BitVec.ofNat 64 (o.a.toNat % 4 + 3 * 4 + min y.toNat (2 ^ 32 - 1) * 2 ^ 32))) ∧
    mwr (.mwrR o) (o.d.toNat % 4) o.a.toNat y.toNat ∧ mwr (.mwrI oi) (oi.d.toNat % 4) oi.a.toNat oi.immN ∧
    changes (.mzero o) (o.d.toNat % 4) (fun _ _ _ => 0) ∧
    -- the first write of a persistent tile since its keeper's mark: its backing takes the tile as it stood, the warp keeps it
    (let t := o.d.toNat % 4
     let n := s.noteTile t
     let kept := Tab.find n.g.keeper t
     n.t.desc.persist.getLsbD t = true → kept = none ∨ (kept = some n.w.warpId ∧ t ∉ n.g.written) →
     n.writeBacking n.focus.core n.g.task (n.g.tilePages n.t.desc t) (n.g.tileBytes t) = (.ok v, u) →
     let u' := u.setG { u.g with keeper := Tab.set n.g.keeper t n.w.warpId, written := addNat n.g.written t }
     (∀ next, n.tileWrite t next = next u') ∧
     exec (.mzero o) s = .next (u'.setG (u'.g.mapRows t u'.tileRows (fun _ xs => xs.map (fun _ => 0)))).ended) ∧
    -- MSCL: n scale columns from the first on take the image
    (let a := x.toNat
     let n := bitsOf y.toNat 6 3
     let t := o.d.toNat % 4
     s.Fresh → a % 64 = 0 → 0 < n → n ≤ 8 → bitsOf y.toNat 2 0 + n ≤ 8 → y.toNat < 2 ^ 7 →
     (o.m = true → a + 512 * n ≤ s.window) →
     (s.noteTile t).flown false { type := 5, reqs := imageReqs o.m a n } = some (u, got) →
     exec (.mscl o) s = .next ((u.putScales t (bitsOf y.toNat 2 0) n a { got := got }).ended))

/-- R290 to R295 and R300: MMA and MST whose accesses all end at once; then what one block adds to an element, and what the
control step does first. Choices of the model: the stride of MST is a natural number, and a block's lines are read once, in ascending
order where every access ends at once (log 35). -/
def Obligations.MatrixProductResults : Prop :=
  ∀ (s u : State) (o : OpR) (cfg : Word64 × Word64) (x : Mma) (fl : Flight) (i r c ctl gamma : Nat),
    let t := o.d.toNat % 4
    let gang := o.sub.getLsbD 2
    let off := s.gangOffset gang
    (x = { m := Mcfg.of cfg, t := t, a := (s.S o.a).toNat, b := (s.S o.b).toNat, ro := off.1, co := off.2,
           scol := o.xm.toNat % 8 } →
      let m := x.m
      s.Fresh → s.active ≠ 0 → s.whole = true → s.w.mcfg = some cfg → s.TileReady t →
      (if m.fmt = 0 then x.scol + m.blocks ≤ 8 else x.scol = 0) → (gang = true → s.t.gang ≠ 1) →
      x.a % m.es = 0 → x.b % m.es = 0 →
      (m.ascr = true → ∀ r ∈ s.tileRows, x.aAddr r m.k ≤ s.window) →
      (m.bscr = true → (if m.tb then x.bAddr m.k 191 else x.bAddr (m.k - 1) 192) ≤ s.window) →
      State.mmaDone x (m.blocks + 1) 0 [] ((s.noteTile t).mmaControl x (o.sub.toNat % 4) ((s.S o.creg).toNat % 2 ^ 32)) =
        some u →
      exec (.mma o) s = .next u.endRows.ended) ∧
    (let scr := o.xm.getLsbD 0
     let gang := o.xm.getLsbD 1
     let es := if o.m then 2 else 4
     let stride := (s.S o.b).toNat
     let off := s.gangOffset gang
     let addr (r : Nat) : Nat := (s.S o.a).toNat + (off.1 + r) * stride + off.2 * es
     s.Fresh → s.active ≠ 0 → s.whole = true → (gang = true → s.t.gang ≠ 1) → (s.S o.a).toNat % es = 0 → stride % es = 0 →
     (scr = true → ∀ r ∈ s.tileRows, addr r + 192 * es ≤ s.window) →
     let n := s.noteTile t
     State.mstDone t o.m scr addr 97 0 (n.begun false { commits := !scr } (n.mstPool t o.m scr addr {})) = some u → exec (.mst o) s = .next u.endRows.ended) ∧
    -- one block: the exact sum of its products, rounded once with the old value
    (let m := x.m
     let val (scr : Bool) (a : Nat) : FVal := m.format.val (fl.bytesAt scr a m.es)
     let dot := FVal.sum ((x.ks i).map (fun k => (val m.ascr (x.aAddr r k)).mul (val m.bscr (x.bAddr k c))) ++
       List.replicate (m.block - (x.ks i).length) (.fin false 0 0)) .rn
     let scale (j : Nat) : FVal := Fmt.f32.val (s.g.scale x.t (x.scol + i) j).toNat
     let p := if m.fmt = 0 then dot.mul ((scale r).mul (scale (96 + ((x.co + c) / 128 - x.co / 128)))) else dot
     r < 96 → c < 192 → (s.g.row x.t r).length = 192 →
     (s.mmaBlock x fl i).tileAt x.t r c = if s.active.getLsbD (r % 32) then
       BitVec.ofNat 32 (Fmt.f32.round (FVal.sum [Fmt.f32.val (s.tileAt x.t r c).toNat, p] .rn) .rn false) else s.tileAt x.t r c) ∧
    (r < 96 → c < 192 → (s.g.row x.t r).length = 192 →
     (s.mmaControl x ctl gamma).tileAt x.t r c = if s.active.getLsbD (r % 32) then (match ctl with
       | 1 => 0
       | 2 => BitVec.ofNat 32 (Fmt.f32.round ((Fmt.f32.val gamma).mul (Fmt.f32.val (s.tileAt x.t r c).toNat)) .rn false)
       | _ => s.tileAt x.t r c) else s.tileAt x.t r c)

/-- R303, R304, R308, R309, R312 to R318: the tree words, when none of their accesses waits or faults. TSLEAF takes the oldest
entry of a tree's ring under the tree's lock; TSSTAT reports; the others run through their stages. Choices of the model: the lock is
held over several accesses (log 38), the ring's count word is tested before NO_CTX (log 31), the probe of TSROOT (log 75). -/
def Obligations.TreeWordResults : Prop :=
  ∀ (s t1 t2 t3 u : State) (o : OpR) (i k v e w : Nat) (r b : Word64) (got : Tab Nat),
    let s0 := s
    let c := s.commit
    let x := c.ctx i
    let gives (j : Instr) (t : State) (v : Word64) : Prop := exec j s = .next (t.writesS 0 o.d v)
    let ok (s : State) (va : Nat) (op : MemOp) (v : Nat) (t : State) : Prop := s.access s.treeActor none va op = (.ok v, t)
    let runs (j : Instr) (step : State → TreeStage → Micro) (t : State) (st : TreeStage) : Prop :=
      t.whole = true → State.treeDone step treeFuel t st = some (u, r) → gives j u.landed r
    s.f.flight = none →
    -- TSLEAF
    (s.TreeAt (s.S o.a) i → c.ctxTaken i = false → runs (.tsleaf o) (fun s st => s.leafStep i st) c .leafRing) ∧
    (let head := descWord v 48
     (s.treeHeld (s.ctx i) s.me = false → ok (s.lockTree i) (s.ctx i).addr (.read 128) v t1 →
       s.leafStep i .leafRing = if head = descWord v 52 then .done (t1.unlockTree i) (BitVec.allOnes 64)
         else .go t1 (.leafEntry head)) ∧
     (ok s ((s.ctx i).rbase + 16 * (w % 2 ^ (s.ctx i).rlog)) (.read 16) e t1 →
       s.leafStep i (.leafEntry w) = .go t1 (.leafHead w e)) ∧
     (ok s ((s.ctx i).addr + 48) (.write 4 (w + 1)) v t1 →
       s.leafStep i (.leafHead w e) = .done (t1.unlockTree i) (BitVec.ofNat 64 e))) ∧
    -- TSSTAT
    (s.TreeAt (s.S o.a) i → ok s (s.ctx i).addr (.read 128) v t1 → gives (.tsstat o) t1 (BitVec.ofNat 64
      (if o.b = 0 then descWord v 12 + v / 2 ^ 224 % 16 * 2 ^ 32 + (if (s.ctx i).walk.isSome then 2 ^ 36 else 0)
       else if o.b = 1 then descWord v 56 + t1.slotsOf i * 2 ^ 32
       else if o.b = 2 then (descWord v 52 + 2 ^ 32 - descWord v 48) % 2 ^ 32 + descWord v 52 * 2 ^ 32
       else ((List.range 8).map (fun j => if descWord v (64 + 4 * j) ≠ 2 ^ 32 - 1 then 2 ^ j else 0)).sum))) ∧
    -- TSBIND: the release of a context, and the binding of a descriptor
    (o.m = true → s.TreeAt (s.S o.a) i →
      (0 < c.slotsOf i ∨ x.walk.isSome = true → gives (.tsbind o) c (BitVec.ofInt 64 (-3))) ∧
      (c.slotsOf i = 0 → x.walk = none → c.ctxTaken i = false → c.treeHeld x c.me = false →
        runs (.tsbind o) (fun s st => s.unbindStep st) c (.unbindOwn i))) ∧
    (ok s ((s.ctx i).addr + 96) (.node .free) v t1 →
      s.unbindStep (.unbindOwn i) = .done (t1.setCtx i { gen := (s.ctx i).gen }) 0) ∧
    (o.m = false → (s.S o.a).toNat % 128 = 0 → ok c (s.S o.a).toNat (.read 128) v t1 →
      (∀ off, descFault v = some off → Traps (exec (.tsbind o) s) t1 0x202 (BitVec.ofNat 64 (off % 2 ^ 32))) ∧
      (descFault v = none → (∀ next, t1.namedCount t1.treeActor (BitVec.ofNat 64 (v / 2 ^ 320)) next = next t2) →
        let taken (e : Nat × TreeCtx) : Bool := e.2.bound || t2.treeHeld e.2 t2.me
        let free := firstFree ((t2.spinel.ctxs.filter taken).map (fun e => e.1)) 0 16
        (free = none → gives (.tsbind o) t2 (BitVec.allOnes 64)) ∧
        (free = some k → runs (.tsbind o) (fun s st => s.bindStep (s0.S o.a).toNat st) (t2.lockTree k) (.bindOwn v k)))) ∧
    -- TSDESC
    (s.TreeAt (s.S o.a) i → c.ctxTaken i = false →
      let free := firstFree ((c.spinel.slots.filter (fun e => e.2.held)).map (fun e => e.1)) 0 64
      (free = none → gives (.tsdesc o) c (BitVec.ofNat 64 (5 * 2 ^ 56))) ∧
      (free = some k → runs (.tsdesc o) (fun s st => s.descStep st)
        (c.setSlot k { gen := ((c.slot k).gen + 1) % 1024, held := true, ctx := i }) (.descRoot k))) ∧
    (let va := (s.ctx (s.slot k).ctx).addr
     ok s va (.read 128) v t1 → s.descStep (.descRoot k) = .go t1 (.descNode k (descWord v 12))) ∧
    -- TSEXP and TSBACK on the slot that a reference names
    (ok s ((s.ctx (s.slot k).ctx).node (s.slot k).leaf) (.node .term) v t1 →
      s.termStep k = .done t1 (if nodeExp v then 1 else 0)) ∧
    (s.SlotAt (s.S o.a) k → c.slotTaken k = false →
      let n := o.xm.toNat % 64 + 1
      let sb := (s.S o.b).toNat
      (o.m = true → runs (.tsexp o) (fun s _ => s.termStep k) c .expTerm) ∧
      (o.m = false → sb % 8 ≠ 0 → Traps (exec (.tsexp o) s) c 0x0A0 (BitVec.ofNat 64 (o.b.toNat + sb % 2 ^ 32 * 2 ^ 32))) ∧
      (o.m = false → sb % 8 = 0 → c.priorReads sb n [] = (t1, got, none) →
        runs (.tsexp o) (fun s st => s.expStep k n st)
          (t1.setF { t1.f with flight := some { got := joinPieces sb n got } }) .expAlloc) ∧
      (backValue o.m (o.xm.getLsbD 0) (s.S o.b) = .ok b →
        runs (.tsback o) (fun s _ => s.backStep k b (o.xm.getLsbD 0)) c .back)) ∧
    -- TSROOT
    (s.TreeAt (s.S o.a) i →
      (0 < c.slotsOf i ∨ x.walk.isSome = true → gives (.tsroot o) c 1) ∧
      (c.slotsOf i = 0 → x.walk = none → c.ctxTaken i = false → ok c x.addr (.read 128) v t1 →
        runs (.tsroot o) (fun s st => s.rootStep i (s0.S o.b).toNat o.m st) t1 (.rootNode (descWord v 12))))

/-- R305, R306, R312, R315 to R317: what each operation of the engine does to the fields of a node: its visits N, its virtual
losses VL, its total W, its children, and the flags EXP, TERM and PEND; a new child. Then what the stages of TSDESC, TSEXP, TSBACK
and TSROOT do when their access ends with the value `v`: where a descent goes on or ends, with its leaf, slot, depth and status, the
child that it chooses (R310), its undoing; the block of an expansion, ALREADY, POOL_EMPTY and the freeing of the slot; the sign by
depth of a backup; BAD_CHILD, and the blocks that a walk frees. Choices of the model: the tree's lock over several accesses (log 38),
the probe of TSROOT (log 75). -/
def Obligations.TreeNodeResults : Prop :=
  (∀ (v blk n : Nat) (mark count clear : Bool) (x : Word64),
    let total (v : Nat) : Nat := bitsOf v 127 64
    let kids (v : Nat) : Bool × Nat × Nat := (nodeExp v, nodeChild v, nodeNch v)
    v < 2 ^ 512 → blk < 2 ^ 32 → n < 2 ^ 8 →
    (let w := nodeNew (.visit mark) v
     nodeVl w = (nodeVl v + 1) % 2 ^ 16 ∧ nodeN w = nodeN v ∧ total w = total v ∧ kids w = kids v ∧ nodeTerm w = nodeTerm v ∧
     nodePend w = (nodePend v || (mark && !nodeExp v && !nodeTerm v))) ∧
    (let w := nodeNew (.leave clear) v
     nodeVl w = (nodeVl v + 2 ^ 16 - 1) % 2 ^ 16 ∧ nodeN w = nodeN v ∧ total w = total v ∧ kids w = kids v ∧
     nodePend w = (nodePend v && !clear)) ∧
    (let w := nodeNew (.backup x count clear) v
     nodeVl w = (nodeVl v + 2 ^ 16 - 1) % 2 ^ 16 ∧ kids w = kids v ∧
     nodeN w = (if count then (nodeN v + 1) % 2 ^ 32 else nodeN v) ∧
     total w = (if count then (total v + x.toNat) % 2 ^ 64 else total v) ∧
     nodePend w = (nodePend v && !(clear && !nodeExp v))) ∧
    (let w := nodeNew (.link blk n) v
     if nodeExp v ∨ nodeTerm v then w = v
     else kids w = (true, blk, n) ∧ nodePend w = false ∧ nodeVl w = nodeVl v ∧ nodeN w = nodeN v ∧ total w = total v) ∧
    (nodeTerm (nodeNew .term v) = (nodeTerm v || !nodeExp v)) ∧ (nodeExp v = true → nodeNew .term v = v) ∧
    (nodePend (nodeNew .unpend v) = false ∧ kids (nodeNew .unpend v) = kids v) ∧
    nodeNew .orphan v % 2 ^ 224 = v % 2 ^ 224 ∧ bitsOf (nodeNew .orphan v) 255 224 = 2 ^ 32 - 1) ∧
  (∀ (gen leaf n arr i : Nat), gen < 16 → leaf < 2 ^ 32 → i < n →
    let w := newNode gen leaf n arr i
    nodeN w = 0 ∧ nodeVl w = 0 ∧ nodeNch w = 0 ∧ nodeExp w = false ∧ nodeTerm w = false ∧ nodePend w = false ∧
    bitsOf w 63 60 = gen ∧ bitsOf w 127 64 = 0 ∧ bitsOf w 191 128 = arr / 2 ^ (64 * i) % 2 ^ 64 ∧ nodeChild w = 2 ^ 32 - 1 ∧
    bitsOf w 255 224 = leaf) ∧
  (∀ (s t : State) (k n x v j : Nat) (y d : Word64) (pend : Bool) (c : BitVec 10) (fl : Flight),
    let p := s.slot k
    let tr := s.ctx p.ctx
    let ok (s : State) (va : Nat) (op : MemOp) : Prop := s.access s.treeActor none va op = (.ok v, t)
    -- a descent ends: the leaf, the slot's handle, the depth and the status
    let ended (u : State) (st : Nat) : Micro :=
      let q := u.slot k
      .done (u.setSlot k { q with status := st, progress := some q.depth })
        (BitVec.ofNat 64 (q.leaf + q.handle k * 2 ^ 32 + q.depth * 2 ^ 48 + st * 2 ^ 56))
    -- TSDESC at a node
    (x < tr.nodes → ok s (tr.node x) (.node (.visit (p.path.length < 128))) →
      let step := s.descStep (.descNode k x)
      let deep := p.path.length = 128
      let u := t.setSlot k { t.slot k with path := p.path ++ [x] }
      (nodeTerm v = true → step = ended u 1) ∧
      (nodeTerm v = false → nodeExp v = false → nodePend v = true → step = ended u 2) ∧
      (nodeTerm v = false → nodeExp v = false → nodePend v = false → deep → step = ended u 3) ∧
      (nodeTerm v = false → nodeExp v = false → nodePend v = false → ¬deep → step = .go u (.descEntry k (nodeAct v))) ∧
      (nodeTerm v = false → nodeExp v = true → deep → step = ended u 3) ∧
      (nodeTerm v = false → nodeExp v = true → ¬deep → 0 < nodeNch v → nodeNch v ≤ 64 → nodeChild v + nodeNch v ≤ tr.nodes →
        step = .go u (.descKids k (nodeN v) (nodeChild v) (nodeNch v)))) ∧
    (tr.nodes ≤ x → s.descStep (.descNode k x) = .go s (.undo k p.path.length false 0x204 (treeData x p.path.length))) ∧
    -- the choice among the children, when they have all been read: no score is better, and none before it as good
    (0 < n → s.upset = none → s.f.flight = some fl → fl.got.length = n → (∀ i, i < n → (Tab.find fl.got i).isSome = true) →
      let root := Fmt.f32.round (FVal.sqrt (FVal.ofInt v)) .rn false
      let sc (i : Nat) : FVal := score tr root (Tab.get fl.got 0 i)
      ∃ b, b < n ∧ s.descStep (.descKids k v x n) = .go (s.setF { s.f with flight := some { fl with got := [] } }) (.descNode k (x + b)) ∧
        ∀ i, i < n → better (sc i) (sc b) = false ∧ (i < b → better (sc b) (sc i) = true)) ∧
    -- the undoing of a descent, and the freeing of its slot
    (ok s (tr.node (p.path.getD j 0)) (.node (.leave (pend && j = p.depth))) →
      s.descStep (.undo k (j + 1) pend c d) = .go t (.undo k j pend c d)) ∧
    s.descStep (.undo k 0 pend c d) = .trap (s.freeSlot k) c d ∧
    -- the append of a new leaf
    (s.treeHeld tr s.me = false → ok (s.lockTree p.ctx) tr.addr (.read 128) → s.descStep (.descEntry k n) =
      if 2 ^ tr.rlog ≤ (descWord v 52 + 2 ^ 32 - descWord v 48) % 2 ^ 32 then .go (t.unlockTree p.ctx) (.descFull k)
      else .go t (.descWrite k n (descWord v 52))) ∧
    (ok s (tr.rbase + 16 * (x % 2 ^ tr.rlog)) (.write 16 (p.leaf + p.handle k * 2 ^ 32 + p.depth * 2 ^ 48 + n * 2 ^ 64)) →
      s.descStep (.descWrite k n x) = .go t (.descTail k x)) ∧
    (ok s (tr.addr + 52) (.write 4 (x + 1)) → s.descStep (.descTail k x) = .go t (.descCount k)) ∧
    (tr.rcw = 0 → s.descStep (.descCount k) = ended (s.unlockTree p.ctx) 0) ∧
    (tr.rcw ≠ 0 → ok s tr.rcw.toNat (.cwAdd 1 true) → s.descStep (.descCount k) = ended (t.unlockTree p.ctx) 0) ∧
    (ok s (tr.node p.leaf) (.node .unpend) → s.descStep (.descFull k) = ended t 4) ∧
    -- TSEXP: the block, or none
    (let g := granules n
     let head := descWord v (64 + 4 * (g - 1))
     s.treeHeld tr s.me = false → ok (s.lockTree p.ctx) tr.addr (.read 128) → s.expStep k n .expAlloc =
      if head ≠ 2 ^ 32 - 1 then .go t (.expHead (v / 2 ^ 224 % 16) head)
      else if descWord v 56 + 8 * g ≤ tr.nodes then .go t (.expTake (v / 2 ^ 224 % 16) (descWord v 56) 56 (descWord v 56 + 8 * g))
      else .go (t.unlockTree p.ctx) (.expUndo (p.depth + 1))) ∧
    (ok s (tr.node x) (.read 64) → s.expStep k n (.expHead j x) = .go t (.expTake j x (64 + 4 * (granules n - 1)) (nodeChild v))) ∧
    (ok s (tr.node p.leaf) (.node (.link x n)) → s.expStep k n (.expLink x) =
      if nodeExp v || nodeTerm v then .go t (.expFree x none 0 0) else .done t 0) ∧
    -- ALREADY: the block is free again; POOL_EMPTY: the path has lost its virtual losses, and the slot is free
    (ok (s.lockTree p.ctx) (tr.addr + 64 + 4 * (granules n - 1)) (.write 4 x) →
      s.expStep k n (.expFree x none 2 j) = .done (t.unlockTree p.ctx) 1) ∧
    (ok s (tr.node (p.path.getD j 0)) (.node (.leave false)) → s.expStep k n (.expUndo (j + 1)) = .go t (.expUndo j)) ∧
    s.expStep k n (.expUndo 0) = (if p.status = 0 then .go s .expPend else .done (s.freeSlot k) 2) ∧
    (ok s (tr.node p.leaf) (.node .unpend) → s.expStep k n .expPend = .done (t.freeSlot k) 2) ∧
    -- TSBACK: from the leaf to the root, with the sign of the side
    (p.progress = some j →
      ok s (tr.node (p.path.getD j 0)) (.node (.backup (if (p.depth - j) % 2 = 0 then y else -y) (!pend) (j = p.depth && p.status = 0))) →
      let u := t.setSlot k { p with progress := if j = 0 then none else some (j - 1) }
      s.backStep k y pend = if j = 0 then .done (u.freeSlot k) (BitVec.ofNat 64 (p.depth + 1)) else .go u .back)) ∧
  (∀ (s t : State) (i k p v child nch og : Nat) (reclaim : Bool),
    let tr := s.ctx i
    let ok (va : Nat) (op : MemOp) : Prop := s.access s.treeActor none va op = (.ok v, t)
    let c := child + k
    -- TSROOT: BAD_CHILD; the test of the node; ROOT and the retired block; the walk
    (ok (tr.node p) (.read 64) → s.rootStep i k reclaim (.rootNode p) =
      if nodeExp v = false ∨ nodeNch v ≤ k then .done t 2 else .go t (.rootProbe (nodeChild v) (nodeNch v))) ∧
    (s.probe s.treeActor (tr.node c) (.write 64 0) = (.ok v, t) →
      s.rootStep i k reclaim (.rootProbe child nch) = .go t (.rootSwap child nch)) ∧
    (ok tr.addr (.node (.swap c child (granules nch))) →
      s.rootStep i k reclaim (.rootSwap child nch) = .go t (.rootParent child nch (descWord v 60) (v / 2 ^ 776 % 16))) ∧
    (ok (tr.node c) (.node .orphan) →
      let others := ((List.range nch).filter (fun j => j ≠ k)).map (fun j => (child + j, 0, false))
      let old := if p = 2 ^ 32 - 1 then [] else [(p, og, true)]
      s.rootStep i k reclaim (.rootParent child nch p og) = .done (if reclaim then t.setCtx i
        { t.ctx i with walk := some (old ++ others), task := t.g.task } else t) 0))

/-! ### Steps of the hardware. -/

/-- R32 to R38, R211, R377, R380, R381 and R393: the host's writes of queue, device and event-log registers, and the steps
of the queue engines. Choices of the model: which queue intake begins with (log 79), where a record goes after EN was
cleared (log 78), when an event-log entry stands in the ring (log 74), a register write waits for the held writes of its stream
(log 84), how much of a slot is read (log 83), the packet of an upcall holds what the pager's entry said when it was taken (log 96). -/
def Obligations.QueueEventResults : Prop :=
  ∀ (s u w : State) (by_ : Stream) (qn : Fin 32) (v : BitVec 32) (y : BitVec 64) (off : BitVec 30) (bytes : Fin 4097)
    (entry : Fin 64) (task : Nat) (k : Task) (f g : List Nat) (up : Upcall),
    let dev := by_.fn
    let d := dev.val
    let q := qn.val
    let x := s.queue d q
    let diff (a b : Nat) : Nat := (a + 2 ^ 32 - b) % 2 ^ 32
    let sets (i : Instr) (x : Queue) : Prop := exec i s = .next (s.setQueue d q x)
    let running := s.module.fatal = none ∧ (s.device d).drst = false
    -- the host's writes, once the functions are enabled and every earlier write of the stream has been made
    (s.streamHeld by_ = true → exec (.qtailWrite by_ qn v) s = .next s ∧ exec (.registerWrite by_ off bytes y) s = .next s) ∧
    (s.module.ready = true → s.streamHeld by_ = false →
      (x.src = true → sets (.qtailWrite by_ qn v) { x with ign := true }) ∧
      (x.src = false → (2 ^ x.slog < diff v.toNat x.qtail ∨ 2 ^ x.slog < diff v.toNat x.qret) →
        exec (.qtailWrite by_ qn v) s = .next ((s.setQueue d q { x with ovf := true }).logEvent { cause := 0x007 })) ∧
      (x.src = false → diff v.toNat x.qtail ≤ 2 ^ x.slog → diff v.toNat x.qret ≤ 2 ^ x.slog →
        sets (.qtailWrite by_ qn v) { x with qtail := v.toNat }) ∧
      (diff v.toNat x.qchead ≤ diff x.qctail x.qchead → sets (.qcheadWrite by_ qn v) { x with qchead := v.toNat }) ∧
      (diff x.qctail x.qchead < diff v.toNat x.qchead → exec (.qcheadWrite by_ qn v) s = .next s) ∧
      sets (.queueDisable by_ qn) { x with en := false } ∧
      (x.en = false → (x.slog < 4 ∨ 12 < x.slog ∨ x.clog < 4 ∨ 12 < x.clog) →
        sets (.queueEnable by_ qn) { x with cfgerr := true }) ∧
      (x.en = false → 4 ≤ x.slog → x.slog ≤ 12 → 4 ≤ x.clog → x.clog ≤ 12 →
        s.ringFrames d x.qbase (256 * 2 ^ x.slog) = (some f, u) → u.ringFrames d x.qcbase (32 * 2 ^ x.clog) = (some g, w) →
        exec (.queueEnable by_ qn) s = .next (w.setQueue d q { w.queue d q with
          en := true, ringFrames := f, recFrames := g, qhead := x.qtail, qret := x.qtail, qctail := x.qtail,
          qchead := x.qtail, retiredIdx := [] })) ∧
      (bytes.val = 8 → off.toNat % 8 = 0 →
        exec (.registerWrite by_ off bytes y) s = .next (s.writeReg d off.toNat y.toNat .whole)) ∧
      (bytes.val = 4 → off.toNat % 8 = 0 →
        exec (.registerWrite by_ off bytes y) s = .next (s.writeReg d off.toNat (y.toNat % 2 ^ 32) .low)) ∧
      (bytes.val = 4 → off.toNat % 8 = 4 → exec (.registerWrite by_ off bytes y) s =
        .next (s.writeReg d (off.toNat - 4) (y.toNat % 2 ^ 32 * 2 ^ 32) .high)) ∧
      ((bytes.val ≠ 4 ∧ bytes.val ≠ 8) ∨ off.toNat % bytes.val ≠ 0 → exec (.registerWrite by_ off bytes y) s =
        .next (((s.setDevice d { s.device d with indrop := bump32 (s.device d).indrop }).logEvent
          { cause := 0x00B, src := 5, addr := off.setWidth 64 }).send (.aer d)))) ∧
    (s.writeReg d 0xD000 y.toNat .whole).device d =
      { s.device d with ptroot := y.toNat % 2 ^ 57 / 4096 * 4096 } ∧
    -- intake takes the packet at QHEAD
    (running → (∀ t, (s.device d).lastIntake = some t → t + 8 ≤ s.now) → s.nextQueue d = some q →
      s.lineLost (ringAddr x.ringFrames x.qbase (256 * (x.qhead % 2 ^ x.slog))) 256 = false → Ends (exec (.packetIntake dev) s) (fun t =>
      (t.queue d q).qhead = (x.qhead + 1) % 2 ^ 32 ∧ t.mem = s.mem ∧ (t.task s.nextTask).dev = d ∧ (t.task s.nextTask).queue = q ∧
      (t.task s.nextTask).words = (List.range 32).map (fun i => BitVec.ofNat 64
        (s.mem.read (ringAddr x.ringFrames x.qbase (256 * (x.qhead % 2 ^ x.slog)) + 8 * i) 8)))) ∧
    -- a task that is done retires, with its record
    (Tab.find s.tasks task = some k → s.taskDone task = true → (k.kind = 2 → k.phase = .ending) → s.module.fatal = none →
      (s.device k.dev).drst = false → Ends (exec (.taskCompletion task) s) (fun t => task ∉ Tab.keys t.tasks ∧
        (let z := s.queue k.dev k.queue
         let pa := ringAddr z.recFrames z.qcbase (32 * (z.qctail % 2 ^ z.clog))
         k.nsucc = 0 → k.quiet = false → s.lineLost pa 32 = false →
          t.mem = s.mem.write pa 32 (pack 64 [k.seq.toNat, z.qcseq,
            k.result.1 % 256 + k.kind * 256 + k.result.2 % 2 ^ 32 * 2 ^ 32, k.kid.toNat])))) ∧
    (x.ien = true → 0 < x.unsignalled → x.oldest + 4096 ≤ s.now →
      exec (.interruptDelay dev qn) s = .next ((s.setQueue d q { x with unsignalled := 0 }).send (.msix d x.ivec))) ∧
    -- an upcall's task takes its place in its queue
    (let step := s.queueStep d up.queue (s.upcallPacket d entry.val up)
     Tab.find (s.device d).upcalls entry.val = some up → up.posted = false → step.1.toNat < 2 ^ 64 - 16 →
     exec (.upcallPost dev entry) s = .next ((step.2.setDevice d { step.2.device d with
       upcalls := Tab.set (step.2.device d).upcalls entry.val { up with posted := true } }).logEvent
         { cause := 0x003, core := up.core, addr := up.va
           task := up.task.filter (fun t => (Tab.find step.2.tasks t).isSome)
           who := if (up.task.filter (fun t => (Tab.find step.2.tasks t).isSome)).isSome then up.who else none })) ∧
    -- the event log
    (s.module.elen = false → 6 ≤ s.module.ellog → s.module.ellog ≤ 20 → Ends (exec .eventLogEnable s) (fun t =>
      t.module.elen = true ∧ t.module.elhead = s.module.eltail ∧ t.module.keptEvents = [])) ∧
    (s.module.elhead ≤ y.toNat → y.toNat ≤ s.module.eltail →
      exec (.elheadWrite y) s = .next { s with module := { s.module with elhead := y.toNat } })

/-- R14 to R18, R23, R50 to R60, R279, R370 and R410: dispatch of the next eligible task, and the placement, restoration
and release of units. A warp placed for the first time stands at its kernel's first packet with every lane and no register
written. Choices of the model: a read of a descriptor that fails (log 77), numbers and the target of a reservation (log
48), the fragment that a residency deadlock traps (log 52), that its event counts for no task (log 42). R370: a warp that is placed
again stands at its mark, with the mask of the mark and every other register as at placement, and reads its saved registers back in
order (log 49). -/
def Obligations.DispatchEventResults : Prop :=
  ∀ (s u v w : State) (dev : Fin 4) (core : Fin 192) (wg : Fin 32) (t n : Nat) (l l' : Leaf) (kd : Desc) (c : Cand)
    (cs : List Nat) (g : Workgroup) (r : Reservation) (slot warpId : Nat) (sw : SavedWarp) (rg j val : Nat) (rs : List (Nat × Nat))
    (cause : BitVec 10),
    let d := dev.val
    let x := s.task t
    let p := x.payload
    let running := s.module.fatal = none ∧ (s.device d).drst = false
    let dispatches (kind : Nat) (o : State) : Prop :=
      running → s.nextEligible d = some t → x.kind = kind → exec (.taskDispatch dev) s = .next o
    -- KERNEL
    (x.word p % 128 ≠ 0 → dispatches 0 (s.endTask t 0x15 0)) ∧
    (x.word p % 128 = 0 → s.testRead t (x.word p) 128 = .inl (n, u) →
      let fits := x.gridX ≠ 0 ∧ x.gridY ≠ 0 ∧ x.gridZ ≠ 0 ∧ bitsOf (x.word (p + 1)) 49 48 ≠ 3 ∧ x.gridX % x.gang = 0
      let named := u.setTask t { u.task t with kid := BitVec.ofNat 64 (n / 2 ^ 320) }
      (¬fits → dispatches 0 (u.endTask t 0x16 0)) ∧
      (fits → Desc.parse n = none → dispatches 0 (named.endTask t 0x18 0)) ∧
      (fits → Desc.parse n = some kd → kd.dict = 0 → named.testAll t [kd.code, kd.code + 12 * kd.codeLen - 1] = .pass l v →
        let started := { v.task t with desc := kd, descAddr := x.word p, dict := none, phase := .running,
                                       units := x.grid / x.gang, left := x.grid }
        dispatches 0 ((v.setTask t started).freshCode x.dev))) ∧
    -- COPY
    (let src := x.word p
     let dst := x.word (p + 1)
     let len := x.word (p + 2)
     let cw := x.word (p + 3)
     let bad := 2 ^ 40 < len ∨ 2 ^ 57 ≤ src ∨ 2 ^ 57 ≤ dst ∨ 2 ^ 57 ≤ cw ∨ (src < dst + len ∧ dst < src + len)
     (bad → dispatches 1 (s.endTask t 0x17 0)) ∧
     (¬bad → s.testAll t (if len = 0 then [] else [src, src + len - 1, dst, dst + len - 1]) = .pass l u →
       u.testCount t cw false = .pass l' v →
       dispatches 1 (v.setTask t { v.task t with phase := .running, units := 1, left := 1 }))) ∧
    -- SIGNAL
    (2 ^ 57 ≤ x.word p → dispatches 2 (s.endTask t 0x17 0)) ∧
    (x.word p < 2 ^ 57 → s.testCount t (x.word p) true = .pass l u →
      let y := u.task t
      u.engineAdd (ctActor y.dev t 2) (BitVec.ofNat 64 (y.word y.payload)) (y.word (y.payload + 1)) 0 = (.over, v) →
      dispatches 2 (v.setTask t { v.task t with phase := .ending, left := 0 })) ∧
    -- placement and restoration
    (running → (∀ c ∈ s.waiting d, s.neverFits d c = none) → s.choose d = (some (c, cs), w) →
      (c.saved = false → (w.task c.task).kind ≠ 1 → exec (.unitPlacement dev) s = .next (w.placeUnit d c cs)) ∧
      (c.saved = false → (w.task c.task).kind = 1 → exec (.unitPlacement dev) s = .next (w.placeCopy d c (cs.headD 0)))) ∧
    (running → (∀ c ∈ s.waiting d, s.neverFits d c = none) → s.choose d = (some (c, cs), w) → c.saved = true →
      exec (.unitRestore dev) s = .next (w.restoreUnit d c cs)) ∧
    (let y := s.newWarp t n warpId slot none
     let code := BitVec.ofNat 64 x.desc.code
     y.warpId = warpId ∧ y.wg = n ∧ y.exited = 0 ∧ y.sregs = [] ∧ y.vregs = [] ∧ y.kregs = [] ∧ y.bregs = [] ∧ y.gregs = [] ∧
     y.hregs = [] ∧ y.hidden = [] ∧ y.tokens = [] ∧ y.mark = none ∧
     y.frags = [(slot % 32, { mask := BitVec.allOnes 32, pc := code, arrived := code, stamp := s.now, nextIssue := s.now })]) ∧
    -- a warp that is placed again, and the reads of its saved registers
    (let y := s.newWarp t n warpId slot (some sw)
     let mask := (sw.mark.map (fun m => m.mask)).getD (BitVec.allOnes 32)
     let pc := (sw.mark.map (fun m => m.pc)).getD (BitVec.ofNat 64 x.desc.code)
     y.warpId = warpId ∧ y.wg = n ∧ y.exited = ~~~mask ∧ y.mark = sw.mark ∧ y.xst = sw.xst ∧
     y.sregs = [] ∧ y.vregs = [] ∧ y.kregs = [] ∧ y.bregs = [] ∧ y.gregs = [] ∧ y.hregs = [] ∧ y.pend = [] ∧ y.mcfg = none ∧
     y.progress = {} ∧ y.tokens = [] ∧ y.hidden = [] ∧ y.trapCause = 0 ∧ y.trapPc = 0 ∧ y.trapData = 0 ∧
     y.frags = [(slot % 32, { mask := mask, pc := pc, arrived := pc, stamp := s.now, nextIssue := s.now })] ∧
     y.restoring.map (fun e => e.1) = (sw.mark.map (fun m => saveSet m.save)).getD [] ∧
     y.restoring.map (fun e => e.2) = List.range y.restoring.length) ∧
    (let c := core.val
     let y := s.warp c slot
     let here := s.focusOn c slot (y.frags.headD (0, {})).1
     let read := here.access (here.laneActor 7 (lowLane here.active)) none (here.frameSlot j) (.read 8)
     y.restoring = (rg, j) :: rs →
       (read = (.ok val, u) →
         let z := u.setWarp c slot { u.warp c slot with
           sregs := Tab.set (u.warp c slot).sregs rg (BitVec.ofNat 64 val), restoring := rs }
         s.restoreRegs c slot (n + 1) = (z.setF { z.f with park := .none }).restoreRegs c slot n) ∧
       (read = (.fault cause, u) →
         s.restoreRegs c slot (n + 1) = u.faultWarp c slot cause 0 (BitVec.ofNat 64 (here.frameSlot j)) 0)) ∧
    -- release
    (Tab.find (s.core core.val).wgs wg.val = some g → g.slots = [] → s.wgBusy core.val wg.val = false →
      Ends (exec (.workgroupRelease core wg) s) (fun t => wg.val ∉ Tab.keys (t.core core.val).wgs ∧
        (t.task g.task).left = (s.task g.task).left - 1 ∧ t.mem = s.mem)) ∧
    -- a residency deadlock
    (let now := s.counted d
     let stall := (s.device d).stall
     let warps := r.cores.flatMap (fun c => (s.core c).warps.map (fun e => (c, e.1)))
     (s.device d).reserv = some r → stall ≠ 0 → (s.device d).dhalt = false → r.since + stall ≤ now → warps ≠ [] →
     (∀ p ∈ warps, (s.warp p.1 p.2).parkedFor now stall = true) →
     exec (.residencyDeadlock dev) s = .next (((s.setDevice d { s.device d with ndead := bump32 (s.device d).ndead }).logEvent
         { cause := 0x301, src := d, core := r.cores.headD 0, task := some r.task, counts := false }).deadlockWarps warps))

/-- R72, R105, R208, R253, R256, R262, R289, R339, R342, R343, R352 and R375: the steps that let a waiting fragment go on.
Choices of the model: the walk's steps (log 82), the time of the watchdog (log 40). -/
def Obligations.FragmentEventResults : Prop :=
  ∀ (s u : State) (ref : FragRef) (x : Frag) (core : Fin 192) (lane : Fin 32) (va : BitVec 64) (index : Fin 4096)
    (word n i : Nat) (dev : Fin 4) (r : PeerReq) (e : DWord) (o : OpR) (fl : Flight) (err : Bool) (since : Nat) (job : WalkJob),
    let c := ref.core.val
    let k := ref.slot.val
    let f := ref.frag.val
    let d := dieOf c
    let w := s.warp c k
    let here := s.focusOn c k f
    let answers (j : Instr) (a : PeerResult) : Prop := exec j s =
      .next ({ s with io := { s.io with reqs := Tab.set s.io.reqs i { r with result := some a } } }.unparkWaiter r.waiter)
    (Tab.find w.frags f = some x →
      (x.mayIssue s.now = true → w.idle = false → (s.device d).dhalt = false → s.dieRuns d = true →
        exec (.packetDecode ref) s = .next here.prepare) ∧
      (x.park = .join since → x.token = some n → since + 4096 ≤ s.counted d →
        exec (.joinRelease ref) s = .next (s.mergeAt c k n true)) ∧
      (∀ t m, x.park = .sleep t m → t + m ≤ s.counted d →
        exec (.sleepExpiry ref) s = .next (s.setFrag c k f x.finishWord)) ∧
      -- one lane's access at its home, at IO or in host memory
      (x.serves = true → s.dieRuns d = true →
        let one := { here with focus := { here.focus with lanes := 1#32 <<< lane.val } }
        (one.fly 1 (x.flight.getD {}) = .done u →
          exec (.homeAccess ref lane) s = .next (u.setF { u.f with park := .busy }) ∧
          exec (.peerRequest ref lane) s = .next (u.setF { u.f with park := .busy })) ∧
        (∀ p, one.fly 1 (x.flight.getD {}) = .wait u p → Parks (exec (.homeAccess ref lane) s) p (fun t => SameMemory u t)))) ∧
    -- the re-reads of a waiting fragment, while its die is not halted
    (∀ va pa target rd reg, (s.device d).dhalt = false → (s.frag c k f).park = .count va pa target rd reg false since → since + 512 ≤ s.now →
      here.access (here.laneActor 0 (lowLane here.active)) none va .cwRead = (.ok n, u) → target ≤ n →
      exec (.waitRepoll ref) s = .next ((u.deregister pa reg).finishWith c k f rd (BitVec.ofNat 64 n))) ∧
    (∀ va target rd, (s.device d).dhalt = false → (s.frag c k f).park = .remoteCount va target rd since → since + 512 ≤ s.now →
      here.access (here.laneActor 0 (lowLane here.active)) none va .cwRead = (.ok n, u) → target ≤ n →
      exec (.remoteCwwaitPoll ref) s = .next (u.finishWith c k f rd (BitVec.ofNat 64 n))) ∧
    (let y := s.core core.val
     (s.device (dieOf core.val)).dhalt = false → y.wakes.contains word = true → exec (.countWordWake core word) s = .next ((y.warps.flatMap (fun e =>
       (e.2.frags.filter (fun g => match g.2.park with | .count _ pa _ _ _ _ _ => pa == word | _ => false)).map
         (fun g => (e.1, g.1)))).foldl (fun s p => s.recheck core.val p.1 p.2)
       (s.setCore core.val { y with wakes := y.wakes.filter (fun a => a != word) }))) ∧
    -- a walk made for an access begins at the root, and reads one entry a step; what host memory answers
    (let y := s.core core.val
     let page := va.toNat / 65536
     let root := (s.device (dieOf core.val)).ptroot
     va.toNat < 2 ^ 57 → s.module.fatal = none →
       (y.walks.find? (fun j => j.page = page) = some job → exec (.pageWalk core va) s = .next (s.stepWalk core.val job)) ∧
       (y.walks.find? (fun j => j.page = page) = none → s.wantsPage core.val page = true → y.tlbAt va.toNat = none →
         y.walks.length < 8 → root ≠ 0 → tableAt root 4096 = true → exec (.pageWalk core va) s =
           .next (s.setCore core.val { y with walks := y.walks ++ [{ page := page, table := root, levels := walkLevels }] }))) ∧
    (s.hostReq dev.val i = some r →
      answers (.hostCompletion dev i err) (if err then .integrity else .value (s.mem.read r.va r.op.size)) ∧
      answers (.hostCompletionTimeout dev i) .integrity) ∧
    -- the scale entries of an MSCL whose reads have all completed
    ((s.frag c k f).words.head? = some e → e.instr = .mscl o → (s.frag c k f).flight = some fl → fl.reqs = [] → fl.fault = none →
      let y := here.putScales (o.d.toNat % 4) (bitsOf (here.S o.b).toNat 2 0) (bitsOf (here.S o.b).toNat 6 3) (here.S o.a).toNat fl
      exec (.msclScaleWrite ref) s = .next (y.setF y.f.finishWord)) ∧
    -- the watchdog of a phase
    (let g := s.group index.val
     let limit := 1024 * (s.device g.dev).gtmo
     g.phase.since = some since → g.live = true → g.phase.reported = false → limit ≠ 0 → since + limit ≤ s.now →
     exec (.groupWatchdog index) s = .next ((s.setGroup index.val { g with phase := { g.phase with reported := true } }).logEvent
       { cause := 0x005, src := g.dev, item := (g.members.filter (fun m => (g.phase.of m).isNone)).length,
         addr := BitVec.ofNat 64 g.phase.count, aux := BitVec.ofNat 64 (groupHandleOf index.val g.gen).toNat }))

/-- R197, R204, R214, R215 and R392: class changes, and the management commands that a device carries out, with the arguments with which
it was started (log 93). The commands at their edges are choices of the model (log 54). -/
def Obligations.ManagementEventResults : Prop :=
  ∀ (s u v : State) (dev : Fin 4) (p : Party) (page a n entry : Nat) (c : Reclass) (cause : BitVec 10) (fs : List Nat) (l : Leaf),
    let d := dev.val
    let x := s.device d
    let k := x.mcmd
    let ends (s : State) (st : Nat) : State := s.setDevice d { s.device d with mgo := false, mst := st }
    let fails (s : State) (cause : BitVec 10) (va : Nat) : State :=
      ends (s.logEvent { cause := cause, src := d, addr := BitVec.ofNat 64 va }) 3
    (Tab.find s.reclass page = some c →
      (s.draining p page = false → exec (.classDrain p page) s = .next
        ({ s with reclass := Tab.set s.reclass page { c with awaiting := c.awaiting.filter (fun q => q != p) } }.endDrain p page)) ∧
      (s.draining p page = true → exec (.classDrain p page) s = .next s) ∧
      (c.made = false → c.awaiting = [] → Ends (exec (.reclassificationPoint page) s) (fun t =>
        t.classOf page = c.new ∧ t.mem = s.mem ∧ (c.queue = [] → page ∉ Tab.keys t.reclass) ∧
        (c.queue ≠ [] → Tab.find t.reclass page = some { c with made := true })))) ∧
    -- INVAL
    (x.mgo = true → k.op = 1 → s.rangeBusy d (k.va / 65536) k.len = false →
      let pages := s.rangePages d (k.va / 65536) k.len
      (∀ p ∈ pages, Tab.find s.reclass p = none) →
      exec (.inval dev) s = .next (ends ((s.invalRange d (k.va / 65536) k.len).untouch d (k.va / 65536) k.len) 0) ∧
      ∀ t : State, ∀ p ∈ t.rangePages d (k.va / 65536) k.len,
        (t.untouch d (k.va / 65536) k.len).classOf p = .untouched) ∧
    -- HARVEST
    (x.mgo = true → k.op = 2 →
      (s.usage d (k.va / 65536) k.len = (.error (cause, a), u) → exec (.harvest dev) s = .next (fails u cause a)) ∧
      (s.usage d (k.va / 65536) k.len = (.ok (n, fs), u) →
        ({ u with accessed := u.accessed.filter (fun p => !fs.contains p),
                  dirty := u.dirty.filter (fun p => !fs.contains p) }).writeBytes (deviceActor d 1) k.arg ((k.len + 3) / 4) n =
          (.ok a, v) → exec (.harvest dev) s = .next (ends v 0))) ∧
    -- MIGRATE
    (x.mgo = true → k.op = 3 → s.rangeBusy d (k.va / 65536) 1 = false →
      ((x.upcallOf (k.va / 65536)).isSome = true → exec (.migrate dev) s = .next (ends s 1)) ∧
      (x.upcallOf (k.va / 65536) = none → ∀ pgr, s.walkOn d k.va = (.absent pgr, u) →
        exec (.migrate dev) s = .next (fails u 0x107 k.va)) ∧
      (x.upcallOf (k.va / 65536) = none → s.walkOn d k.va = (.leaf l, u) → u.leafEntry d k.va = some entry →
        l.peer = false → l.mt = 0 → Tab.find u.reclass l.key = none →
        let lost := ∃ i < 512, u.lineLost (l.pa + 128 * i) 128 = true ∨ u.lineLost (k.arg + 128 * i) 128 = true
        (¬lost → exec (.migrate dev) s = .next (ends ((u.movePage entry l.pa k.arg).invalRange d (k.va / 65536) 1) 0)) ∧
        (lost → exec (.migrate dev) s = .next (fails u 0x2C7 k.va)))) ∧
    -- a command that does not exist
    (x.mop ≠ 1 → x.mop ≠ 2 → x.mop ≠ 3 → x.mgo = false → s.enabled d 0x8800 = true →
      exec (.mopBadArg dev) s = .next (s.setDevice d { x with mst := 2 }))

/-- R241, R246, R248 to R252 and R261: the inputs and crossings of the torus, the Abian links and the host port. Choices
of the model: 1 ms in cycles (log 56), the CRC's form (log 87), the order of the credits and their initial values, and that a flit
behind one that was discarded asks for nothing more (log 91). -/
def Obligations.LinkEventResults : Prop :=
  ∀ (s : State) (stop : Fin 194) (input : Fin 7) (flit : Flit) (crossing : Fin 6 × Bool) (port : Fin 16) (lf : LinkFlit)
    (lseq : BitVec 12) (pm : BitVec 16) (pp : BitVec 4) (dev : Fin 4) (speed : BitVec 3) (width : BitVec 2) (j : Nat),
    let p := port.val
    let x := s.port p
    let key := (stop.val * 7 + input.val) * 8 + flit.cls.toNat
    let ctx := Tab.find s.io.torus key
    let flits := (if flit.first then [] else ctx.getD []) ++ [flit.content]
    let crosses := inputCrossing stop.val input.val
    let exists_ := portExists stop.val input.val = true
    let retrains (t : State) : State := ((t.setPort p { (t.port p).paid with
      state := 3, force := false, retrains := bump32 (t.port p).retrains, retrainAt := t.now, noProgress := 0 }).send
        (.link p (t.port p).retrainFlit)).logEvent { cause := 0x009, src := 5, aux := BitVec.ofNat 64 p }
    let nacks (t : State) : State := (t.setPort p { (t.port p).paid with nacked := true }).send (.link p (t.port p).nackFlit)
    let acked (n : Nat) : Port := x.ack n
    -- a flit of the torus, of CT's attachment or of IO's
    (exists_ → s.module.fatal = none → (flit.parityOk = true ∨ crosses = none) →
      (ctx = none → flit.first = false → exec (.torusPacketArrival stop input flit) s = .next s) ∧
      (ctx ≠ none ∨ flit.first = true → exec (.torusPacketArrival stop input flit) s = .next
        (if flit.last then { s with io := { s.io with torus := Tab.del s.io.torus key,
                                                      arrived := s.io.arrived ++ [(stop.val, input.val, flits)] } }
         else { s with io := { s.io with torus := Tab.set s.io.torus key flits } }))) ∧
    (¬exists_ → exec (.torusPacketArrival stop input flit) s = .next s) ∧
    (exists_ → s.module.fatal = none → flit.parityOk = false → crosses = some j →
      Ends (exec (.torusPacketArrival stop input flit) s) (fun t => t.module.fatal = some (BitVec.ofNat 10 (0x3D0 + j)))) ∧
    (s.module.fatal = none → Ends (exec (.crossingParityError crossing) s) (fun t =>
      t.module.fatal = some (BitVec.ofNat 10 (0x3D0 + crossing.1.val)))) ∧
    -- a flit of a link
    (x.state = 2 → (lf.crcOk = false ∨ 4 ≤ lf.type.toNat) → exec (.linkFlitReceive port lf) s =
      .next (nacks (s.setPort p { x with crcerr := bump32 x.crcerr }))) ∧
    (x.state = 2 → lf.crcOk = true → lf.ackv = false →
      (lf.type = 0 → lf.lseq.toNat = x.expectSeq → Ends (exec (.linkFlitReceive port lf) s) (fun t =>
        (t.port p).expectSeq = (x.expectSeq + 1) % 4096 ∧ (t.port p).nacked = false ∧ t.mem = s.mem ∧
        ∀ g < 3, (t.port p).credit.getD g 0 = x.credit.getD g 0 + bitsOf lf.cred.toNat (8 * g + 7) (8 * g))) ∧
      (lf.type = 0 → lf.lseq.toNat ≠ x.expectSeq → exec (.linkFlitReceive port lf) s =
        .next (if x.nacked then s.setPort p x else nacks (s.setPort p x))) ∧
      (let filled := (s.setPort p x).setPort p (x.refill lf)
       (lf.type = 1 → exec (.linkFlitReceive port lf) s = .next filled) ∧
       (lf.type = 2 → exec (.linkFlitReceive port lf) s = exec (.nackReceive port lf.lack) filled) ∧
       (lf.type = 3 → exec (.linkFlitReceive port lf) s = .next (retrains filled)))) ∧
    (x.state = 2 →
      let z := acked lseq.toNat
      let y := { z with replays := bump32 x.replays, noProgress := z.noProgress + 1,
                        sendSeq := (lseq.toNat + z.replay.length) % 4096 }
      (y.noProgress < 8 → exec (.nackReceive port lseq) s = .next ((s.setPort p y).resend p)) ∧
      (8 ≤ y.noProgress → exec (.nackReceive port lseq) s = .next (retrains ((s.setPort p y).resend p)))) ∧
    -- retrains, and the link's states
    (x.state = 2 → exec (.laneLockLoss port) s = .next (retrains s)) ∧
    (s.module.ready = true →
      let t := s.setPort p { x with force := true }
      (x.state = 2 → exec (.forceRetrain port) s = .next (retrains t)) ∧
      (x.state ≠ 2 → exec (.forceRetrain port) s = .next t)) ∧
    (x.state = 3 → x.force = false → s.now ≤ x.retrainAt + 1400000 → Ends (exec (.retrainEnd port lseq) s) (fun t =>
      (t.port p).state = 2 ∧ (t.port p).sendSeq = (lseq.toNat + (acked lseq.toNat).replay.length) % 4096 ∧
      (t.port p).noProgress = 0 ∧ (t.port p).nacked = false ∧ t.mem = s.mem)) ∧
    (x.state = 3 → x.retrainAt + 1400000 < s.now → Ends (exec (.linkDownEvent port) s) (fun t =>
      (t.port p).state = 0 ∧ (t.port p).downev = true ∧ (t.port p).replay = [] ∧ (t.port p).out = [])) ∧
    (x.state = 1 → x.force = false → exec (.linkTrained port pm pp) s = .next (s.setPort p { x with
      state := 2, peermod := pm.toNat, peerport := pp.toNat, sendSeq := 0, expectSeq := 0, nacked := false, replay := [], open_ := [], out := [],
      noProgress := 0, credit := (List.range 3).map Config.linkCredit, owed := [0, 0, 0], passed := (0, 0) })) ∧
    (s.module.ready = true →
      (x.en = false → exec (.portEnable port) s = .next (s.setPort p { x with en := true, state := 1 })) ∧
      (x.en = true → x.state = 0 → exec (.portDisable port) s = .next (s.setPort p { x with en := false })) ∧
      (x.en = true → x.state ≠ 0 → Ends (exec (.portDisable port) s) (fun t =>
        (t.port p).en = false ∧ (t.port p).state = 0 ∧ (t.port p).downev = true))) ∧
    exec (.hostPortLinkChange dev speed width) s =
      .next { s with io := { s.io with lspeed := speed.toNat, lwidth := width.toNat } }

/-- R253 to R255, R259 and R260: requests to and from other modules, and the host's accesses through an aperture. Choices
of the model: a piece that is refused, or meets an error (logs 68, 89), the order of a stream (log 86), a request held inside the module
that the timer of IO cancels (log 44), an access that waits for the held writes of its stream (log 84). -/
def Obligations.PeerEventResults : Prop :=
  ∀ (s u : State) (req p v : Nat) (r : PeerReq) (a : PeerResult) (pin : PeerIn) (m : BitVec 16) (sd dev fn : Fin 4)
    (tag rq : BitVec 16) (off : BitVec 38) (data : List (BitVec 8)) (len at_ n : Nat) (bs : List Byte)
    (w : Inbound) (c : BitVec 10) (j i : Nat) (lines : List (Nat × Nat)) (others : List (Nat × Inbound)),
    let key := pairKey r.dev r.rmod r.rdev
    let next := Tab.get s.io.tags 0 key
    let put (s : State) (r : PeerReq) : State := { s with io := { s.io with reqs := Tab.set s.io.reqs req r } }
    let answer (s : State) (x : PeerResult) (t : Nat) : State := s.send (.peerAnswer m.toNat sd.val t x)
    let stream : Stream := ⟨fn, rq⟩
    -- at the source
    (Tab.find s.io.reqs req = some r → r.host = false → r.rmod ≠ s.io.mymod →
      ((r.op.writes = true ∨ r.op.atomic = true) → r.tag = none → r.down = false → s.tagFree key next = true →
        let tagged := { r with tag := some next, sent := s.now }
        let counted := { s with io := { s.io with tags := Tab.set s.io.tags key ((next + 1) % 65536) } }
        (s.portFor tagged = some p → exec (.peerTagAssign req) s = .next (put counted { tagged with port := some p })) ∧
        (s.portFor tagged = none → exec (.peerTagAssign req) s =
          .next ((put counted { tagged with down := true }).unparkWaiter r.waiter))) ∧
      (r.port.isSome = true → r.result = none → r.down = false →
        (a ≠ .cancelled → exec (.peerResponse req a) s = .next ((put s { r with result := some a }).unparkWaiter r.waiter)) ∧
        (r.cancelling = true ∨ r.confirmed = true → exec (.peerResponse req .cancelled) s =
          .next (((put s { r with result := some .cancelled, confirmed := true }).unparkWaiter r.waiter).logEvent
            { cause := BitVec.ofNat 10 (0x288 + r.type), src := 5, addr := BitVec.ofNat 64 r.va })) ∧
        (r.cancelling = false → r.sent + 1024 * s.io.ptmo ≤ s.now →
          exec (.peerTimeout req) s = .next ((put s { r with cancelling := true }).send (.cancel req))))) ∧
    -- a request held inside the module
    (Tab.find s.io.reqs req = some r → r.host = false → r.rmod = s.io.mymod → r.result = none → r.down = false →
      r.cancelling = false → r.sent + 1024 * s.io.ptmo ≤ s.now → exec (.peerTimeout req) s =
        .next (((put s { r with result := some .cancelled }).wakeWaiter r.waiter).logEvent
          { cause := BitVec.ofNat 10 (0x288 + r.type), src := 5, addr := BitVec.ofNat 64 r.va })) ∧
    -- at the target: a request that was cancelled or performed before is answered, another one performed
    (pin.srcMod = m → pin.srcDev = sd → s.io.heldPeers = [] →
      let key := seenKey m.toNat sd.val pin.dev.val
      let t := (pin.tag.map (fun t => t.toNat)).getD 0
      let x := (Tab.get s.io.seen {} key).arrive t
      let keeps (s : State) (x : Seen) : State := { s with io := { s.io with seen := Tab.set s.io.seen key x } }
      let act := farActor pin
      (pin.tag.isSome = true → x.cancelled.contains t = true →
        exec (.peerTargetRequest pin) s = .next (answer (keeps s x) .cancelled t)) ∧
      (∀ e, pin.tag.isSome = true → x.cancelled.contains t = false → x.performed.find? (fun e => e.1 = t) = some e →
        exec (.peerTargetRequest pin) s = .next (answer (keeps s x) (s.again m.toNat sd.val pin.dev.val t e.2) t)) ∧
      (pin.tag = none → s.targetAccess pin.dev.val act pin.va.toNat pin.op = (.fault c, u) →
        exec (.peerTargetRequest pin) s = .next (answer u (targetResult c) t)) ∧
      (pin.tag = none → s.targetAccess pin.dev.val act pin.va.toNat pin.op = (.ok v, u) →
        exec (.peerTargetRequest pin) s =
          .next (answer u (if pin.op.writes && !returnsValue pin.op then .done else .value v) t)) ∧
      (pin.tag.isSome = true → x.cancelled.contains t = false → x.performed.find? (fun e => e.1 = t) = none →
        (keeps s x).targetAccess pin.dev.val act pin.va.toNat pin.op = (.ok v, u) →
        exec (.peerTargetRequest pin) s =
          .next (answer (let marked := keeps u (x.mark t (returnsValue pin.op))
              if returnsValue pin.op then marked.keepResult m.toNat sd.val pin.dev.val t v else marked)
            (if pin.op.writes && !returnsValue pin.op then .done else .value v) t))) ∧
    (let key := seenKey m.toNat sd.val dev.val
     let x := (Tab.get s.io.seen {} key).arrive tag.toNat
     (∀ e, x.performed.find? (fun e => e.1 = tag.toNat) = some e →
       exec (.peerCancel m sd dev tag) s = .next (answer s (s.again m.toNat sd.val dev.val tag.toNat e.2) tag.toNat)) ∧
     (x.performed.find? (fun e => e.1 = tag.toNat) = none → s.io.heldPeers = [] →
       let seen := Tab.set s.io.seen key { x with cancelled := tag.toNat :: x.cancelled }
       exec (.peerCancel m sd dev tag) s = .next (answer { s with io := { s.io with seen := seen } } .cancelled tag.toNat))) ∧
    -- the host's writes: one joins its stream, and is placed at once where it is of one line and nothing is before it
    (let va := (s.device fn.val).apbase + off.toNat
     let new : Inbound := { fn := fn.val, requester := rq.toNat, pieces := inboundLines va data }
     let joined : State := { s with io := { s.io with inbound := s.io.inbound ++ [new] } }
     s.module.ready = true → new.pieces ≠ [] →
       (s.streamHeld stream = true ∨ new.pieces.length ≠ 1 → exec (.inboundWrite fn rq off data) s = .next joined) ∧
       (s.streamHeld stream = false → new.pieces.length = 1 →
         exec (.inboundWrite fn rq off data) s = .next (joined.placePiece s.io.inbound.length 0))) ∧
    -- a line piece of the first write of a stream is placed, in any order; a piece that its page refuses is reported once
    (s.streamOf fn.val rq.toNat = (i, w) :: others → j < w.pieces.length →
      exec (.inboundWriteRelease stream j) s = .next (s.placePiece i j)) ∧
    (s.io.inbound[i]? = some w → w.pieces[j]? = some (at_, bs) →
      (s.inboundPiece w.fn 1 at_ w.drains (.write bs.length (bytesNat bs)) = (.ok v, u) →
        s.placePiece i j = u.endPiece i j false) ∧
      (s.inboundPiece w.fn 1 at_ w.drains (.write bs.length (bytesNat bs)) = (.fault c, u) → refusedBy c = true →
        s.placePiece i j = (if w.dropped then u else u.dropWrite w.fn at_).endPiece i j true)) ∧
    -- the host's reads, line by line, after every earlier write of their stream
    (let va := (s.device fn.val).apbase + off.toNat
     let keep (s : State) (l : List Reading) : State := { s with io := { s.io with reading := l } }
     let first := s.inboundPiece fn.val 0 at_ [] (.read n)
     s.module.ready = true → s.streamHeld stream = false → s.io.reading = [] →
     linePieces va (len / 128 + 2) len = (at_, n) :: lines →
       (first = (.ok v, u) → exec (.inboundRead fn rq off len) s = .next (
         if lines.isEmpty then (keep u []).send (.readData fn.val (some (natBytes n v)))
         else keep u [{ fn := fn.val, requester := rq.toNat, va := va, len := len, pieces := lines, got := natBytes n v }])) ∧
       (first = (.fault c, u) → exec (.inboundRead fn rq off len) s =
         .next ((keep u []).send (if refusedBy c then .readData fn.val none else .readAbort fn.val))))

/-- R265, R273, R274, R278, R281 and R317: the steps of the copy engine, of the shuffle queue and of a reclaim walk.
Choices of the model: the order of elements (log 30) and the accesses of a step of a walk (log 17). -/
def Obligations.EngineEventResults : Prop :=
  ∀ (s u : State) (core : Fin 192) (slot : Fin 32) (item : Fin 16) (die : Fin 4) (ci : Fin 16) (at_ k m v i g : Nat) (x : Copy)
    (it : McItem) (y : Shuffle) (rest : List Shuffle) (todo : List (Nat × Nat × Bool)) (a : Int),
    let c := core.val
    let turned := s.setCore c { s.core c with copyPtr := (at_ + 1) % 32 }
    let line (sel : Nat) (t : State) : Prop := exec (.copyLineRequest core sel) s = .next t
    -- the slot that the engine serves: a line piece of an element is read or written
    ((s.core c).nextCopy = some (at_, x) → x.failed = none → x.held = none → x.half = [] → k < x.count →
      line (2 * k) (turned.copyRead c at_ x k) ∧
      (x.items = [] → line (2 * k + 1) (turned.copyWrite c at_ x k)) ∧
      (x.items ≠ [] → m < 16 → line (2 * (16 * k + m) + 1) (turned.landWrite c at_ x m k))) ∧
    (x.from_ k = .inl a → Tab.find x.buf k = none →
      (x.srcScr = false → Tab.find x.part k = none → a % 128 + x.size ≤ 128 →
        s.access (x.actor c at_) none a (.read x.size) = (.ok v, u) →
        s.copyRead c at_ x k = u.setCopy c at_ { x with buf := Tab.set x.buf k v, part := Tab.del x.part k }) ∧
      (x.srcScr = true → s.copyRead c at_ x k = (s.scratchRead c (x.wg.getD 0) a.toNat x.size).2.setCopy c at_
        { x with buf := Tab.set x.buf k (s.scratchRead c (x.wg.getD 0) a.toNat x.size).1 })) ∧
    (x.value k = some v → x.next ≤ k → x.done.contains k = false → x.half = [] →
      (x.dstScr = true → x.mayWrite sameOffsets x.done x.next k = true → s.copyWrite c at_ x k =
        (s.scratchWrite c (x.wg.getD 0) (x.to k).toNat x.size v).setCopy c at_ (x.wrote k)) ∧
      (x.dstScr = false → x.mayWrite (s.maySame (dieOf c)) x.done x.next k = true → (x.to k) % 128 + x.size ≤ 128 →
        s.access (x.actor c at_) none (x.to k) (.write x.size (v % 2 ^ (8 * x.size))) = (.ok i, u) →
        s.copyWrite c at_ x k = u.setCopy c at_ (x.wrote k))) ∧
    -- the end of a copy and of a delivery item
    (Tab.find (s.core c).copies slot.val = some x → x.held = none → s.copyWaits c slot.val = false →
      let dropped := s.dropCopyReqs c slot.val
      let sum (bad : Bool) : Nat := x.bytes + if bad then 2 ^ 48 else 0
      (x.items = [] → (x.failed = none → x.complete = true) →
        dropped.engineAdd (x.actor c slot.val) x.cw (sum x.failed.isSome) 0 = (.over, u) →
        Ends (exec (.copyCompletion core slot) s) (fun t => t = u.endCopy c slot.val x ∧
          slot.val ∉ Tab.keys (t.core c).copies)) ∧
      (x.items ≠ [] → (∀ i ∈ x.items, i.ended = true) →
        exec (.copyCompletion core slot) s = .next (s.freeCopy c slot.val x)) ∧
      (x.items[item.val]? = some it → it.ended = false →
        let t := if x.failed.isSome then dropped else s
        (t.itemFault x it = none → it.done.length = x.count) →
        t.engineAdd (x.actor c slot.val) x.cw (sum (t.itemFault x it).isSome) item.val = (.over, u) →
        exec (.multicastItem core slot item) s = .next (u.endItem c slot.val x item.val it))) ∧
    -- the shuffle at the head of the queue
    ((s.core c).shuffles = y :: rest →
      let put (t : State) (y : Shuffle) : State := t.setCore c { t.core c with shuffles := y :: rest }
      let does (sel : Nat) (t : State) : Prop := exec (.shuffleExecute core sel) s = .next t
      let add (v : Nat) : Add × State :=
        s.engineAdd { party := .core c, dev := dieOf c, task := some y.task, type := 4, waiter := .engine c 32 } y.cw v 0
      let gone (t : State) : State := t.setCore c { t.core c with shuffles := (t.core c).shuffles.tail }
      (y.failed = none → y.next + y.done.length = y.n → add (y.n * y.e) = (.over, u) → does m (gone u)) ∧
      (∀ f, y.failed = some f → add (y.n * y.e + 2 ^ 48) = (.over, u) → does m (gone (u.logEvent
        { cause := f.1, src := dieOf c, core := c, addr := f.2, task := some y.task, aux := y.cw }))) ∧
      (y.failed = none → y.next + y.done.length ≠ y.n → k < y.n → y.next ≤ k → y.done.contains k = false →
        (Tab.find y.buf k = none →
          let got := s.scratchRead c y.wg (y.sofs + y.source k * y.e) y.e
          does (2 * k) (put got.2 { y with buf := Tab.set y.buf k got.1 })) ∧
        (Tab.find y.buf k = some v →
          let z := { y with buf := Tab.del y.buf k }
          does (2 * k + 1) (put (s.scratchWrite c y.wg (y.dofs + k * y.e) y.e v)
            (if k = y.next then { z with next := k + 1 } else { z with done := k :: z.done }))))) ∧
    -- a reclaim walk
    (let d := die.val
     let z := Tab.get (s.device d).spinel.ctxs {} ci.val
     let put (t : State) (z : TreeCtx) : State :=
       t.setSpinel d { (t.device d).spinel with ctxs := Tab.set (t.device d).spinel.ctxs ci.val z }
     (z.walk = some [] → exec (.reclaimWalk die ci) s = .next (put s { z with walk := none })) ∧
     -- a block becomes free in three accesses, under the tree's lock
     (let at_ := z.freeing.getD (0, 0)
      let e := z.freeOp i g at_.1 at_.2
      let me := (192, d, ci.val)
      z.walk = some ((i, g, true) :: todo) → (z.freeing = none → s.treeHeld z me = false) →
      s.access (walkActor d ci.val z.task) none e.1 e.2 = (.ok v, u) →
      exec (.reclaimWalk die ci) s = .next (put u (
        if at_.1 < 2 then { z with freeing := some (at_.1 + 1, freeHead g at_.1 v at_.2), lock := some me }
        else { z with walk := some todo, freeing := none, lock := if z.lock = some me then none else z.lock }))) ∧
     (z.walk = some ((i, g, false) :: todo) →
       s.access (walkActor d ci.val z.task) none (z.node i) (.read 64) = (.ok v, u) →
       let kids := if nodeExp v then (List.range (nodeNch v)).map (fun j => (nodeChild v + j, 0, false)) ++
         [(nodeChild v, (nodeNch v + 7) / 8, true)] else []
       exec (.reclaimWalk die ci) s = .next (put u { z with walk := some (kids ++ todo) })))

/-- R55, R364 and R366 to R374: pre-emption and the debugger. Choices of the model: held cycles and the end of a request
(log 50), what the debugger sees (log 19). -/
def Obligations.PreemptDebugResults : Prop :=
  ∀ (s : State) (dev : Fin 4) (core : Fin 192) (wg : Fin 32) (slot : Fin 128) (un : Nat × Nat) (g : Workgroup) (w : Warp)
    (r : Reservation) (t c e : Nat) (v : Word64) (rw : RegWrite),
    let d := dev.val
    let x := s.device d
    -- a request reaches a unit, and a unit all of whose warps are kept or discarded is saved
    (x.dhalt = false → x.preq.find? (fun u => (s.unitOf u.1 u.2).any (fun p => (s.wg p.1 p.2).preempt.isNone)) = some un →
      exec (.preemptionRequest dev) s = .next (s.requestUnit un.1 un.2)) ∧
    (Tab.find (s.core core.val).wgs wg.val = some g →
      let wgs := s.unitOf g.task g.unit
      let saved := wgs.foldl (fun s p => s.saveData p.1 p.2) s
      (∀ p ∈ wgs, (s.wg p.1 p.2).preempt.isSome = true ∧ s.scratchQuiet p.1 p.2 = true ∧
        ∀ k ∈ (s.wg p.1 p.2).slots, (s.warp p.1 k).kept = true) →
      (∃ p ∈ wgs, (s.wg p.1 p.2).slots ≠ []) →
      ((∀ p ∈ wgs, (saved.wg p.1 p.2).broken = none) →
        exec (.preemptionSave core wg) s = .next (saved.saveUnit (dieOf core.val) g.task g.unit wgs)) ∧
      ((∃ p ∈ wgs, (saved.wg p.1 p.2).broken ≠ none) → exec (.preemptionSave core wg) s = .next saved)) ∧
    (let d := dieOf core.val
     let x := s.device d
     Tab.find (s.core core.val).warps slot.val = some w → (s.wg core.val w.wg).preempt = some t → w.kept = false →
     x.dhalt = false → t + w.heldCycles + 1024 * x.pdl ≤ s.counted d →
     exec (.preemptDeadline core slot) s = .next ((s.setDevice d { x with pkill := bump32 x.pkill }).faultWarp core.val slot.val
       0x303 w.trapPc w.trapData 0)) ∧
    -- one automatic request at a time: while the unit of the latest one is still to be saved or to end, no other is made
    (x.reserv = some r → x.pauto = true → x.dhalt = false → x.pthr ≤ s.effPrio d r.task →
      (s.autoOpen x = false → s.victim d r = some (c, e) → exec (.ageingInterval dev) s =
        .next ((s.setDevice d { x with auto := some ((s.wg c e).task, (s.wg c e).unit) }).requestUnit (s.wg c e).task
          (s.wg c e).unit)) ∧
      (s.autoOpen x = true → exec (.ageingInterval dev) s = .next s)) ∧
    -- halting a die
    (x.dhalt = false → exec (.debugHalt dev) s =
      .next ((s.setDevice d { x with dhalt := true, haltAt := s.now }).logEvent { cause := 0x00D, src := d })) ∧
    (x.dhalt = true → exec (.debugResume dev) s =
      .next ((s.setDevice d { x with dhalt := false, haltCycles := x.haltCycles + (s.now - x.haltAt) }).logEvent
        { cause := 0x00E, src := d })) ∧
    -- the operations of the debug registers on a warp that is halted or debug-parked; on another they fail
    (let done := { x with dcmd := BitVec.ofNat 64 (x.dcmd.toNat % 2 ^ 34) }
     (s.debugWarp d = some w → (∀ p ∈ w.pend, p.due ≤ s.now) →
       (x.dop = 1 → s.debugRead d w = some v → exec (.debugRegRead dev) s = .next (s.setDevice d { done with ddata := v })) ∧
       (x.dop = 2 → s.debugWrite d w = some rw → exec (.debugRegWrite dev) s =
         .next ((s.setWarp x.dcore x.dslot { w with pend := addPending ⟨s.now, s.now, 8, rw, false⟩ w.pend }).setDevice d done)) ∧
       (x.dop = 3 → Ends (exec (.debugResumeNext dev) s) (fun t =>
         t = s.debugResume d true ∧ (t.warp x.dcore x.dslot).debugParked = none)) ∧
       (x.dop = 4 → Ends (exec (.debugResumeTret dev) s) (fun t =>
         t = s.debugResume d false ∧ (t.warp x.dcore x.dslot).debugParked = none)) ∧
       (x.dop = 5 → exec (.debugKill dev) s =
         .next ((s.setDevice d done).faultWarp x.dcore x.dslot 0x30B (w.at s.now).trapPc (w.at s.now).trapData 0))) ∧
     (s.debugWarp d = none →
       let fails (j : Instr) : Prop := exec j s = .next (s.setDevice d { done with derr := true })
       (x.dop = 1 → fails (.debugRegRead dev)) ∧ (x.dop = 2 → fails (.debugRegWrite dev)) ∧
       (x.dop = 3 → fails (.debugResumeNext dev)) ∧ (x.dop = 4 → fails (.debugResumeTret dev)) ∧
       (x.dop = 5 → fails (.debugKill dev))))

/-- R54, R332, R357 and R385 to R395: scrubbing and retirement, resets and bring-up, the security mailbox, power and
clock, and the debug port. Choices of the model: a period's counts (log 58), 1 ms in cycles (log 56), a misaligned CERT
(log 61), what resets leave (logs 59, 60), the debug port's point of effect (log 76), the range and the step of the clock, and THROT
cleared when it is raised (log 63). -/
def Obligations.ModuleEventResults : Prop :=
  ∀ (s : State) (die : Fin 4) (slice : Fin 48) (bank : Fin 18) (core : Fin 192) (lost : List (BitVec 31)) (mhz : BitVec 12)
    (addr : Nat) (b : BitVec 8) (img : BitVec 32 × BitVec 16) (hostError flashError chosen : Bool),
    let d := die.val
    let x := s.slice d slice.val
    let m := s.module
    let device := s.device d
    let runs : Bool := m.fatal.isNone
    let ends (t : State) (st : Nat) : State := t.endMailbox st
    let fatal (i : Instr) (c : BitVec 10) : Prop := runs = true →
      Ends (exec i s) (fun t => t.module.fatal = some c ∧ t.module.ready = m.ready)
    -- scrubbing, banks and cores
    -- a pass that corrects nothing ends the period with the counts of the errors that accesses met in it
    Ends (exec (.scrubPass die slice [] lost) s) (fun t => t.mem = s.mem ∧ (t.slice d slice.val).counts = x.period ∧
      (t.slice d slice.val).closed = true ∧
      ∀ n ∈ lost, n.toNat % 48 = slice.val → n.toNat * 128 < guashSize → d * 2 ^ 31 + n.toNat ∈ t.lost) ∧
    (let n := Tab.get x.counts 0 bank.val
     let aux : Word64 := BitVec.ofNat 64 (slice.val + bank.val * 2 ^ 8)
     let y := { x with failed := addNat x.failed bank.val }
     (m.cethr = 0 ∨ n < m.cethr ∨ x.failed.contains bank.val = true → exec (.bankRetired die slice bank) s = .next s) ∧
     (m.cethr ≠ 0 → m.cethr ≤ n → x.failed.contains bank.val = false →
     (x.spare = false → exec (.bankRetired die slice bank) s =
       .next ((s.setSlice d slice.val { y with spare := true }).logEvent { cause := 0x00F, src := d, aux := aux })) ∧
     (x.spare = true → x.logged = false → exec (.bankRetired die slice bank) s =
       .next ((s.setSlice d slice.val { y with logged := true }).logEvent { cause := 0x010, src := d, aux := aux })) ∧
     (x.spare = true → x.logged = true → exec (.bankRetired die slice bank) s = .next (s.setSlice d slice.val y)))) ∧
    Ends (exec (.coreRetirement core) s) (fun t => (t.core core.val).retired = true ∧ t.mem = s.mem ∧
      (t.device (dieOf core.val)).inserv = (s.device (dieOf core.val)).inserv &&& ~~~(1#48 <<< coreIndex core.val)) ∧
    -- resets and bring-up
    Ends (exec .moduleReset s) (fun t => t.module = {} ∧ t.fuses = s.fuses ∧ t.cores = [] ∧ t.tasks = [] ∧
      t.io.lspeed = s.io.lspeed ∧ t.io.lwidth = s.io.lwidth ∧ (∀ a, t.mem.get a = if hostBase ≤ a then (hostPart s.mem).get a else Memory.fill)) ∧
    (m.ready = false → m.recovery = false →
      (s.chooseSlot = some (chosen, img) → Ends (exec .bringup s) (fun t => t.module.ready = true ∧ t.module.slot = chosen ∧
        t.module.fwver = img.1.toNat ∧ t.mem = hostPart s.mem ∧ t.cores = [] ∧ (s.fused ≤ t.fused ∧ img.2 ≤ t.fused))) ∧
      (s.chooseSlot = none → Ends (exec .bringup s) (fun t => t.module.recovery = true ∧ t.module.ready = false))) ∧
    (device.drst = false → m.ready = true → Ends (exec (.deviceReset die) s) (fun t => t = s.startReset d ∧ t.mem = s.mem ∧
      t.device d = { device with drst := true, drstAt := s.now } ∧
      -- what another die's fragment waits for at one of the device's upcall entries ends as REMOTE_GONE
      ∀ c k j f h, dieOf c ≠ d → Tab.find (s.warp c k).frags j = some f → f.park = .pager h → h.dev = d →
        ∃ f', Tab.find (t.warp c k).frags j = some f' ∧ f'.park = .none ∧
          f'.failed = some { h with cause := h.cause + 0x28 })) ∧
    (device.drst = true → s.enginesBusy d = false → exec (.deviceReset die) s = .next (s.clearDevice d)) ∧
    (device.drst = true → device.drstAt + 1400000 ≤ s.now → exec (.engineDrainTimeout die) s =
      .next (((coresOf d).foldl (fun s c => s.abandonCore c) s).abandonWalks d)) ∧
    -- the mailbox
    (m.mbgo = true →
      (m.mbrun.op = 1 → exec .attest s = .next (ends { s with module := { m with report := s.makeReport } } 0)) ∧
      (m.mbrun.op = 2 →
        let n := Config.certificate.length
        (m.mbrun.len < n ∨ m.mbrun.va % 64 ≠ 0 → exec .cert s = .next (ends s 2)) ∧
        (n ≤ m.mbrun.len → m.mbrun.va % 64 = 0 → exec .cert s = .next (ends { s with
          mem := s.mem.write (hostBase + m.mbrun.va) n (bytesNat Config.certificate), module := { m with mblen := n } } 0))) ∧
      (m.mbrun.op = 3 → 0 < m.mbrun.len → m.mbrun.len ≤ 2 ^ 26 → m.mbrun.va % 64 = 0 →
        let image := s.mem.bytes (hostBase + m.mbrun.va) m.mbrun.len
        let load := exec (.load hostError flashError) s
        let flash (v : Option (List Byte)) : State :=
          { s with fuses := { s.fuses with flash := Tab.set s.fuses.flash (bit (!m.recovery && !m.slot)) v } }
        (hostError = true → load = .next (ends s 3)) ∧
        (hostError = false → Config.verifyImage image = none → load = .next (ends s 4)) ∧
        (hostError = false → Config.verifyImage image = some img →
          (img.2 < s.fused → load = .next (ends s 5)) ∧
          (s.fused ≤ img.2 → flashError = true → load = .next (ends (flash none) 6)) ∧
          (s.fused ≤ img.2 → flashError = false → m.recovery = false → load = .next (ends (flash (some image)) 0)) ∧
          (s.fused ≤ img.2 → flashError = false → m.recovery = true →
            load = .next (ends ((flash (some image)).startImage false img.1 img.2) 0))))) ∧
    (m.mbgo = false → (m.mbcmd = 0 ∨ 3 < m.mbcmd) → s.enabled 0 0x31000 = true → exec .mbcmdBadCmd s = .next (ends s 1)) ∧
    -- power, clock and fatal events
    fatal .fwWatchdog 0x3C0 ∧ fatal (.thermalTrip die) 0x3C2 ∧ fatal .powerFault 0x3C3 ∧ fatal .ctFatal 0x3C4 ∧
    exec (.thermalThrottle die) s = .next { s with module := { m with throt := true, clkMhz := max 700 (m.clkMhz - 25) } } ∧
    (mhz.toNat % 25 = 0 → 700 ≤ mhz.toNat → mhz.toNat ≤ 1400 →
      (mhz.toNat = m.clkMhz + 25 → exec (.clockChange mhz) s =
        .next { s with module := { m with clkMhz := mhz.toNat, throt := false } }) ∧
      (mhz.toNat + 25 = m.clkMhz → exec (.clockChange mhz) s =
        .next { s with module := { m with clkMhz := mhz.toNat } }) ∧
      (mhz.toNat ≠ m.clkMhz + 25 → mhz.toNat + 25 ≠ m.clkMhz → exec (.clockChange mhz) s = .next s)) ∧
    -- the debug port
    (isGuash addr = true ∨ isHost addr = true →
      exec (.debugPortMemoryAccess addr none) s = .next (s.send (.byte (s.mem.get addr))) ∧
      exec (.debugPortMemoryAccess addr (some b)) s = .next { s with mem := s.mem.put addr b }) ∧
    (isGuash addr = false → isHost addr = false → ∀ w, exec (.debugPortMemoryAccess addr w) s = .next s)

/-! ### Tags, registers and frames. -/

/-- R144, with TRAPDATA as R145 gives it: CheckTag on the sources of VMUL, VDIV, VMIN and VMAX, which accept F32, F64L, BF16X2 and
H16X2. The tests come in order, EMPTY, agreement, membership, pairs, on the active lanes alone, and the lowest failing lane is
reported; the second source must agree with the first. -/
def Obligations.TagMismatchTraps : Prop :=
  ∀ (o : OpR) (s : State) (i : Nat) (t : Tag),
    let a := o.a.toNat
    let b := o.b.toNat
    let low := lowLane s.active
    let on (j : Nat) : Prop := s.active.getLsbD j = true
    let lowest (p : Nat → Prop) : Prop := on i ∧ p i ∧ ∀ j, j < i → on j → ¬ p j
    let traps (c : BitVec 10) (reg lane opnd : Nat) (found : Tag) : Prop :=
      ∀ x ∈ [Instr.vmul o, .vdiv o, .vmin o, .vmax o], Traps (exec x s) s c
        (BitVec.ofNat 64 (reg + found.code * 2 ^ 6 + lane * 2 ^ 10 + opnd * 2 ^ 15))
    let good : Prop := t = .f32 ∨ t = .f64l ∨ t = .bf16x2 ∨ t = .h16x2
    o.u = false → s.active ≠ 0 →
    (lowest (fun j => (s.V a j).tag = .empty) → traps 0x09F a i 0 .empty) ∧
    ((∀ j, on j → (s.V a j).tag ≠ .empty) → (s.V a low).tag = t →
      (lowest (fun j => (s.V a j).tag ≠ t) → traps 0x087 a i 0 (s.V a i).tag) ∧
      ((∀ j, on j → (s.V a j).tag = t) →
        (¬ good → traps (BitVec.ofNat 10 (0x090 + t.code)) a low 0 t) ∧
        (good → s.Tagged t a →
          (lowest (fun j => (s.V b j).tag = .empty) → traps 0x09F b i 1 .empty) ∧
          ((∀ j, on j → (s.V b j).tag ≠ .empty) → (s.V b low).tag = t → lowest (fun j => (s.V b j).tag ≠ t) →
            traps 0x087 b i 1 (s.V b i).tag) ∧
          ((∀ j, on j → (s.V b j).tag ≠ .empty ∧ (s.V b j).tag = (s.V b low).tag) → (s.V b low).tag ≠ t →
            traps 0x087 b low 1 (s.V b low).tag)))) ∧
    (s.Holds .f64l a →
      (a % 2 = 1 → traps 0x085 a low 0 .f64l) ∧
      (a % 2 = 0 → a + 1 < s.vregs → lowest (fun j => (s.V (a + 1) j).tag ≠ .f64h) →
        traps 0x086 a i 0 (s.V (a + 1) i).tag))

/-- R95 and R97: what becomes of a word's register write. It stands among its warp's writes until its completion cycle; a read
in an earlier cycle does not see it; a read from that cycle on sees it unless a write to the same register (and lane) completed
later, or together with it and was issued after it. The writes stand in the order of their completion, and making the completed
ones part of the registers changes no later read. R96 and R98: a word of latency `lat` completes `lat` cycles after its issue; the
cycle in which the result of an interlocked word stands is the model's choice (log 11). -/
def Obligations.RegisterWritesComplete : Prop :=
  (∀ (s : State) (lat : Nat) (d : BitVec 6) (v : Word64),
    let due := if lat = 0 then max (s.focus.issue + 1) s.now + s.focus.slow else s.focus.issue + lat
    let p : Pending := ⟨due, s.focus.issue, s.focus.ord, .s d.toNat v, lat == 0⟩
    (s.writesS lat d v).w = { s.w with pend := addPending p s.w.pend }) ∧
  (∀ (w : Warp) (p : Pending) (c c' : Nat), w.pend.Pairwise (fun p q => p.precedes q = true) →
    let w' := { w with pend := addPending p w.pend }
    let same (x y : Warp) : Prop := x.sregs = y.sregs ∧ x.vregs = y.vregs ∧ x.kregs = y.kregs ∧ x.bregs = y.bregs ∧
      x.gregs = y.gregs ∧ x.hregs = y.hregs ∧ x.trapPc = y.trapPc ∧ x.trapData = y.trapData
    w'.pend.Pairwise (fun p q => p.precedes q = true) ∧ (∀ q, q ∈ w'.pend ↔ q = p ∨ q ∈ w.pend) ∧
    (c < p.due → same (w'.at c) (w.at c)) ∧
    (p.due ≤ c →
      (∀ r v, p.write = .s r v → (∀ q ∈ w.pend, ∀ x, q.write = .s r x → q.due ≤ c → q.precedes p = true) →
        Tab.get (w'.at c).sregs 0 r = v) ∧
      (∀ r l v, p.write = .v r l v →
        (∀ q ∈ w.pend, ∀ r' l' x, q.write = .v r' l' x → 32 * r' + l' = 32 * r + l → q.due ≤ c → q.precedes p = true) →
        Tab.get (w'.at c).vregs {} (32 * r + l) = v) ∧
      (∀ r m v, p.write = .k r m v → (∀ q ∈ w.pend, ∀ m' x, q.write = .k r m' x → q.due ≤ c → q.precedes p = true) →
        ∀ l, m.getLsbD l = true → (Tab.get (w'.at c).kregs 0 r).getLsbD l = v.getLsbD l)) ∧
    (c ≤ c' → same ((w.retire c).at c') (w.at c') ∧ (w.retire c).pend = w.pend.filter (fun p => c < p.due)))

/-- R90, R93, R98 and R101: the frame of the words on scalar, vector and mask registers. A word that ends changes no byte of memory,
no other warp, no workgroup, task, device, group or link, and of its own warp only the writes that it issues, every one to a
register that the word names as a destination; no write issued before is lost. Its program counter, its mask and its trap
registers stay. -/
def Obligations.RegisterWordsFrame : Prop :=
  ∀ (i : Instr) (op : BitVec 8) (s t : State), i.opcode = some op → i.wellFormed = true →
    opcodePipe op.toNat = some .S ∨ opcodePipe op.toNat = some .V ∨ opcodePipe op.toNat = some .T ∨ op = 0x00 →
    op ≠ 0x89 → op ≠ 0x8A → exec i s = .next t → t.focus.out = .done →
    SameMemory s t ∧ t.mem = s.mem ∧ t.tasks = s.tasks ∧ t.devices = s.devices ∧ t.groups = s.groups ∧ t.module = s.module ∧
    t.io = s.io ∧ t.classes = s.classes ∧ t.reclass = s.reclass ∧ t.accessed = s.accessed ∧ t.dirty = s.dirty ∧ t.now = s.now ∧
    t.mapped = s.mapped ∧ t.upset = s.upset ∧ (∀ c k, c ≠ s.focus.core ∨ k ≠ s.focus.slot → t.warp c k = s.warp c k) ∧ (∀ c g, t.wg c g = s.wg c g) ∧
    { t.w with pend := [] } = { s.w with pend := [] } ∧
    (∀ p ∈ s.w.pend, p ∈ t.w.pend) ∧
    (∀ p ∈ t.w.pend, p ∈ s.w.pend ∨ ∃ r ∈ (s.uses i).writes, p.write.cell = some r)

/-! ### Encoding, the step, the invariant and reset. -/

/-- R67, R68, R74 and R79: words written out from the encodings of the spec decode to the instructions that they stand for: the
examples of R74, R99 and R111, and one word of each pipe. -/
def Obligations.DecodeSampleWords : Prop :=
  decodeWords [] [0x00000000] = some (.nop {}) ∧
  decodeWords [] [0x0500828D] = some (.sdiv { d := 4, a := 5, b := 6, m := true }) ∧
  decodeWords [] [0x2E000009, 0x1F00A345] = some (.sli { d := 5, imm := 0x0345, ext := [9] }) ∧
  decodeWords [] [0x30088084] = some (.vadd { d := 4, a := 1, b := 2 }) ∧
  decodeWords [] [0x3200A206] = some (.vmul { d := 5, a := 4, b := 3 }) ∧
  -- SADD s1, s2, #-1: d [18:13], a [12:7], imm [6:0]
  decodeWords [] [0x16 * 2 ^ 24 + 1 * 2 ^ 13 + 2 * 2 ^ 7 + 127] = some (.saddI { d := 1, a := 2, imm := 127 }) ∧
  -- BR -1: imm [18:0]
  decodeWords [] [0x20 * 2 ^ 24 + (2 ^ 19 - 1)] = some (.br { imm := 2 ^ 19 - 1 }) ∧
  -- BRC s3, cc 2, +5: a [18:13], cc [12:10], imm [9:0]
  decodeWords [] [0x21 * 2 ^ 24 + 3 * 2 ^ 13 + 2 * 2 ^ 10 + 5] = some (.brc { a := 3, cc := 2, imm := 5 }) ∧
  -- LD v7 from b1 with an immediate offset of 3, width 2: d [18:13], base [12:10], xk [9], x [8:3], w [2:0]
  decodeWords [] [0x80 * 2 ^ 24 + 7 * 2 ^ 13 + 1 * 2 ^ 10 + 1 * 2 ^ 9 + 3 * 2 ^ 3 + 2] =
    some (.ldM { d := 7, base := 1, xk := true, x := 3, w := 2 }) ∧
  -- ST v7 at s9, offset −1, width 6, with U: d [18:13], a [12:7], off [6:3], w [2:0]
  decodeWords [] [0x91 * 2 ^ 24 + 1 * 2 ^ 22 + 7 * 2 ^ 13 + 9 * 2 ^ 7 + 15 * 2 ^ 3 + 6] =
    some (.stN { u := true, d := 7, a := 9, off := 15, w := 6 }) ∧
  -- REGION +4, m: off [18:1], m [0]
  decodeWords [] [0xDA * 2 ^ 24 + 4 * 2 + 1] = some (.region { off := 4, m := true }) ∧
  -- MMA behind a modifier extension, TSBIND, GBAR, TRAP #3
  decodeWords [] [0x2E100000, 0xB0 * 2 ^ 24 + 1 * 2 ^ 13 + 2 * 2 ^ 7 + 4 * 2] =
    some (.mma { d := 1, a := 2, b := 4, ext := [0x100000] }) ∧
  decodeWords [] [0xC0 * 2 ^ 24 + 5 * 2 ^ 13 + 6 * 2 ^ 7] = some (.tsbind { d := 5, a := 6 }) ∧
  decodeWords [] [0xCF * 2 ^ 24 + 5 * 2 ^ 13 + 8 * 2 ^ 7] = some (.gbar { d := 5, a := 8 }) ∧
  decodeWords [] [0xD8 * 2 ^ 24 + 2 * 2 ^ 13 + 3] = some (.trapL { d := 2, imm := 3 }) ∧
  decodeWords [] [0x2F000000] = none ∧ decodeWords [] [0xF1234567] = none ∧ decodeWords [] [0x2E000000] = none

/-- R67, R68, R74 and R79: decoding the words of an instruction gives the instruction, with every operand and every EXT payload,
and the host carries the chain bit and the stall count that it was given. -/
def Obligations.EncodeThenDecode : Prop :=
  ∀ (c : Bool) (st : BitVec 3) (i : Instr), i.opcode.isSome = true →
    decodeWords [] (encode c st i) = some i ∧ (encode c st i).length = i.extLen + 1 ∧
    ∀ w, (encode c st i).getLast? = some w → w.getLsbD 23 = c ∧ w.extractLsb' 19 3 = st

/-- R67, R68, R72, R76, R79, R80 and R82: every word is an instruction of the opcode map, and then encoding that instruction gives
the word again; or it is an EXT word, a dictionary word or a reserved point. A packet whose first word, or the first dictionary
entry that it selects, is the reserved point number n of the map (from 0, ascending) fails with cause 0x040 + 0x0A + n, and
TRAPDATA names the word; with U = 1 where the table of R81 does not allow it the lower cause 0x048 is reported. -/
def Obligations.DecodeThenEncode : Prop :=
  (∀ (x : List (BitVec 24)) (w : Word32),
    (∀ i, decodeWord x w = some i → i.opcode = some (w.extractLsb' 24 8) ∧
      encode (w.getLsbD 23) (w.extractLsb' 19 3) i = x.map extWord ++ [w]) ∧
    (decodeWord x w = none ↔ (w.extractLsb' 24 8).toNat ∈ reservedPoints ∨ w.extractLsb' 24 8 = 0x2E ∨ 0xF0 ≤ w.extractLsb' 24 8)) ∧
  reservedPoints.Pairwise (· < ·) ∧
  (∀ (regs n : Nat) (tiles : BitVec 4) (dict : List Word32) (w0 w1 w2 e : Word32),
    let cause (w : Word32) : BitVec 10 :=
      if w.getLsbD 22 && !([0x3F, 0x5F] : List Nat).contains (w.extractLsb' 24 8).toNat then 0x048 else BitVec.ofNat 10 (0x04A + n)
    (reservedPoints[n]? = some (w0.extractLsb' 24 8).toNat →
      decodePacket regs tiles (some dict) w0 w1 w2 = .error ⟨cause w0, w0.setWidth 64⟩ ∧
      decodePacket regs tiles none w0 w1 w2 = .error ⟨cause w0, w0.setWidth 64⟩) ∧
    (w0.extractLsb' 28 4 = 0xF → dict[(w0.extractLsb' 14 10).toNat]? = some e →
      reservedPoints[n]? = some (e.extractLsb' 24 8).toNat →
      ∃ v : Word32, v.extractLsb' 24 8 = e.extractLsb' 24 8 ∧ v.extractLsb' 0 19 = e.extractLsb' 0 19 ∧
        decodePacket regs tiles (some dict) w0 w1 w2 =
          .error ⟨cause e, BitVec.ofNat 64 (v.toNat + 2 ^ 34)⟩))

/-- R64, R72, R92, R93: a step in which a quadrant issues runs the words that stand at the program counter. The fragment
that the quadrant considers first fetches its packet; if the words decode to groups, the first group with a word in it is
ready and the scoreboard test finds nothing, the step is the run of that group's words in order (`runWords`), and then the
ends of units whose backing failed. A run of words is `exec` of each word's instruction by that fragment, in order, until
one waits or traps; a word that is done makes room for the next. A step that the hardware takes is `exec` of it, where no
fatal event stands against it; a tick only lets the clock run. Choices of the model: the pointer (log 80), a failing
scoreboard test (log 81), the words behind one that waits (log 5). -/
def Obligations.StepRunsDecodedInstruction : Prop :=
  (∀ (s s0 s4 : State) (c : Fin 192) (q : Fin 4) (delay slow : Nat) (lanes : BitVec 32) (r : Ready) (rest : List Ready)
      (w0 w1 w2 : Word32) (ws : List DWord) (gs : List (List DWord)),
    let on (s : State) : State :=
      let s := s.focusOn c.val r.slot r.frag
      { s with focus := { s.focus with lanes := lanes, issue := s.now, slow := slow } }
    let s1 := s0.advance delay
    let s2 := (s1.restoreQuad c.val q.val).passSplits c.val q.val
    let s3 := on s2
    let f := s3.f
    let s5 := s4.setF { s4.f with decoded := true, groups := ws :: gs, failed := none }
    let s6 := on s5
    s.nextTurn = (.issue c q delay 0 lanes slow, s0) →
    s1.module.fatal = none → s1.dieRuns (dieOf c.val) = true → (s1.device (dieOf c.val)).dhalt = false →
    (s1.quad c.val q.val).lastIssue ≠ some s1.now → s2.readyFrags c.val q.val = r :: rest →
    f.decoded = false → f.startGroup = 0 → f.token = none → s3.t.desc.holdsPacket f.pc.toNat = true →
    (s3.setF { f with groupNo := 0, park := .none }).fetchWords f.pc.toNat 3 [] = .inr ([w0, w1, w2], s4) →
    s4.focus = s3.focus → s4.f.park = .none →
    decodePacket (8 * s3.t.desc.regs) s3.t.desc.tiles s4.t.dict w0 w1 w2 = .ok (ws :: gs) →
    (∃ d ∈ ws, d.pipe.isSome = true) → s6.groupReady ws = true → (s6.issueGroup ws gs).boardCheck ws = none →
    step s = match (s6.issueGroup ws gs).runWords 6 with
      | .next t => .next (s.serveFreed t.settle)
      | .fault e => .fault e
      | .refused e => .refused e) ∧
  (∀ (u t : State) (n : Nat) (d : DWord) (ds : List DWord),
    let fc := u.focus
    let v := u.focusOn fc.core fc.slot fc.frag
    (u.frag fc.core fc.slot fc.frag).words = d :: ds →
    exec d.instr { v with focus := { v.focus with lanes := fc.lanes, slow := fc.slow } } = .next t →
    let here := Tab.find (t.warp fc.core fc.slot).frags fc.frag
    (here = none → u.runWords (n + 1) = .next t) ∧
    (t.focus.out = .trapped → u.runWords (n + 1) = .next t) ∧
    -- behind a word that waits, the prompt words of the group take effect
    (∀ g, t.focus.out = .waiting → here = some g →
      let b := t.runBehind g.words.tail
      u.runWords (n + 1) =
        .next (b.1.setFrag fc.core fc.slot fc.frag { b.1.frag fc.core fc.slot fc.frag with words := g.words.take 1 ++ b.2 })) ∧
    (∀ g, t.focus.out = .done → here = some g → g.words = [] → u.runWords (n + 1) = .next t) ∧
    (∀ g, t.focus.out = .done → here = some g → g.words ≠ [] →
      let a := t.answered d
      u.runWords (n + 1) =
        (a.setFrag fc.core fc.slot fc.frag (a.frag fc.core fc.slot fc.frag).finishWord).runWords n)) ∧
  (∀ (u t : State) (d : DWord) (ds : List DWord),
    let on : State := { u with focus := { u.focus with pos := d.pos, ord := d.pos, enc := d.enc } }
    let stays (r : State × List DWord) : State × List DWord := (r.1, d :: r.2)
    (isPrompt d = false → u.runBehind (d :: ds) = stays (u.runBehind ds)) ∧
    (isPrompt d = true → exec d.instr on = .next t →
      (t.focus.out = .done → u.runBehind (d :: ds) = { t with focus := u.focus }.runBehind ds) ∧
      (t.focus.out ≠ .done → u.runBehind (d :: ds) = stays (u.runBehind ds))) ∧
    u.runBehind [] = (u, [])) ∧
  (∀ (u : State) (n : Nat), (u.frag u.focus.core u.focus.slot u.focus.frag).words = [] → u.runWords n = .next u) ∧
  (∀ (s s0 t : State) (i : Instr) (n : Nat),
    (s.nextTurn = (.event i, s0) → i.opcode = none → needsDie i = false ∨ s0.module.fatal = none →
      exec i s0 = .next t → step s = .next (s.serveFreed t.settle)) ∧
    (s.nextTurn = (.tick n, s0) → step s = .next (s.serveFreed (s0.advance n).settle)))

/-- Every step keeps the canonical form of memory: its cells stand in the order of their addresses, each once, and none holds
what an unlisted address reads as (the model's form of R9's bytes; log 3). -/
def Obligations.StepKeepsMemoryCanonical : Prop :=
  ∀ s t : State, s.Safe → step s = .next t → t.Safe

/-- R12 with the reset columns of the register tables: what the host reads from the control windows at reset. Nothing is resident, and memory
lists nothing: that every byte then reads 0 is the model's choice (log 3). -/
def Obligations.ResetState : Prop :=
  let s := State.reset
  s.Safe ∧ (∀ a, s.mem.get a = 0) ∧ s.cores = [] ∧ s.tasks = [] ∧ s.groups = [] ∧ s.module.fatal = none ∧
  (∀ d q o : Nat, d < 4 → q < 32 → o < 128 → s.readReg d (0x10000 + 128 * q + o) = 0) ∧
  (∀ d : Nat, d < 4 →
    s.readReg d 0x9000 = 0x800 ∧ s.readReg d 0x9008 = 0 ∧ s.readReg d 0x9010 = 7 ∧ s.readReg d 0x9018 = 0 ∧
    s.readReg d 0x9100 = 0 ∧ s.readReg d 0xA000 = 0x4000 ∧ s.readReg d 0xA008 = 4096 + 32768 * 2 ^ 16 ∧
    s.readReg d 0xC000 = 32 + 160 * 2 ^ 8 + 96 * 2 ^ 16 + 96 * 2 ^ 24 + 16 * 2 ^ 32 + 32 * 2 ^ 40 + 16 * 2 ^ 48 ∧
    s.readReg d 0xD000 = 0 ∧ s.readReg d 0xD028 = 0 ∧ s.readReg d 0xE000 = 16 + 32 ∧ s.readReg d 0xE008 = 0x01000000 ∧
    s.readReg d 0xE010 = 0xFFFFFFFFFFFF ∧ s.readReg d 0xE018 = 0 ∧ s.readReg d 0xF008 = 0) ∧
  (∀ p o : Nat, p < 16 → o < 64 → s.readReg 0 (0x20000 + 64 * p + o) = 0) ∧ s.readReg 0 0x20400 = 0x0AF0 ∧
  (∀ e o : Nat, e < 4096 → o < 32 → s.readReg 0 (0x40000 + 32 * e + o) = 0) ∧
  s.readReg 0 0x30028 = 0 ∧ s.readReg 0 0x30030 = 0 ∧ s.readReg 0 0x30048 = 0 ∧ s.readReg 0 0x31000 = 0
end

