-- ==== Sys2Proof/Laws/State.lean ====
section
/-! SUPPORT. Every field of the state after every plain update of it: the updates of a place of the state leave all
fields but the one that holds the place. -/

namespace Sys2Proof.Machine

@[simp] theorem State.setCore_now (s : State) (c : Nat) (x : Core) : (s.setCore c x).now = s.now := rfl
@[simp] theorem State.setCore_turns (s : State) (c : Nat) (x : Core) : (s.setCore c x).turns = s.turns := rfl
@[simp] theorem State.setCore_turnNo (s : State) (c : Nat) (x : Core) : (s.setCore c x).turnNo = s.turnNo := rfl
@[simp] theorem State.setCore_focus (s : State) (c : Nat) (x : Core) : (s.setCore c x).focus = s.focus := rfl
@[simp] theorem State.setCore_mem (s : State) (c : Nat) (x : Core) : (s.setCore c x).mem = s.mem := rfl
@[simp] theorem State.setCore_classes (s : State) (c : Nat) (x : Core) : (s.setCore c x).classes = s.classes := rfl
@[simp] theorem State.setCore_mapped (s : State) (c : Nat) (x : Core) : (s.setCore c x).mapped = s.mapped := rfl
@[simp] theorem State.setCore_upset (s : State) (c : Nat) (x : Core) : (s.setCore c x).upset = s.upset := rfl
@[simp] theorem State.setCore_reclass (s : State) (c : Nat) (x : Core) : (s.setCore c x).reclass = s.reclass := rfl
@[simp] theorem State.setCore_accessed (s : State) (c : Nat) (x : Core) : (s.setCore c x).accessed = s.accessed := rfl
@[simp] theorem State.setCore_dirty (s : State) (c : Nat) (x : Core) : (s.setCore c x).dirty = s.dirty := rfl
@[simp] theorem State.setCore_lost (s : State) (c : Nat) (x : Core) : (s.setCore c x).lost = s.lost := rfl
@[simp] theorem State.setCore_devices (s : State) (c : Nat) (x : Core) : (s.setCore c x).devices = s.devices := rfl
@[simp] theorem State.setCore_tasks (s : State) (c : Nat) (x : Core) : (s.setCore c x).tasks = s.tasks := rfl
@[simp] theorem State.setCore_nextTask (s : State) (c : Nat) (x : Core) : (s.setCore c x).nextTask = s.nextTask := rfl
@[simp] theorem State.setCore_groups (s : State) (c : Nat) (x : Core) : (s.setCore c x).groups = s.groups := rfl
@[simp] theorem State.setCore_slices (s : State) (c : Nat) (x : Core) : (s.setCore c x).slices = s.slices := rfl
@[simp] theorem State.setCore_module (s : State) (c : Nat) (x : Core) : (s.setCore c x).module = s.module := rfl
@[simp] theorem State.setCore_fuses (s : State) (c : Nat) (x : Core) : (s.setCore c x).fuses = s.fuses := rfl
@[simp] theorem State.setCore_io (s : State) (c : Nat) (x : Core) : (s.setCore c x).io = s.io := rfl

@[simp] theorem State.setWarp_now (s : State) (c k : Nat) (x : Warp) : (s.setWarp c k x).now = s.now := rfl
@[simp] theorem State.setWarp_turns (s : State) (c k : Nat) (x : Warp) : (s.setWarp c k x).turns = s.turns := rfl
@[simp] theorem State.setWarp_turnNo (s : State) (c k : Nat) (x : Warp) : (s.setWarp c k x).turnNo = s.turnNo := rfl
@[simp] theorem State.setWarp_focus (s : State) (c k : Nat) (x : Warp) : (s.setWarp c k x).focus = s.focus := rfl
@[simp] theorem State.setWarp_mem (s : State) (c k : Nat) (x : Warp) : (s.setWarp c k x).mem = s.mem := rfl
@[simp] theorem State.setWarp_classes (s : State) (c k : Nat) (x : Warp) : (s.setWarp c k x).classes = s.classes := rfl
@[simp] theorem State.setWarp_mapped (s : State) (c k : Nat) (x : Warp) : (s.setWarp c k x).mapped = s.mapped := rfl
@[simp] theorem State.setWarp_upset (s : State) (c k : Nat) (x : Warp) : (s.setWarp c k x).upset = s.upset := rfl
@[simp] theorem State.setWarp_reclass (s : State) (c k : Nat) (x : Warp) : (s.setWarp c k x).reclass = s.reclass := rfl
@[simp] theorem State.setWarp_accessed (s : State) (c k : Nat) (x : Warp) : (s.setWarp c k x).accessed = s.accessed := rfl
@[simp] theorem State.setWarp_dirty (s : State) (c k : Nat) (x : Warp) : (s.setWarp c k x).dirty = s.dirty := rfl
@[simp] theorem State.setWarp_lost (s : State) (c k : Nat) (x : Warp) : (s.setWarp c k x).lost = s.lost := rfl
@[simp] theorem State.setWarp_devices (s : State) (c k : Nat) (x : Warp) : (s.setWarp c k x).devices = s.devices := rfl
@[simp] theorem State.setWarp_tasks (s : State) (c k : Nat) (x : Warp) : (s.setWarp c k x).tasks = s.tasks := rfl
@[simp] theorem State.setWarp_nextTask (s : State) (c k : Nat) (x : Warp) : (s.setWarp c k x).nextTask = s.nextTask := rfl
@[simp] theorem State.setWarp_groups (s : State) (c k : Nat) (x : Warp) : (s.setWarp c k x).groups = s.groups := rfl
@[simp] theorem State.setWarp_slices (s : State) (c k : Nat) (x : Warp) : (s.setWarp c k x).slices = s.slices := rfl
@[simp] theorem State.setWarp_module (s : State) (c k : Nat) (x : Warp) : (s.setWarp c k x).module = s.module := rfl
@[simp] theorem State.setWarp_fuses (s : State) (c k : Nat) (x : Warp) : (s.setWarp c k x).fuses = s.fuses := rfl
@[simp] theorem State.setWarp_io (s : State) (c k : Nat) (x : Warp) : (s.setWarp c k x).io = s.io := rfl

@[simp] theorem State.setFrag_now (s : State) (c k f : Nat) (x : Frag) : (s.setFrag c k f x).now = s.now := rfl
@[simp] theorem State.setFrag_turns (s : State) (c k f : Nat) (x : Frag) : (s.setFrag c k f x).turns = s.turns := rfl
@[simp] theorem State.setFrag_turnNo (s : State) (c k f : Nat) (x : Frag) : (s.setFrag c k f x).turnNo = s.turnNo := rfl
@[simp] theorem State.setFrag_focus (s : State) (c k f : Nat) (x : Frag) : (s.setFrag c k f x).focus = s.focus := rfl
@[simp] theorem State.setFrag_mem (s : State) (c k f : Nat) (x : Frag) : (s.setFrag c k f x).mem = s.mem := rfl
@[simp] theorem State.setFrag_classes (s : State) (c k f : Nat) (x : Frag) : (s.setFrag c k f x).classes = s.classes := rfl
@[simp] theorem State.setFrag_mapped (s : State) (c k f : Nat) (x : Frag) : (s.setFrag c k f x).mapped = s.mapped := rfl
@[simp] theorem State.setFrag_upset (s : State) (c k f : Nat) (x : Frag) : (s.setFrag c k f x).upset = s.upset := rfl
@[simp] theorem State.setFrag_reclass (s : State) (c k f : Nat) (x : Frag) : (s.setFrag c k f x).reclass = s.reclass := rfl
@[simp] theorem State.setFrag_accessed (s : State) (c k f : Nat) (x : Frag) :
    (s.setFrag c k f x).accessed = s.accessed := rfl
@[simp] theorem State.setFrag_dirty (s : State) (c k f : Nat) (x : Frag) : (s.setFrag c k f x).dirty = s.dirty := rfl
@[simp] theorem State.setFrag_lost (s : State) (c k f : Nat) (x : Frag) : (s.setFrag c k f x).lost = s.lost := rfl
@[simp] theorem State.setFrag_devices (s : State) (c k f : Nat) (x : Frag) : (s.setFrag c k f x).devices = s.devices := rfl
@[simp] theorem State.setFrag_tasks (s : State) (c k f : Nat) (x : Frag) : (s.setFrag c k f x).tasks = s.tasks := rfl
@[simp] theorem State.setFrag_nextTask (s : State) (c k f : Nat) (x : Frag) :
    (s.setFrag c k f x).nextTask = s.nextTask := rfl
@[simp] theorem State.setFrag_groups (s : State) (c k f : Nat) (x : Frag) : (s.setFrag c k f x).groups = s.groups := rfl
@[simp] theorem State.setFrag_slices (s : State) (c k f : Nat) (x : Frag) : (s.setFrag c k f x).slices = s.slices := rfl
@[simp] theorem State.setFrag_module (s : State) (c k f : Nat) (x : Frag) : (s.setFrag c k f x).module = s.module := rfl
@[simp] theorem State.setFrag_fuses (s : State) (c k f : Nat) (x : Frag) : (s.setFrag c k f x).fuses = s.fuses := rfl
@[simp] theorem State.setFrag_io (s : State) (c k f : Nat) (x : Frag) : (s.setFrag c k f x).io = s.io := rfl

@[simp] theorem State.setWg_now (s : State) (c g : Nat) (x : Workgroup) : (s.setWg c g x).now = s.now := rfl
@[simp] theorem State.setWg_turns (s : State) (c g : Nat) (x : Workgroup) : (s.setWg c g x).turns = s.turns := rfl
@[simp] theorem State.setWg_turnNo (s : State) (c g : Nat) (x : Workgroup) : (s.setWg c g x).turnNo = s.turnNo := rfl
@[simp] theorem State.setWg_focus (s : State) (c g : Nat) (x : Workgroup) : (s.setWg c g x).focus = s.focus := rfl
@[simp] theorem State.setWg_mem (s : State) (c g : Nat) (x : Workgroup) : (s.setWg c g x).mem = s.mem := rfl
@[simp] theorem State.setWg_classes (s : State) (c g : Nat) (x : Workgroup) : (s.setWg c g x).classes = s.classes := rfl
@[simp] theorem State.setWg_mapped (s : State) (c g : Nat) (x : Workgroup) : (s.setWg c g x).mapped = s.mapped := rfl
@[simp] theorem State.setWg_upset (s : State) (c g : Nat) (x : Workgroup) : (s.setWg c g x).upset = s.upset := rfl
@[simp] theorem State.setWg_reclass (s : State) (c g : Nat) (x : Workgroup) : (s.setWg c g x).reclass = s.reclass := rfl
@[simp] theorem State.setWg_accessed (s : State) (c g : Nat) (x : Workgroup) : (s.setWg c g x).accessed = s.accessed := rfl
@[simp] theorem State.setWg_dirty (s : State) (c g : Nat) (x : Workgroup) : (s.setWg c g x).dirty = s.dirty := rfl
@[simp] theorem State.setWg_lost (s : State) (c g : Nat) (x : Workgroup) : (s.setWg c g x).lost = s.lost := rfl
@[simp] theorem State.setWg_devices (s : State) (c g : Nat) (x : Workgroup) : (s.setWg c g x).devices = s.devices := rfl
@[simp] theorem State.setWg_tasks (s : State) (c g : Nat) (x : Workgroup) : (s.setWg c g x).tasks = s.tasks := rfl
@[simp] theorem State.setWg_nextTask (s : State) (c g : Nat) (x : Workgroup) : (s.setWg c g x).nextTask = s.nextTask := rfl
@[simp] theorem State.setWg_groups (s : State) (c g : Nat) (x : Workgroup) : (s.setWg c g x).groups = s.groups := rfl
@[simp] theorem State.setWg_slices (s : State) (c g : Nat) (x : Workgroup) : (s.setWg c g x).slices = s.slices := rfl
@[simp] theorem State.setWg_module (s : State) (c g : Nat) (x : Workgroup) : (s.setWg c g x).module = s.module := rfl
@[simp] theorem State.setWg_fuses (s : State) (c g : Nat) (x : Workgroup) : (s.setWg c g x).fuses = s.fuses := rfl
@[simp] theorem State.setWg_io (s : State) (c g : Nat) (x : Workgroup) : (s.setWg c g x).io = s.io := rfl

@[simp] theorem State.setQuad_now (s : State) (c q : Nat) (x : Quad) : (s.setQuad c q x).now = s.now := rfl
@[simp] theorem State.setQuad_turns (s : State) (c q : Nat) (x : Quad) : (s.setQuad c q x).turns = s.turns := rfl
@[simp] theorem State.setQuad_turnNo (s : State) (c q : Nat) (x : Quad) : (s.setQuad c q x).turnNo = s.turnNo := rfl
@[simp] theorem State.setQuad_focus (s : State) (c q : Nat) (x : Quad) : (s.setQuad c q x).focus = s.focus := rfl
@[simp] theorem State.setQuad_mem (s : State) (c q : Nat) (x : Quad) : (s.setQuad c q x).mem = s.mem := rfl
@[simp] theorem State.setQuad_classes (s : State) (c q : Nat) (x : Quad) : (s.setQuad c q x).classes = s.classes := rfl
@[simp] theorem State.setQuad_mapped (s : State) (c q : Nat) (x : Quad) : (s.setQuad c q x).mapped = s.mapped := rfl
@[simp] theorem State.setQuad_upset (s : State) (c q : Nat) (x : Quad) : (s.setQuad c q x).upset = s.upset := rfl
@[simp] theorem State.setQuad_reclass (s : State) (c q : Nat) (x : Quad) : (s.setQuad c q x).reclass = s.reclass := rfl
@[simp] theorem State.setQuad_accessed (s : State) (c q : Nat) (x : Quad) : (s.setQuad c q x).accessed = s.accessed := rfl
@[simp] theorem State.setQuad_dirty (s : State) (c q : Nat) (x : Quad) : (s.setQuad c q x).dirty = s.dirty := rfl
@[simp] theorem State.setQuad_lost (s : State) (c q : Nat) (x : Quad) : (s.setQuad c q x).lost = s.lost := rfl
@[simp] theorem State.setQuad_devices (s : State) (c q : Nat) (x : Quad) : (s.setQuad c q x).devices = s.devices := rfl
@[simp] theorem State.setQuad_tasks (s : State) (c q : Nat) (x : Quad) : (s.setQuad c q x).tasks = s.tasks := rfl
@[simp] theorem State.setQuad_nextTask (s : State) (c q : Nat) (x : Quad) : (s.setQuad c q x).nextTask = s.nextTask := rfl
@[simp] theorem State.setQuad_groups (s : State) (c q : Nat) (x : Quad) : (s.setQuad c q x).groups = s.groups := rfl
@[simp] theorem State.setQuad_slices (s : State) (c q : Nat) (x : Quad) : (s.setQuad c q x).slices = s.slices := rfl
@[simp] theorem State.setQuad_module (s : State) (c q : Nat) (x : Quad) : (s.setQuad c q x).module = s.module := rfl
@[simp] theorem State.setQuad_fuses (s : State) (c q : Nat) (x : Quad) : (s.setQuad c q x).fuses = s.fuses := rfl
@[simp] theorem State.setQuad_io (s : State) (c q : Nat) (x : Quad) : (s.setQuad c q x).io = s.io := rfl

@[simp] theorem State.setW_now (s : State) (x : Warp) : (s.setW x).now = s.now := rfl
@[simp] theorem State.setW_turns (s : State) (x : Warp) : (s.setW x).turns = s.turns := rfl
@[simp] theorem State.setW_turnNo (s : State) (x : Warp) : (s.setW x).turnNo = s.turnNo := rfl
@[simp] theorem State.setW_focus (s : State) (x : Warp) : (s.setW x).focus = s.focus := rfl
@[simp] theorem State.setW_mem (s : State) (x : Warp) : (s.setW x).mem = s.mem := rfl
@[simp] theorem State.setW_classes (s : State) (x : Warp) : (s.setW x).classes = s.classes := rfl
@[simp] theorem State.setW_mapped (s : State) (x : Warp) : (s.setW x).mapped = s.mapped := rfl
@[simp] theorem State.setW_upset (s : State) (x : Warp) : (s.setW x).upset = s.upset := rfl
@[simp] theorem State.setW_reclass (s : State) (x : Warp) : (s.setW x).reclass = s.reclass := rfl
@[simp] theorem State.setW_accessed (s : State) (x : Warp) : (s.setW x).accessed = s.accessed := rfl
@[simp] theorem State.setW_dirty (s : State) (x : Warp) : (s.setW x).dirty = s.dirty := rfl
@[simp] theorem State.setW_lost (s : State) (x : Warp) : (s.setW x).lost = s.lost := rfl
@[simp] theorem State.setW_devices (s : State) (x : Warp) : (s.setW x).devices = s.devices := rfl
@[simp] theorem State.setW_tasks (s : State) (x : Warp) : (s.setW x).tasks = s.tasks := rfl
@[simp] theorem State.setW_nextTask (s : State) (x : Warp) : (s.setW x).nextTask = s.nextTask := rfl
@[simp] theorem State.setW_groups (s : State) (x : Warp) : (s.setW x).groups = s.groups := rfl
@[simp] theorem State.setW_slices (s : State) (x : Warp) : (s.setW x).slices = s.slices := rfl
@[simp] theorem State.setW_module (s : State) (x : Warp) : (s.setW x).module = s.module := rfl
@[simp] theorem State.setW_fuses (s : State) (x : Warp) : (s.setW x).fuses = s.fuses := rfl
@[simp] theorem State.setW_io (s : State) (x : Warp) : (s.setW x).io = s.io := rfl

@[simp] theorem State.setF_now (s : State) (x : Frag) : (s.setF x).now = s.now := rfl
@[simp] theorem State.setF_turns (s : State) (x : Frag) : (s.setF x).turns = s.turns := rfl
@[simp] theorem State.setF_turnNo (s : State) (x : Frag) : (s.setF x).turnNo = s.turnNo := rfl
@[simp] theorem State.setF_focus (s : State) (x : Frag) : (s.setF x).focus = s.focus := rfl
@[simp] theorem State.setF_mem (s : State) (x : Frag) : (s.setF x).mem = s.mem := rfl
@[simp] theorem State.setF_classes (s : State) (x : Frag) : (s.setF x).classes = s.classes := rfl
@[simp] theorem State.setF_mapped (s : State) (x : Frag) : (s.setF x).mapped = s.mapped := rfl
@[simp] theorem State.setF_upset (s : State) (x : Frag) : (s.setF x).upset = s.upset := rfl
@[simp] theorem State.setF_reclass (s : State) (x : Frag) : (s.setF x).reclass = s.reclass := rfl
@[simp] theorem State.setF_accessed (s : State) (x : Frag) : (s.setF x).accessed = s.accessed := rfl
@[simp] theorem State.setF_dirty (s : State) (x : Frag) : (s.setF x).dirty = s.dirty := rfl
@[simp] theorem State.setF_lost (s : State) (x : Frag) : (s.setF x).lost = s.lost := rfl
@[simp] theorem State.setF_devices (s : State) (x : Frag) : (s.setF x).devices = s.devices := rfl
@[simp] theorem State.setF_tasks (s : State) (x : Frag) : (s.setF x).tasks = s.tasks := rfl
@[simp] theorem State.setF_nextTask (s : State) (x : Frag) : (s.setF x).nextTask = s.nextTask := rfl
@[simp] theorem State.setF_groups (s : State) (x : Frag) : (s.setF x).groups = s.groups := rfl
@[simp] theorem State.setF_slices (s : State) (x : Frag) : (s.setF x).slices = s.slices := rfl
@[simp] theorem State.setF_module (s : State) (x : Frag) : (s.setF x).module = s.module := rfl
@[simp] theorem State.setF_fuses (s : State) (x : Frag) : (s.setF x).fuses = s.fuses := rfl
@[simp] theorem State.setF_io (s : State) (x : Frag) : (s.setF x).io = s.io := rfl

@[simp] theorem State.setG_now (s : State) (x : Workgroup) : (s.setG x).now = s.now := rfl
@[simp] theorem State.setG_turns (s : State) (x : Workgroup) : (s.setG x).turns = s.turns := rfl
@[simp] theorem State.setG_turnNo (s : State) (x : Workgroup) : (s.setG x).turnNo = s.turnNo := rfl
@[simp] theorem State.setG_focus (s : State) (x : Workgroup) : (s.setG x).focus = s.focus := rfl
@[simp] theorem State.setG_mem (s : State) (x : Workgroup) : (s.setG x).mem = s.mem := rfl
@[simp] theorem State.setG_classes (s : State) (x : Workgroup) : (s.setG x).classes = s.classes := rfl
@[simp] theorem State.setG_mapped (s : State) (x : Workgroup) : (s.setG x).mapped = s.mapped := rfl
@[simp] theorem State.setG_upset (s : State) (x : Workgroup) : (s.setG x).upset = s.upset := rfl
@[simp] theorem State.setG_reclass (s : State) (x : Workgroup) : (s.setG x).reclass = s.reclass := rfl
@[simp] theorem State.setG_accessed (s : State) (x : Workgroup) : (s.setG x).accessed = s.accessed := rfl
@[simp] theorem State.setG_dirty (s : State) (x : Workgroup) : (s.setG x).dirty = s.dirty := rfl
@[simp] theorem State.setG_lost (s : State) (x : Workgroup) : (s.setG x).lost = s.lost := rfl
@[simp] theorem State.setG_devices (s : State) (x : Workgroup) : (s.setG x).devices = s.devices := rfl
@[simp] theorem State.setG_tasks (s : State) (x : Workgroup) : (s.setG x).tasks = s.tasks := rfl
@[simp] theorem State.setG_nextTask (s : State) (x : Workgroup) : (s.setG x).nextTask = s.nextTask := rfl
@[simp] theorem State.setG_groups (s : State) (x : Workgroup) : (s.setG x).groups = s.groups := rfl
@[simp] theorem State.setG_slices (s : State) (x : Workgroup) : (s.setG x).slices = s.slices := rfl
@[simp] theorem State.setG_module (s : State) (x : Workgroup) : (s.setG x).module = s.module := rfl
@[simp] theorem State.setG_fuses (s : State) (x : Workgroup) : (s.setG x).fuses = s.fuses := rfl
@[simp] theorem State.setG_io (s : State) (x : Workgroup) : (s.setG x).io = s.io := rfl

@[simp] theorem State.setDevice_now (s : State) (d : Nat) (x : Device) : (s.setDevice d x).now = s.now := rfl
@[simp] theorem State.setDevice_turns (s : State) (d : Nat) (x : Device) : (s.setDevice d x).turns = s.turns := rfl
@[simp] theorem State.setDevice_turnNo (s : State) (d : Nat) (x : Device) : (s.setDevice d x).turnNo = s.turnNo := rfl
@[simp] theorem State.setDevice_focus (s : State) (d : Nat) (x : Device) : (s.setDevice d x).focus = s.focus := rfl
@[simp] theorem State.setDevice_mem (s : State) (d : Nat) (x : Device) : (s.setDevice d x).mem = s.mem := rfl
@[simp] theorem State.setDevice_classes (s : State) (d : Nat) (x : Device) : (s.setDevice d x).classes = s.classes := rfl
@[simp] theorem State.setDevice_mapped (s : State) (d : Nat) (x : Device) : (s.setDevice d x).mapped = s.mapped := rfl
@[simp] theorem State.setDevice_upset (s : State) (d : Nat) (x : Device) : (s.setDevice d x).upset = s.upset := rfl
@[simp] theorem State.setDevice_reclass (s : State) (d : Nat) (x : Device) : (s.setDevice d x).reclass = s.reclass := rfl
@[simp] theorem State.setDevice_accessed (s : State) (d : Nat) (x : Device) : (s.setDevice d x).accessed = s.accessed := rfl
@[simp] theorem State.setDevice_dirty (s : State) (d : Nat) (x : Device) : (s.setDevice d x).dirty = s.dirty := rfl
@[simp] theorem State.setDevice_lost (s : State) (d : Nat) (x : Device) : (s.setDevice d x).lost = s.lost := rfl
@[simp] theorem State.setDevice_cores (s : State) (d : Nat) (x : Device) : (s.setDevice d x).cores = s.cores := rfl
@[simp] theorem State.setDevice_tasks (s : State) (d : Nat) (x : Device) : (s.setDevice d x).tasks = s.tasks := rfl
@[simp] theorem State.setDevice_nextTask (s : State) (d : Nat) (x : Device) : (s.setDevice d x).nextTask = s.nextTask := rfl
@[simp] theorem State.setDevice_groups (s : State) (d : Nat) (x : Device) : (s.setDevice d x).groups = s.groups := rfl
@[simp] theorem State.setDevice_slices (s : State) (d : Nat) (x : Device) : (s.setDevice d x).slices = s.slices := rfl
@[simp] theorem State.setDevice_module (s : State) (d : Nat) (x : Device) : (s.setDevice d x).module = s.module := rfl
@[simp] theorem State.setDevice_fuses (s : State) (d : Nat) (x : Device) : (s.setDevice d x).fuses = s.fuses := rfl
@[simp] theorem State.setDevice_io (s : State) (d : Nat) (x : Device) : (s.setDevice d x).io = s.io := rfl

@[simp] theorem State.setQueue_now (s : State) (d q : Nat) (x : Queue) : (s.setQueue d q x).now = s.now := rfl
@[simp] theorem State.setQueue_turns (s : State) (d q : Nat) (x : Queue) : (s.setQueue d q x).turns = s.turns := rfl
@[simp] theorem State.setQueue_turnNo (s : State) (d q : Nat) (x : Queue) : (s.setQueue d q x).turnNo = s.turnNo := rfl
@[simp] theorem State.setQueue_focus (s : State) (d q : Nat) (x : Queue) : (s.setQueue d q x).focus = s.focus := rfl
@[simp] theorem State.setQueue_mem (s : State) (d q : Nat) (x : Queue) : (s.setQueue d q x).mem = s.mem := rfl
@[simp] theorem State.setQueue_classes (s : State) (d q : Nat) (x : Queue) : (s.setQueue d q x).classes = s.classes := rfl
@[simp] theorem State.setQueue_mapped (s : State) (d q : Nat) (x : Queue) : (s.setQueue d q x).mapped = s.mapped := rfl
@[simp] theorem State.setQueue_upset (s : State) (d q : Nat) (x : Queue) : (s.setQueue d q x).upset = s.upset := rfl
@[simp] theorem State.setQueue_reclass (s : State) (d q : Nat) (x : Queue) : (s.setQueue d q x).reclass = s.reclass := rfl
@[simp] theorem State.setQueue_accessed (s : State) (d q : Nat) (x : Queue) : (s.setQueue d q x).accessed = s.accessed := rfl
@[simp] theorem State.setQueue_dirty (s : State) (d q : Nat) (x : Queue) : (s.setQueue d q x).dirty = s.dirty := rfl
@[simp] theorem State.setQueue_lost (s : State) (d q : Nat) (x : Queue) : (s.setQueue d q x).lost = s.lost := rfl
@[simp] theorem State.setQueue_cores (s : State) (d q : Nat) (x : Queue) : (s.setQueue d q x).cores = s.cores := rfl
@[simp] theorem State.setQueue_tasks (s : State) (d q : Nat) (x : Queue) : (s.setQueue d q x).tasks = s.tasks := rfl
@[simp] theorem State.setQueue_nextTask (s : State) (d q : Nat) (x : Queue) : (s.setQueue d q x).nextTask = s.nextTask := rfl
@[simp] theorem State.setQueue_groups (s : State) (d q : Nat) (x : Queue) : (s.setQueue d q x).groups = s.groups := rfl
@[simp] theorem State.setQueue_slices (s : State) (d q : Nat) (x : Queue) : (s.setQueue d q x).slices = s.slices := rfl
@[simp] theorem State.setQueue_module (s : State) (d q : Nat) (x : Queue) : (s.setQueue d q x).module = s.module := rfl
@[simp] theorem State.setQueue_fuses (s : State) (d q : Nat) (x : Queue) : (s.setQueue d q x).fuses = s.fuses := rfl
@[simp] theorem State.setQueue_io (s : State) (d q : Nat) (x : Queue) : (s.setQueue d q x).io = s.io := rfl

@[simp] theorem State.setTask_now (s : State) (t : Nat) (x : Task) : (s.setTask t x).now = s.now := rfl
@[simp] theorem State.setTask_turns (s : State) (t : Nat) (x : Task) : (s.setTask t x).turns = s.turns := rfl
@[simp] theorem State.setTask_turnNo (s : State) (t : Nat) (x : Task) : (s.setTask t x).turnNo = s.turnNo := rfl
@[simp] theorem State.setTask_focus (s : State) (t : Nat) (x : Task) : (s.setTask t x).focus = s.focus := rfl
@[simp] theorem State.setTask_mem (s : State) (t : Nat) (x : Task) : (s.setTask t x).mem = s.mem := rfl
@[simp] theorem State.setTask_classes (s : State) (t : Nat) (x : Task) : (s.setTask t x).classes = s.classes := rfl
@[simp] theorem State.setTask_mapped (s : State) (t : Nat) (x : Task) : (s.setTask t x).mapped = s.mapped := rfl
@[simp] theorem State.setTask_upset (s : State) (t : Nat) (x : Task) : (s.setTask t x).upset = s.upset := rfl
@[simp] theorem State.setTask_reclass (s : State) (t : Nat) (x : Task) : (s.setTask t x).reclass = s.reclass := rfl
@[simp] theorem State.setTask_accessed (s : State) (t : Nat) (x : Task) : (s.setTask t x).accessed = s.accessed := rfl
@[simp] theorem State.setTask_dirty (s : State) (t : Nat) (x : Task) : (s.setTask t x).dirty = s.dirty := rfl
@[simp] theorem State.setTask_lost (s : State) (t : Nat) (x : Task) : (s.setTask t x).lost = s.lost := rfl
@[simp] theorem State.setTask_devices (s : State) (t : Nat) (x : Task) : (s.setTask t x).devices = s.devices := rfl
@[simp] theorem State.setTask_cores (s : State) (t : Nat) (x : Task) : (s.setTask t x).cores = s.cores := rfl
@[simp] theorem State.setTask_nextTask (s : State) (t : Nat) (x : Task) : (s.setTask t x).nextTask = s.nextTask := rfl
@[simp] theorem State.setTask_groups (s : State) (t : Nat) (x : Task) : (s.setTask t x).groups = s.groups := rfl
@[simp] theorem State.setTask_slices (s : State) (t : Nat) (x : Task) : (s.setTask t x).slices = s.slices := rfl
@[simp] theorem State.setTask_module (s : State) (t : Nat) (x : Task) : (s.setTask t x).module = s.module := rfl
@[simp] theorem State.setTask_fuses (s : State) (t : Nat) (x : Task) : (s.setTask t x).fuses = s.fuses := rfl
@[simp] theorem State.setTask_io (s : State) (t : Nat) (x : Task) : (s.setTask t x).io = s.io := rfl

@[simp] theorem State.setGroup_now (s : State) (i : Nat) (x : Group) : (s.setGroup i x).now = s.now := rfl
@[simp] theorem State.setGroup_turns (s : State) (i : Nat) (x : Group) : (s.setGroup i x).turns = s.turns := rfl
@[simp] theorem State.setGroup_turnNo (s : State) (i : Nat) (x : Group) : (s.setGroup i x).turnNo = s.turnNo := rfl
@[simp] theorem State.setGroup_focus (s : State) (i : Nat) (x : Group) : (s.setGroup i x).focus = s.focus := rfl
@[simp] theorem State.setGroup_mem (s : State) (i : Nat) (x : Group) : (s.setGroup i x).mem = s.mem := rfl
@[simp] theorem State.setGroup_classes (s : State) (i : Nat) (x : Group) : (s.setGroup i x).classes = s.classes := rfl
@[simp] theorem State.setGroup_mapped (s : State) (i : Nat) (x : Group) : (s.setGroup i x).mapped = s.mapped := rfl
@[simp] theorem State.setGroup_upset (s : State) (i : Nat) (x : Group) : (s.setGroup i x).upset = s.upset := rfl
@[simp] theorem State.setGroup_reclass (s : State) (i : Nat) (x : Group) : (s.setGroup i x).reclass = s.reclass := rfl
@[simp] theorem State.setGroup_accessed (s : State) (i : Nat) (x : Group) : (s.setGroup i x).accessed = s.accessed := rfl
@[simp] theorem State.setGroup_dirty (s : State) (i : Nat) (x : Group) : (s.setGroup i x).dirty = s.dirty := rfl
@[simp] theorem State.setGroup_lost (s : State) (i : Nat) (x : Group) : (s.setGroup i x).lost = s.lost := rfl
@[simp] theorem State.setGroup_devices (s : State) (i : Nat) (x : Group) : (s.setGroup i x).devices = s.devices := rfl
@[simp] theorem State.setGroup_cores (s : State) (i : Nat) (x : Group) : (s.setGroup i x).cores = s.cores := rfl
@[simp] theorem State.setGroup_tasks (s : State) (i : Nat) (x : Group) : (s.setGroup i x).tasks = s.tasks := rfl
@[simp] theorem State.setGroup_nextTask (s : State) (i : Nat) (x : Group) : (s.setGroup i x).nextTask = s.nextTask := rfl
@[simp] theorem State.setGroup_slices (s : State) (i : Nat) (x : Group) : (s.setGroup i x).slices = s.slices := rfl
@[simp] theorem State.setGroup_module (s : State) (i : Nat) (x : Group) : (s.setGroup i x).module = s.module := rfl
@[simp] theorem State.setGroup_fuses (s : State) (i : Nat) (x : Group) : (s.setGroup i x).fuses = s.fuses := rfl
@[simp] theorem State.setGroup_io (s : State) (i : Nat) (x : Group) : (s.setGroup i x).io = s.io := rfl

@[simp] theorem State.setPort_now (s : State) (p : Nat) (x : Port) : (s.setPort p x).now = s.now := rfl
@[simp] theorem State.setPort_turns (s : State) (p : Nat) (x : Port) : (s.setPort p x).turns = s.turns := rfl
@[simp] theorem State.setPort_turnNo (s : State) (p : Nat) (x : Port) : (s.setPort p x).turnNo = s.turnNo := rfl
@[simp] theorem State.setPort_focus (s : State) (p : Nat) (x : Port) : (s.setPort p x).focus = s.focus := rfl
@[simp] theorem State.setPort_mem (s : State) (p : Nat) (x : Port) : (s.setPort p x).mem = s.mem := rfl
@[simp] theorem State.setPort_classes (s : State) (p : Nat) (x : Port) : (s.setPort p x).classes = s.classes := rfl
@[simp] theorem State.setPort_mapped (s : State) (p : Nat) (x : Port) : (s.setPort p x).mapped = s.mapped := rfl
@[simp] theorem State.setPort_upset (s : State) (p : Nat) (x : Port) : (s.setPort p x).upset = s.upset := rfl
@[simp] theorem State.setPort_reclass (s : State) (p : Nat) (x : Port) : (s.setPort p x).reclass = s.reclass := rfl
@[simp] theorem State.setPort_accessed (s : State) (p : Nat) (x : Port) : (s.setPort p x).accessed = s.accessed := rfl
@[simp] theorem State.setPort_dirty (s : State) (p : Nat) (x : Port) : (s.setPort p x).dirty = s.dirty := rfl
@[simp] theorem State.setPort_lost (s : State) (p : Nat) (x : Port) : (s.setPort p x).lost = s.lost := rfl
@[simp] theorem State.setPort_devices (s : State) (p : Nat) (x : Port) : (s.setPort p x).devices = s.devices := rfl
@[simp] theorem State.setPort_cores (s : State) (p : Nat) (x : Port) : (s.setPort p x).cores = s.cores := rfl
@[simp] theorem State.setPort_tasks (s : State) (p : Nat) (x : Port) : (s.setPort p x).tasks = s.tasks := rfl
@[simp] theorem State.setPort_nextTask (s : State) (p : Nat) (x : Port) : (s.setPort p x).nextTask = s.nextTask := rfl
@[simp] theorem State.setPort_groups (s : State) (p : Nat) (x : Port) : (s.setPort p x).groups = s.groups := rfl
@[simp] theorem State.setPort_slices (s : State) (p : Nat) (x : Port) : (s.setPort p x).slices = s.slices := rfl
@[simp] theorem State.setPort_module (s : State) (p : Nat) (x : Port) : (s.setPort p x).module = s.module := rfl
@[simp] theorem State.setPort_fuses (s : State) (p : Nat) (x : Port) : (s.setPort p x).fuses = s.fuses := rfl

@[simp] theorem State.send_now (s : State) (o : Output) : (s.send o).now = s.now := rfl
@[simp] theorem State.send_turns (s : State) (o : Output) : (s.send o).turns = s.turns := rfl
@[simp] theorem State.send_turnNo (s : State) (o : Output) : (s.send o).turnNo = s.turnNo := rfl
@[simp] theorem State.send_focus (s : State) (o : Output) : (s.send o).focus = s.focus := rfl
@[simp] theorem State.send_mem (s : State) (o : Output) : (s.send o).mem = s.mem := rfl
@[simp] theorem State.send_classes (s : State) (o : Output) : (s.send o).classes = s.classes := rfl
@[simp] theorem State.send_mapped (s : State) (o : Output) : (s.send o).mapped = s.mapped := rfl
@[simp] theorem State.send_upset (s : State) (o : Output) : (s.send o).upset = s.upset := rfl
@[simp] theorem State.send_reclass (s : State) (o : Output) : (s.send o).reclass = s.reclass := rfl
@[simp] theorem State.send_accessed (s : State) (o : Output) : (s.send o).accessed = s.accessed := rfl
@[simp] theorem State.send_dirty (s : State) (o : Output) : (s.send o).dirty = s.dirty := rfl
@[simp] theorem State.send_lost (s : State) (o : Output) : (s.send o).lost = s.lost := rfl
@[simp] theorem State.send_devices (s : State) (o : Output) : (s.send o).devices = s.devices := rfl
@[simp] theorem State.send_cores (s : State) (o : Output) : (s.send o).cores = s.cores := rfl
@[simp] theorem State.send_tasks (s : State) (o : Output) : (s.send o).tasks = s.tasks := rfl
@[simp] theorem State.send_nextTask (s : State) (o : Output) : (s.send o).nextTask = s.nextTask := rfl
@[simp] theorem State.send_groups (s : State) (o : Output) : (s.send o).groups = s.groups := rfl
@[simp] theorem State.send_slices (s : State) (o : Output) : (s.send o).slices = s.slices := rfl
@[simp] theorem State.send_module (s : State) (o : Output) : (s.send o).module = s.module := rfl
@[simp] theorem State.send_fuses (s : State) (o : Output) : (s.send o).fuses = s.fuses := rfl

@[simp] theorem State.putFor_now (s : State) (c k issue ord lat : Nat) (xs : List RegWrite) :
    (s.putFor c k issue ord lat xs).now = s.now := rfl
@[simp] theorem State.putFor_turns (s : State) (c k issue ord lat : Nat) (xs : List RegWrite) :
    (s.putFor c k issue ord lat xs).turns = s.turns := rfl
@[simp] theorem State.putFor_turnNo (s : State) (c k issue ord lat : Nat) (xs : List RegWrite) :
    (s.putFor c k issue ord lat xs).turnNo = s.turnNo := rfl
@[simp] theorem State.putFor_focus (s : State) (c k issue ord lat : Nat) (xs : List RegWrite) :
    (s.putFor c k issue ord lat xs).focus = s.focus := rfl
@[simp] theorem State.putFor_mem (s : State) (c k issue ord lat : Nat) (xs : List RegWrite) :
    (s.putFor c k issue ord lat xs).mem = s.mem := rfl
@[simp] theorem State.putFor_classes (s : State) (c k issue ord lat : Nat) (xs : List RegWrite) :
    (s.putFor c k issue ord lat xs).classes = s.classes := rfl
@[simp] theorem State.putFor_mapped (s : State) (c k issue ord lat : Nat) (xs : List RegWrite) :
    (s.putFor c k issue ord lat xs).mapped = s.mapped := rfl
@[simp] theorem State.putFor_upset (s : State) (c k issue ord lat : Nat) (xs : List RegWrite) :
    (s.putFor c k issue ord lat xs).upset = s.upset := rfl
@[simp] theorem State.putFor_reclass (s : State) (c k issue ord lat : Nat) (xs : List RegWrite) :
    (s.putFor c k issue ord lat xs).reclass = s.reclass := rfl
@[simp] theorem State.putFor_accessed (s : State) (c k issue ord lat : Nat) (xs : List RegWrite) :
    (s.putFor c k issue ord lat xs).accessed = s.accessed := rfl
@[simp] theorem State.putFor_dirty (s : State) (c k issue ord lat : Nat) (xs : List RegWrite) :
    (s.putFor c k issue ord lat xs).dirty = s.dirty := rfl
@[simp] theorem State.putFor_lost (s : State) (c k issue ord lat : Nat) (xs : List RegWrite) :
    (s.putFor c k issue ord lat xs).lost = s.lost := rfl
@[simp] theorem State.putFor_devices (s : State) (c k issue ord lat : Nat) (xs : List RegWrite) :
    (s.putFor c k issue ord lat xs).devices = s.devices := rfl
@[simp] theorem State.putFor_tasks (s : State) (c k issue ord lat : Nat) (xs : List RegWrite) :
    (s.putFor c k issue ord lat xs).tasks = s.tasks := rfl
@[simp] theorem State.putFor_nextTask (s : State) (c k issue ord lat : Nat) (xs : List RegWrite) :
    (s.putFor c k issue ord lat xs).nextTask = s.nextTask := rfl
@[simp] theorem State.putFor_groups (s : State) (c k issue ord lat : Nat) (xs : List RegWrite) :
    (s.putFor c k issue ord lat xs).groups = s.groups := rfl
@[simp] theorem State.putFor_slices (s : State) (c k issue ord lat : Nat) (xs : List RegWrite) :
    (s.putFor c k issue ord lat xs).slices = s.slices := rfl
@[simp] theorem State.putFor_module (s : State) (c k issue ord lat : Nat) (xs : List RegWrite) :
    (s.putFor c k issue ord lat xs).module = s.module := rfl
@[simp] theorem State.putFor_fuses (s : State) (c k issue ord lat : Nat) (xs : List RegWrite) :
    (s.putFor c k issue ord lat xs).fuses = s.fuses := rfl
@[simp] theorem State.putFor_io (s : State) (c k issue ord lat : Nat) (xs : List RegWrite) :
    (s.putFor c k issue ord lat xs).io = s.io := rfl

@[simp] theorem State.putAll_now (s : State) (lat : Nat) (xs : List RegWrite) : (s.putAll lat xs).now = s.now := rfl
@[simp] theorem State.putAll_turns (s : State) (lat : Nat) (xs : List RegWrite) : (s.putAll lat xs).turns = s.turns := rfl
@[simp] theorem State.putAll_turnNo (s : State) (lat : Nat) (xs : List RegWrite) : (s.putAll lat xs).turnNo = s.turnNo := rfl
@[simp] theorem State.putAll_focus (s : State) (lat : Nat) (xs : List RegWrite) : (s.putAll lat xs).focus = s.focus := rfl
@[simp] theorem State.putAll_mem (s : State) (lat : Nat) (xs : List RegWrite) : (s.putAll lat xs).mem = s.mem := rfl
@[simp] theorem State.putAll_classes (s : State) (lat : Nat) (xs : List RegWrite) :
    (s.putAll lat xs).classes = s.classes := rfl
@[simp] theorem State.putAll_mapped (s : State) (lat : Nat) (xs : List RegWrite) :
    (s.putAll lat xs).mapped = s.mapped := rfl
@[simp] theorem State.putAll_upset (s : State) (lat : Nat) (xs : List RegWrite) : (s.putAll lat xs).upset = s.upset := rfl
@[simp] theorem State.putAll_reclass (s : State) (lat : Nat) (xs : List RegWrite) :
    (s.putAll lat xs).reclass = s.reclass := rfl
@[simp] theorem State.putAll_accessed (s : State) (lat : Nat) (xs : List RegWrite) :
    (s.putAll lat xs).accessed = s.accessed := rfl
@[simp] theorem State.putAll_dirty (s : State) (lat : Nat) (xs : List RegWrite) : (s.putAll lat xs).dirty = s.dirty := rfl
@[simp] theorem State.putAll_lost (s : State) (lat : Nat) (xs : List RegWrite) : (s.putAll lat xs).lost = s.lost := rfl
@[simp] theorem State.putAll_devices (s : State) (lat : Nat) (xs : List RegWrite) :
    (s.putAll lat xs).devices = s.devices := rfl
@[simp] theorem State.putAll_tasks (s : State) (lat : Nat) (xs : List RegWrite) : (s.putAll lat xs).tasks = s.tasks := rfl
@[simp] theorem State.putAll_nextTask (s : State) (lat : Nat) (xs : List RegWrite) :
    (s.putAll lat xs).nextTask = s.nextTask := rfl
@[simp] theorem State.putAll_groups (s : State) (lat : Nat) (xs : List RegWrite) : (s.putAll lat xs).groups = s.groups := rfl
@[simp] theorem State.putAll_slices (s : State) (lat : Nat) (xs : List RegWrite) : (s.putAll lat xs).slices = s.slices := rfl
@[simp] theorem State.putAll_module (s : State) (lat : Nat) (xs : List RegWrite) : (s.putAll lat xs).module = s.module := rfl
@[simp] theorem State.putAll_fuses (s : State) (lat : Nat) (xs : List RegWrite) : (s.putAll lat xs).fuses = s.fuses := rfl
@[simp] theorem State.putAll_io (s : State) (lat : Nat) (xs : List RegWrite) : (s.putAll lat xs).io = s.io := rfl

@[simp] theorem State.put_now (s : State) (lat : Nat) (x : RegWrite) : (s.put lat x).now = s.now := rfl
@[simp] theorem State.put_turns (s : State) (lat : Nat) (x : RegWrite) : (s.put lat x).turns = s.turns := rfl
@[simp] theorem State.put_turnNo (s : State) (lat : Nat) (x : RegWrite) : (s.put lat x).turnNo = s.turnNo := rfl
@[simp] theorem State.put_focus (s : State) (lat : Nat) (x : RegWrite) : (s.put lat x).focus = s.focus := rfl
@[simp] theorem State.put_mem (s : State) (lat : Nat) (x : RegWrite) : (s.put lat x).mem = s.mem := rfl
@[simp] theorem State.put_classes (s : State) (lat : Nat) (x : RegWrite) : (s.put lat x).classes = s.classes := rfl
@[simp] theorem State.put_mapped (s : State) (lat : Nat) (x : RegWrite) : (s.put lat x).mapped = s.mapped := rfl
@[simp] theorem State.put_upset (s : State) (lat : Nat) (x : RegWrite) : (s.put lat x).upset = s.upset := rfl
@[simp] theorem State.put_reclass (s : State) (lat : Nat) (x : RegWrite) : (s.put lat x).reclass = s.reclass := rfl
@[simp] theorem State.put_accessed (s : State) (lat : Nat) (x : RegWrite) : (s.put lat x).accessed = s.accessed := rfl
@[simp] theorem State.put_dirty (s : State) (lat : Nat) (x : RegWrite) : (s.put lat x).dirty = s.dirty := rfl
@[simp] theorem State.put_lost (s : State) (lat : Nat) (x : RegWrite) : (s.put lat x).lost = s.lost := rfl
@[simp] theorem State.put_devices (s : State) (lat : Nat) (x : RegWrite) : (s.put lat x).devices = s.devices := rfl
@[simp] theorem State.put_tasks (s : State) (lat : Nat) (x : RegWrite) : (s.put lat x).tasks = s.tasks := rfl
@[simp] theorem State.put_nextTask (s : State) (lat : Nat) (x : RegWrite) : (s.put lat x).nextTask = s.nextTask := rfl
@[simp] theorem State.put_groups (s : State) (lat : Nat) (x : RegWrite) : (s.put lat x).groups = s.groups := rfl
@[simp] theorem State.put_slices (s : State) (lat : Nat) (x : RegWrite) : (s.put lat x).slices = s.slices := rfl
@[simp] theorem State.put_module (s : State) (lat : Nat) (x : RegWrite) : (s.put lat x).module = s.module := rfl
@[simp] theorem State.put_fuses (s : State) (lat : Nat) (x : RegWrite) : (s.put lat x).fuses = s.fuses := rfl
@[simp] theorem State.put_io (s : State) (lat : Nat) (x : RegWrite) : (s.put lat x).io = s.io := rfl

@[simp] theorem State.putS_now (s : State) (lat : Nat) (r : BitVec 6) (v : Word64) : (s.putS lat r v).now = s.now := rfl
@[simp] theorem State.putS_turns (s : State) (lat : Nat) (r : BitVec 6) (v : Word64) :
    (s.putS lat r v).turns = s.turns := rfl
@[simp] theorem State.putS_turnNo (s : State) (lat : Nat) (r : BitVec 6) (v : Word64) :
    (s.putS lat r v).turnNo = s.turnNo := rfl
@[simp] theorem State.putS_focus (s : State) (lat : Nat) (r : BitVec 6) (v : Word64) :
    (s.putS lat r v).focus = s.focus := rfl
@[simp] theorem State.putS_mem (s : State) (lat : Nat) (r : BitVec 6) (v : Word64) : (s.putS lat r v).mem = s.mem := rfl
@[simp] theorem State.putS_classes (s : State) (lat : Nat) (r : BitVec 6) (v : Word64) :
    (s.putS lat r v).classes = s.classes := rfl
@[simp] theorem State.putS_mapped (s : State) (lat : Nat) (r : BitVec 6) (v : Word64) :
    (s.putS lat r v).mapped = s.mapped := rfl
@[simp] theorem State.putS_upset (s : State) (lat : Nat) (r : BitVec 6) (v : Word64) :
    (s.putS lat r v).upset = s.upset := rfl
@[simp] theorem State.putS_reclass (s : State) (lat : Nat) (r : BitVec 6) (v : Word64) :
    (s.putS lat r v).reclass = s.reclass := rfl
@[simp] theorem State.putS_accessed (s : State) (lat : Nat) (r : BitVec 6) (v : Word64) :
    (s.putS lat r v).accessed = s.accessed := rfl
@[simp] theorem State.putS_dirty (s : State) (lat : Nat) (r : BitVec 6) (v : Word64) :
    (s.putS lat r v).dirty = s.dirty := rfl
@[simp] theorem State.putS_lost (s : State) (lat : Nat) (r : BitVec 6) (v : Word64) : (s.putS lat r v).lost = s.lost := rfl
@[simp] theorem State.putS_devices (s : State) (lat : Nat) (r : BitVec 6) (v : Word64) :
    (s.putS lat r v).devices = s.devices := rfl
@[simp] theorem State.putS_tasks (s : State) (lat : Nat) (r : BitVec 6) (v : Word64) :
    (s.putS lat r v).tasks = s.tasks := rfl
@[simp] theorem State.putS_nextTask (s : State) (lat : Nat) (r : BitVec 6) (v : Word64) :
    (s.putS lat r v).nextTask = s.nextTask := rfl
@[simp] theorem State.putS_groups (s : State) (lat : Nat) (r : BitVec 6) (v : Word64) :
    (s.putS lat r v).groups = s.groups := rfl
@[simp] theorem State.putS_slices (s : State) (lat : Nat) (r : BitVec 6) (v : Word64) :
    (s.putS lat r v).slices = s.slices := rfl
@[simp] theorem State.putS_module (s : State) (lat : Nat) (r : BitVec 6) (v : Word64) :
    (s.putS lat r v).module = s.module := rfl
@[simp] theorem State.putS_fuses (s : State) (lat : Nat) (r : BitVec 6) (v : Word64) :
    (s.putS lat r v).fuses = s.fuses := rfl
@[simp] theorem State.putS_io (s : State) (lat : Nat) (r : BitVec 6) (v : Word64) : (s.putS lat r v).io = s.io := rfl

@[simp] theorem State.putLanes_now (s : State) (lat r : Nat) (m : BitVec 32) (f : Nat → Lane) :
    (s.putLanes lat r m f).now = s.now := rfl
@[simp] theorem State.putLanes_turns (s : State) (lat r : Nat) (m : BitVec 32) (f : Nat → Lane) :
    (s.putLanes lat r m f).turns = s.turns := rfl
@[simp] theorem State.putLanes_turnNo (s : State) (lat r : Nat) (m : BitVec 32) (f : Nat → Lane) :
    (s.putLanes lat r m f).turnNo = s.turnNo := rfl
@[simp] theorem State.putLanes_focus (s : State) (lat r : Nat) (m : BitVec 32) (f : Nat → Lane) :
    (s.putLanes lat r m f).focus = s.focus := rfl
@[simp] theorem State.putLanes_mem (s : State) (lat r : Nat) (m : BitVec 32) (f : Nat → Lane) :
    (s.putLanes lat r m f).mem = s.mem := rfl
@[simp] theorem State.putLanes_classes (s : State) (lat r : Nat) (m : BitVec 32) (f : Nat → Lane) :
    (s.putLanes lat r m f).classes = s.classes := rfl
@[simp] theorem State.putLanes_mapped (s : State) (lat r : Nat) (m : BitVec 32) (f : Nat → Lane) :
    (s.putLanes lat r m f).mapped = s.mapped := rfl
@[simp] theorem State.putLanes_upset (s : State) (lat r : Nat) (m : BitVec 32) (f : Nat → Lane) :
    (s.putLanes lat r m f).upset = s.upset := rfl
@[simp] theorem State.putLanes_reclass (s : State) (lat r : Nat) (m : BitVec 32) (f : Nat → Lane) :
    (s.putLanes lat r m f).reclass = s.reclass := rfl
@[simp] theorem State.putLanes_accessed (s : State) (lat r : Nat) (m : BitVec 32) (f : Nat → Lane) :
    (s.putLanes lat r m f).accessed = s.accessed := rfl
@[simp] theorem State.putLanes_dirty (s : State) (lat r : Nat) (m : BitVec 32) (f : Nat → Lane) :
    (s.putLanes lat r m f).dirty = s.dirty := rfl
@[simp] theorem State.putLanes_lost (s : State) (lat r : Nat) (m : BitVec 32) (f : Nat → Lane) :
    (s.putLanes lat r m f).lost = s.lost := rfl
@[simp] theorem State.putLanes_devices (s : State) (lat r : Nat) (m : BitVec 32) (f : Nat → Lane) :
    (s.putLanes lat r m f).devices = s.devices := rfl
@[simp] theorem State.putLanes_tasks (s : State) (lat r : Nat) (m : BitVec 32) (f : Nat → Lane) :
    (s.putLanes lat r m f).tasks = s.tasks := rfl
@[simp] theorem State.putLanes_nextTask (s : State) (lat r : Nat) (m : BitVec 32) (f : Nat → Lane) :
    (s.putLanes lat r m f).nextTask = s.nextTask := rfl
@[simp] theorem State.putLanes_groups (s : State) (lat r : Nat) (m : BitVec 32) (f : Nat → Lane) :
    (s.putLanes lat r m f).groups = s.groups := rfl
@[simp] theorem State.putLanes_slices (s : State) (lat r : Nat) (m : BitVec 32) (f : Nat → Lane) :
    (s.putLanes lat r m f).slices = s.slices := rfl
@[simp] theorem State.putLanes_module (s : State) (lat r : Nat) (m : BitVec 32) (f : Nat → Lane) :
    (s.putLanes lat r m f).module = s.module := rfl
@[simp] theorem State.putLanes_fuses (s : State) (lat r : Nat) (m : BitVec 32) (f : Nat → Lane) :
    (s.putLanes lat r m f).fuses = s.fuses := rfl
@[simp] theorem State.putLanes_io (s : State) (lat r : Nat) (m : BitVec 32) (f : Nat → Lane) :
    (s.putLanes lat r m f).io = s.io := rfl

/-! ### The mark of a SHARED access (R202). -/

@[simp] theorem State.noting_w (s : State) (b : Bool) : (s.noting b).w = s.w := rfl
@[simp] theorem State.noting_f (s : State) (b : Bool) : (s.noting b).f = s.f := rfl
@[simp] theorem State.noting_g (s : State) (b : Bool) : (s.noting b).g = s.g := rfl
@[simp] theorem State.noting_mem (s : State) (b : Bool) : (s.noting b).mem = s.mem := rfl
@[simp] theorem State.noting_active (s : State) (b : Bool) : (s.noting b).active = s.active := rfl
theorem State.noting_setF (s : State) (x : Frag) (b : Bool) : (s.setF x).noting b = (s.noting b).setF x := rfl

/-! ### Tables. -/

theorem Tab.find_set_self {α : Type} (t : Tab α) (k : Nat) (v : α) : Tab.find (Tab.set t k v) k = some v := by
  induction t with
  | nil => simp [Tab.set, Tab.find]
  | cons e t ih =>
    obtain ⟨k', v'⟩ := e
    simp only [Tab.set]
    split
    · simp [Tab.find]
    · split
      · simp [Tab.find]
      · rename_i h1 h2
        simp only [Tab.find, h2, h1, if_false, ih]

theorem Tab.find_set_other {α : Type} (t : Tab α) (k j : Nat) (v : α) (h : j ≠ k) :
    Tab.find (Tab.set t k v) j = Tab.find t j := by
  induction t with
  | nil => simp [Tab.set, Tab.find, Ne.symm h]
  | cons e t ih =>
    obtain ⟨k', v'⟩ := e
    simp only [Tab.set]
    split
    · rename_i h1
      simp only [Tab.find]
      rw [if_neg (Ne.symm h)]
      split
      · rw [if_neg (by omega), if_pos (by omega)]
      · rfl
    · split
      · rename_i h1 h2
        subst h2
        simp only [Tab.find]
        rw [if_neg (Ne.symm h), if_neg (Ne.symm h)]
      · simp only [Tab.find, ih]

@[simp] theorem Tab.get_set_self {α : Type} (t : Tab α) (d : α) (k : Nat) (v : α) :
    Tab.get (Tab.set t k v) d k = v := by
  simp [Tab.get, Tab.find_set_self]

@[simp] theorem Tab.get_set_other {α : Type} (t : Tab α) (d : α) (k j : Nat) (v : α) (h : j ≠ k) :
    Tab.get (Tab.set t k v) d j = Tab.get t d j := by
  simp [Tab.get, Tab.find_set_other t k j v h]

/-! ### A place of the state after it is set, and the other places. -/

@[simp] theorem State.core_setCore (s : State) (c : Nat) (x : Core) : (s.setCore c x).core c = x := by
  simp [State.core, State.setCore]

@[simp] theorem State.core_setCore_other (s : State) (c c' : Nat) (x : Core) (h : c' ≠ c) :
    (s.setCore c x).core c' = s.core c' := by
  simp [State.core, State.setCore, h]

@[simp] theorem State.warp_setWarp (s : State) (c k : Nat) (w : Warp) : (s.setWarp c k w).warp c k = w := by
  simp [State.warp, State.setWarp]

@[simp] theorem State.warp_setWarp_other (s : State) (c k c' k' : Nat) (w : Warp) (h : (c', k') ≠ (c, k)) :
    (s.setWarp c k w).warp c' k' = s.warp c' k' := by
  by_cases hc : c' = c
  · subst hc
    have hk : k' ≠ k := fun e => h (by rw [e])
    simp [State.warp, State.setWarp, hk]
  · simp [State.warp, State.setWarp, hc]

@[simp] theorem State.frag_setFrag (s : State) (c k f : Nat) (x : Frag) : (s.setFrag c k f x).frag c k f = x := by
  simp [State.frag, State.setFrag]

@[simp] theorem State.wg_setWg (s : State) (c g : Nat) (x : Workgroup) : (s.setWg c g x).wg c g = x := by
  simp [State.wg, State.setWg]

@[simp] theorem State.wg_setWarp (s : State) (c k c' g : Nat) (w : Warp) : (s.setWarp c k w).wg c' g = s.wg c' g := by
  by_cases hc : c' = c
  · subst hc; simp [State.wg, State.setWarp]
  · simp [State.wg, State.setWarp, hc]

@[simp] theorem State.warp_setWg (s : State) (c g c' k : Nat) (x : Workgroup) :
    (s.setWg c g x).warp c' k = s.warp c' k := by
  by_cases hc : c' = c
  · subst hc; simp [State.warp, State.setWg]
  · simp [State.warp, State.setWg, hc]

@[simp] theorem State.quad_setQuad (s : State) (c q : Nat) (x : Quad) : (s.setQuad c q x).quad c q = x := by
  simp [State.quad, State.setQuad]

@[simp] theorem State.quad_setWarp (s : State) (c k c' q : Nat) (w : Warp) :
    (s.setWarp c k w).quad c' q = s.quad c' q := by
  by_cases hc : c' = c
  · subst hc; simp [State.quad, State.setWarp]
  · simp [State.quad, State.setWarp, hc]

@[simp] theorem State.device_setDevice (s : State) (d : Nat) (x : Device) : (s.setDevice d x).device d = x := by
  simp [State.device, State.setDevice]

@[simp] theorem State.device_setDevice_other (s : State) (d d' : Nat) (x : Device) (h : d' ≠ d) :
    (s.setDevice d x).device d' = s.device d' := by
  simp [State.device, State.setDevice, h]

@[simp] theorem State.device_setCore (s : State) (c d : Nat) (x : Core) : (s.setCore c x).device d = s.device d := rfl
@[simp] theorem State.device_setWarp (s : State) (c k d : Nat) (w : Warp) : (s.setWarp c k w).device d = s.device d := rfl
@[simp] theorem State.device_setTask (s : State) (t d : Nat) (x : Task) : (s.setTask t x).device d = s.device d := rfl
@[simp] theorem State.device_setGroup (s : State) (i d : Nat) (x : Group) : (s.setGroup i x).device d = s.device d := rfl

@[simp] theorem State.queue_setQueue (s : State) (d q : Nat) (x : Queue) : (s.setQueue d q x).queue d q = x := by
  simp [State.queue, State.setQueue]

@[simp] theorem State.task_setTask (s : State) (t : Nat) (x : Task) : (s.setTask t x).task t = x := by
  simp [State.task, State.setTask]

@[simp] theorem State.task_setTask_other (s : State) (t t' : Nat) (x : Task) (h : t' ≠ t) :
    (s.setTask t x).task t' = s.task t' := by
  simp [State.task, State.setTask, h]

@[simp] theorem State.task_setWarp (s : State) (c k t : Nat) (w : Warp) : (s.setWarp c k w).task t = s.task t := rfl

@[simp] theorem State.group_setGroup (s : State) (i : Nat) (g : Group) : (s.setGroup i g).group i = g := by
  simp [State.group, State.setGroup]

@[simp] theorem State.group_setGroup_other (s : State) (i j : Nat) (g : Group) (h : j ≠ i) :
    (s.setGroup i g).group j = s.group j := by
  simp [State.group, State.setGroup, h]

@[simp] theorem State.port_setPort (s : State) (p : Nat) (x : Port) : (s.setPort p x).port p = x := by
  simp [State.port, State.setPort]

@[simp] theorem State.w_setW (s : State) (w : Warp) : (s.setW w).w = w := by
  show (s.setWarp s.focus.core s.focus.slot w).warp s.focus.core s.focus.slot = w
  simp

@[simp] theorem State.f_setF (s : State) (f : Frag) : (s.setF f).f = f := by
  show (s.setFrag s.focus.core s.focus.slot s.focus.frag f).frag s.focus.core s.focus.slot s.focus.frag = f
  simp

/-! ### The last update of a place stands. -/

@[simp] theorem Tab.set_set {α : Type} (t : Tab α) (k : Nat) (v x : α) : Tab.set (Tab.set t k v) k x = Tab.set t k x := by
  induction t with
  | nil => simp [Tab.set]
  | cons e t ih =>
    obtain ⟨k', v'⟩ := e
    rw [Tab.set]
    by_cases h1 : k < k'
    · simp [h1, Tab.set]
    · by_cases h2 : k' = k
      · simp [h2, Tab.set]
      · simp [h1, h2, Tab.set, ih]

theorem Tab.find_none_of_not_mem {α : Type} (t : Tab α) (k : Nat) (h : k ∉ t.keys) : Tab.find t k = none := by
  induction t with
  | nil => rfl
  | cons e t ih =>
    simp only [Tab.keys, List.map_cons, List.mem_cons, not_or] at h
    simp only [Tab.find]
    rw [if_neg (fun hh => h.1 hh.symm)]
    split
    · rfl
    · exact ih h.2

theorem Tab.not_mem_keys_del {α : Type} (t : Tab α) (k : Nat) : k ∉ (Tab.del t k).keys := by
  simp [Tab.del, Tab.keys, List.mem_filter]

theorem Tab.find_map {α : Type} (t : Tab α) (g : Nat → α → α) (k : Nat) :
    Tab.find (t.map (fun e => (e.1, g e.1 e.2))) k = (Tab.find t k).map (g k) := by
  induction t with
  | nil => rfl
  | cons e t ih =>
    simp only [List.map_cons, Tab.find]
    by_cases h : e.1 = k
    · simp [h]
    · by_cases h2 : k < e.1 <;> simp [h, h2, ih]

@[simp] theorem State.setCore_setCore (s : State) (c : Nat) (x y : Core) : (s.setCore c x).setCore c y = s.setCore c y := by
  simp [State.setCore]

@[simp] theorem State.setWarp_setWarp (s : State) (c k : Nat) (w x : Warp) :
    (s.setWarp c k w).setWarp c k x = s.setWarp c k x := by
  simp [State.setWarp]

@[simp] theorem State.setW_setW (s : State) (w x : Warp) : (s.setW w).setW x = s.setW x := by
  simp [State.setW]

theorem State.setF_eq (s : State) (f : Frag) : s.setF f = s.setW { s.w with frags := Tab.set s.w.frags s.focus.frag f } :=
  rfl

@[simp] theorem State.setF_setF (s : State) (f g : Frag) : (s.setF f).setF g = s.setF g := by
  simp [State.setF_eq]

@[simp] theorem State.setF_setW (s : State) (w : Warp) (f : Frag) :
    (s.setW w).setF f = s.setW { w with frags := Tab.set w.frags s.focus.frag f } := by
  simp [State.setF_eq]

@[simp] theorem State.w_setF (s : State) (f : Frag) :
    (s.setF f).w = { s.w with frags := Tab.set s.w.frags s.focus.frag f } := by
  simp [State.setF_eq]

@[simp] theorem State.f_setW (s : State) (w : Warp) : (s.setW w).f = Tab.get w.frags {} s.focus.frag := by
  simp [State.f, State.frag, State.setW]

@[simp] theorem State.setDevice_setDevice (s : State) (d : Nat) (x y : Device) :
    (s.setDevice d x).setDevice d y = s.setDevice d y := by
  simp [State.setDevice]

@[simp] theorem State.setTask_setTask (s : State) (t : Nat) (x y : Task) : (s.setTask t x).setTask t y = s.setTask t y := by
  simp [State.setTask]

@[simp] theorem State.setGroup_setGroup (s : State) (i : Nat) (g h : Group) :
    (s.setGroup i g).setGroup i h = s.setGroup i h := by
  simp [State.setGroup]

@[simp] theorem State.setPort_setPort (s : State) (p : Nat) (x y : Port) : (s.setPort p x).setPort p y = s.setPort p y := by
  simp [State.setPort]

end Sys2Proof.Machine
end

