-- ==== Sys2Proof/Laws/Events.lean ====
section
/-! SUPPORT. What an event-log entry leaves as it was: everything but the log's own registers, the ring in host memory, the
event count of a task and the outputs. -/

namespace Sys2Proof.Machine

@[simp] theorem State.writeEvent_now (s : State) (e : List Word64) (t : Option Nat) (m : Option Member) :
    (s.writeEvent e t m).now = s.now := by
  simp only [State.writeEvent, State.noteEntry, State.send, State.setTask]; repeat' split
  all_goals rfl
@[simp] theorem State.logEvent_now (s : State) (e : Event) : (s.logEvent e).now = s.now := by simp [State.logEvent]
@[simp] theorem State.writeEvent_turns (s : State) (e : List Word64) (t : Option Nat) (m : Option Member) :
    (s.writeEvent e t m).turns = s.turns := by
  simp only [State.writeEvent, State.noteEntry, State.send, State.setTask]; repeat' split
  all_goals rfl
@[simp] theorem State.logEvent_turns (s : State) (e : Event) : (s.logEvent e).turns = s.turns := by simp [State.logEvent]
@[simp] theorem State.writeEvent_turnNo (s : State) (e : List Word64) (t : Option Nat) (m : Option Member) :
    (s.writeEvent e t m).turnNo = s.turnNo := by
  simp only [State.writeEvent, State.noteEntry, State.send, State.setTask]; repeat' split
  all_goals rfl
@[simp] theorem State.logEvent_turnNo (s : State) (e : Event) : (s.logEvent e).turnNo = s.turnNo := by simp [State.logEvent]
@[simp] theorem State.writeEvent_focus (s : State) (e : List Word64) (t : Option Nat) (m : Option Member) :
    (s.writeEvent e t m).focus = s.focus := by
  simp only [State.writeEvent, State.noteEntry, State.send, State.setTask]; repeat' split
  all_goals rfl
@[simp] theorem State.logEvent_focus (s : State) (e : Event) : (s.logEvent e).focus = s.focus := by simp [State.logEvent]
@[simp] theorem State.writeEvent_classes (s : State) (e : List Word64) (t : Option Nat) (m : Option Member) :
    (s.writeEvent e t m).classes = s.classes := by
  simp only [State.writeEvent, State.noteEntry, State.send, State.setTask]; repeat' split
  all_goals rfl
@[simp] theorem State.logEvent_classes (s : State) (e : Event) : (s.logEvent e).classes = s.classes := by simp [State.logEvent]
@[simp] theorem State.writeEvent_mapped (s : State) (e : List Word64) (t : Option Nat) (m : Option Member) :
    (s.writeEvent e t m).mapped = s.mapped := by
  simp only [State.writeEvent, State.noteEntry, State.send, State.setTask]; repeat' split
  all_goals rfl
@[simp] theorem State.logEvent_mapped (s : State) (e : Event) : (s.logEvent e).mapped = s.mapped := by simp [State.logEvent]
@[simp] theorem State.writeEvent_upset (s : State) (e : List Word64) (t : Option Nat) (m : Option Member) :
    (s.writeEvent e t m).upset = s.upset := by
  simp only [State.writeEvent, State.noteEntry, State.send, State.setTask]; repeat' split
  all_goals rfl
@[simp] theorem State.logEvent_upset (s : State) (e : Event) : (s.logEvent e).upset = s.upset := by simp [State.logEvent]
@[simp] theorem State.writeEvent_reclass (s : State) (e : List Word64) (t : Option Nat) (m : Option Member) :
    (s.writeEvent e t m).reclass = s.reclass := by
  simp only [State.writeEvent, State.noteEntry, State.send, State.setTask]; repeat' split
  all_goals rfl
@[simp] theorem State.logEvent_reclass (s : State) (e : Event) : (s.logEvent e).reclass = s.reclass := by simp [State.logEvent]
@[simp] theorem State.writeEvent_accessed (s : State) (e : List Word64) (t : Option Nat) (m : Option Member) :
    (s.writeEvent e t m).accessed = s.accessed := by
  simp only [State.writeEvent, State.noteEntry, State.send, State.setTask]; repeat' split
  all_goals rfl
@[simp] theorem State.logEvent_accessed (s : State) (e : Event) : (s.logEvent e).accessed = s.accessed := by simp [State.logEvent]
@[simp] theorem State.writeEvent_dirty (s : State) (e : List Word64) (t : Option Nat) (m : Option Member) :
    (s.writeEvent e t m).dirty = s.dirty := by
  simp only [State.writeEvent, State.noteEntry, State.send, State.setTask]; repeat' split
  all_goals rfl
@[simp] theorem State.logEvent_dirty (s : State) (e : Event) : (s.logEvent e).dirty = s.dirty := by simp [State.logEvent]
@[simp] theorem State.writeEvent_lost (s : State) (e : List Word64) (t : Option Nat) (m : Option Member) :
    (s.writeEvent e t m).lost = s.lost := by
  simp only [State.writeEvent, State.noteEntry, State.send, State.setTask]; repeat' split
  all_goals rfl
@[simp] theorem State.logEvent_lost (s : State) (e : Event) : (s.logEvent e).lost = s.lost := by simp [State.logEvent]
@[simp] theorem State.writeEvent_devices (s : State) (e : List Word64) (t : Option Nat) (m : Option Member) :
    (s.writeEvent e t m).devices = s.devices := by
  simp only [State.writeEvent, State.noteEntry, State.send, State.setTask]; repeat' split
  all_goals rfl
@[simp] theorem State.logEvent_devices (s : State) (e : Event) : (s.logEvent e).devices = s.devices := by simp [State.logEvent]
@[simp] theorem State.writeEvent_cores (s : State) (e : List Word64) (t : Option Nat) (m : Option Member) :
    (s.writeEvent e t m).cores = s.cores := by
  simp only [State.writeEvent, State.noteEntry, State.send, State.setTask]; repeat' split
  all_goals rfl
@[simp] theorem State.logEvent_cores (s : State) (e : Event) : (s.logEvent e).cores = s.cores := by simp [State.logEvent]
@[simp] theorem State.writeEvent_nextTask (s : State) (e : List Word64) (t : Option Nat) (m : Option Member) :
    (s.writeEvent e t m).nextTask = s.nextTask := by
  simp only [State.writeEvent, State.noteEntry, State.send, State.setTask]; repeat' split
  all_goals rfl
@[simp] theorem State.logEvent_nextTask (s : State) (e : Event) : (s.logEvent e).nextTask = s.nextTask := by simp [State.logEvent]
@[simp] theorem State.writeEvent_groups (s : State) (e : List Word64) (t : Option Nat) (m : Option Member) :
    (s.writeEvent e t m).groups = s.groups := by
  simp only [State.writeEvent, State.noteEntry, State.send, State.setTask]; repeat' split
  all_goals rfl
@[simp] theorem State.logEvent_groups (s : State) (e : Event) : (s.logEvent e).groups = s.groups := by simp [State.logEvent]
@[simp] theorem State.writeEvent_slices (s : State) (e : List Word64) (t : Option Nat) (m : Option Member) :
    (s.writeEvent e t m).slices = s.slices := by
  simp only [State.writeEvent, State.noteEntry, State.send, State.setTask]; repeat' split
  all_goals rfl
@[simp] theorem State.logEvent_slices (s : State) (e : Event) : (s.logEvent e).slices = s.slices := by simp [State.logEvent]
@[simp] theorem State.writeEvent_fuses (s : State) (e : List Word64) (t : Option Nat) (m : Option Member) :
    (s.writeEvent e t m).fuses = s.fuses := by
  simp only [State.writeEvent, State.noteEntry, State.send, State.setTask]; repeat' split
  all_goals rfl
@[simp] theorem State.logEvent_fuses (s : State) (e : Event) : (s.logEvent e).fuses = s.fuses := by simp [State.logEvent]
@[simp] theorem State.logEvent_module_elbase (s : State) (e : Event) : (s.logEvent e).module.elbase = s.module.elbase := by
  simp only [State.logEvent, State.writeEvent, State.noteEntry, State.send, State.setTask]; repeat' split
  all_goals rfl
@[simp] theorem State.logEvent_module_ellog (s : State) (e : Event) : (s.logEvent e).module.ellog = s.module.ellog := by
  simp only [State.logEvent, State.writeEvent, State.noteEntry, State.send, State.setTask]; repeat' split
  all_goals rfl
@[simp] theorem State.logEvent_module_elen (s : State) (e : Event) : (s.logEvent e).module.elen = s.module.elen := by
  simp only [State.logEvent, State.writeEvent, State.noteEntry, State.send, State.setTask]; repeat' split
  all_goals rfl
@[simp] theorem State.logEvent_module_elvec (s : State) (e : Event) : (s.logEvent e).module.elvec = s.module.elvec := by
  simp only [State.logEvent, State.writeEvent, State.noteEntry, State.send, State.setTask]; repeat' split
  all_goals rfl
@[simp] theorem State.logEvent_module_elien (s : State) (e : Event) : (s.logEvent e).module.elien = s.module.elien := by
  simp only [State.logEvent, State.writeEvent, State.noteEntry, State.send, State.setTask]; repeat' split
  all_goals rfl
@[simp] theorem State.logEvent_module_elhead (s : State) (e : Event) : (s.logEvent e).module.elhead = s.module.elhead := by
  simp only [State.logEvent, State.writeEvent, State.noteEntry, State.send, State.setTask]; repeat' split
  all_goals rfl
@[simp] theorem State.logEvent_module_plim (s : State) (e : Event) : (s.logEvent e).module.plim = s.module.plim := by
  simp only [State.logEvent, State.writeEvent, State.noteEntry, State.send, State.setTask]; repeat' split
  all_goals rfl
@[simp] theorem State.logEvent_module_clkMhz (s : State) (e : Event) : (s.logEvent e).module.clkMhz = s.module.clkMhz := by
  simp only [State.logEvent, State.writeEvent, State.noteEntry, State.send, State.setTask]; repeat' split
  all_goals rfl
@[simp] theorem State.logEvent_module_throt (s : State) (e : Event) : (s.logEvent e).module.throt = s.module.throt := by
  simp only [State.logEvent, State.writeEvent, State.noteEntry, State.send, State.setTask]; repeat' split
  all_goals rfl
@[simp] theorem State.logEvent_module_scrubp (s : State) (e : Event) : (s.logEvent e).module.scrubp = s.module.scrubp := by
  simp only [State.logEvent, State.writeEvent, State.noteEntry, State.send, State.setTask]; repeat' split
  all_goals rfl
@[simp] theorem State.logEvent_module_cethr (s : State) (e : Event) : (s.logEvent e).module.cethr = s.module.cethr := by
  simp only [State.logEvent, State.writeEvent, State.noteEntry, State.send, State.setTask]; repeat' split
  all_goals rfl
@[simp] theorem State.logEvent_module_ready (s : State) (e : Event) : (s.logEvent e).module.ready = s.module.ready := by
  simp only [State.logEvent, State.writeEvent, State.noteEntry, State.send, State.setTask]; repeat' split
  all_goals rfl
@[simp] theorem State.logEvent_module_recovery (s : State) (e : Event) : (s.logEvent e).module.recovery = s.module.recovery := by
  simp only [State.logEvent, State.writeEvent, State.noteEntry, State.send, State.setTask]; repeat' split
  all_goals rfl
@[simp] theorem State.logEvent_module_slot (s : State) (e : Event) : (s.logEvent e).module.slot = s.module.slot := by
  simp only [State.logEvent, State.writeEvent, State.noteEntry, State.send, State.setTask]; repeat' split
  all_goals rfl
@[simp] theorem State.logEvent_module_rollback (s : State) (e : Event) : (s.logEvent e).module.rollback = s.module.rollback := by
  simp only [State.logEvent, State.writeEvent, State.noteEntry, State.send, State.setTask]; repeat' split
  all_goals rfl
@[simp] theorem State.logEvent_module_fwver (s : State) (e : Event) : (s.logEvent e).module.fwver = s.module.fwver := by
  simp only [State.logEvent, State.writeEvent, State.noteEntry, State.send, State.setTask]; repeat' split
  all_goals rfl
@[simp] theorem State.logEvent_module_mbcmd (s : State) (e : Event) : (s.logEvent e).module.mbcmd = s.module.mbcmd := by
  simp only [State.logEvent, State.writeEvent, State.noteEntry, State.send, State.setTask]; repeat' split
  all_goals rfl
@[simp] theorem State.logEvent_module_mbgo (s : State) (e : Event) : (s.logEvent e).module.mbgo = s.module.mbgo := by
  simp only [State.logEvent, State.writeEvent, State.noteEntry, State.send, State.setTask]; repeat' split
  all_goals rfl
@[simp] theorem State.logEvent_module_mbst (s : State) (e : Event) : (s.logEvent e).module.mbst = s.module.mbst := by
  simp only [State.logEvent, State.writeEvent, State.noteEntry, State.send, State.setTask]; repeat' split
  all_goals rfl
@[simp] theorem State.logEvent_module_mbaddr (s : State) (e : Event) : (s.logEvent e).module.mbaddr = s.module.mbaddr := by
  simp only [State.logEvent, State.writeEvent, State.noteEntry, State.send, State.setTask]; repeat' split
  all_goals rfl
@[simp] theorem State.logEvent_module_mblen (s : State) (e : Event) : (s.logEvent e).module.mblen = s.module.mblen := by
  simp only [State.logEvent, State.writeEvent, State.noteEntry, State.send, State.setTask]; repeat' split
  all_goals rfl
@[simp] theorem State.logEvent_module_nonce (s : State) (e : Event) : (s.logEvent e).module.nonce = s.module.nonce := by
  simp only [State.logEvent, State.writeEvent, State.noteEntry, State.send, State.setTask]; repeat' split
  all_goals rfl
@[simp] theorem State.logEvent_module_report (s : State) (e : Event) : (s.logEvent e).module.report = s.module.report := by
  simp only [State.logEvent, State.writeEvent, State.noteEntry, State.send, State.setTask]; repeat' split
  all_goals rfl
@[simp] theorem State.logEvent_module_fatal (s : State) (e : Event) : (s.logEvent e).module.fatal = s.module.fatal := by
  simp only [State.logEvent, State.writeEvent, State.noteEntry, State.send, State.setTask]; repeat' split
  all_goals rfl
@[simp] theorem State.logEvent_io_mymod (s : State) (e : Event) : (s.logEvent e).io.mymod = s.io.mymod := by
  simp only [State.logEvent, State.writeEvent, State.noteEntry, State.send, State.setTask]; repeat' split
  all_goals rfl
@[simp] theorem State.logEvent_io_ports (s : State) (e : Event) : (s.logEvent e).io.ports = s.io.ports := by
  simp only [State.logEvent, State.writeEvent, State.noteEntry, State.send, State.setTask]; repeat' split
  all_goals rfl
@[simp] theorem State.logEvent_io_reqs (s : State) (e : Event) : (s.logEvent e).io.reqs = s.io.reqs := by
  simp only [State.logEvent, State.writeEvent, State.noteEntry, State.send, State.setTask]; repeat' split
  all_goals rfl
@[simp] theorem State.logEvent_io_nextReq (s : State) (e : Event) : (s.logEvent e).io.nextReq = s.io.nextReq := by
  simp only [State.logEvent, State.writeEvent, State.noteEntry, State.send, State.setTask]; repeat' split
  all_goals rfl
@[simp] theorem State.logEvent_io_tags (s : State) (e : Event) : (s.logEvent e).io.tags = s.io.tags := by
  simp only [State.logEvent, State.writeEvent, State.noteEntry, State.send, State.setTask]; repeat' split
  all_goals rfl
@[simp] theorem State.logEvent_io_seen (s : State) (e : Event) : (s.logEvent e).io.seen = s.io.seen := by
  simp only [State.logEvent, State.writeEvent, State.noteEntry, State.send, State.setTask]; repeat' split
  all_goals rfl
@[simp] theorem State.logEvent_io_torus (s : State) (e : Event) : (s.logEvent e).io.torus = s.io.torus := by
  simp only [State.logEvent, State.writeEvent, State.noteEntry, State.send, State.setTask]; repeat' split
  all_goals rfl
@[simp] theorem State.logEvent_io_heldPeers (s : State) (e : Event) : (s.logEvent e).io.heldPeers = s.io.heldPeers := by
  simp only [State.logEvent, State.writeEvent, State.noteEntry, State.send, State.setTask]; repeat' split
  all_goals rfl
@[simp] theorem State.logEvent_io_inbound (s : State) (e : Event) : (s.logEvent e).io.inbound = s.io.inbound := by
  simp only [State.logEvent, State.writeEvent, State.noteEntry, State.send, State.setTask]; repeat' split
  all_goals rfl
@[simp] theorem State.logEvent_io_reading (s : State) (e : Event) : (s.logEvent e).io.reading = s.io.reading := by
  simp only [State.logEvent, State.writeEvent, State.noteEntry, State.send, State.setTask]; repeat' split
  all_goals rfl
@[simp] theorem State.logEvent_io_record (s : State) (e : Event) : (s.logEvent e).io.record = s.io.record := by
  simp only [State.logEvent, State.writeEvent, State.noteEntry, State.send, State.setTask]; repeat' split
  all_goals rfl
@[simp] theorem State.logEvent_io_lspeed (s : State) (e : Event) : (s.logEvent e).io.lspeed = s.io.lspeed := by
  simp only [State.logEvent, State.writeEvent, State.noteEntry, State.send, State.setTask]; repeat' split
  all_goals rfl
@[simp] theorem State.logEvent_io_lwidth (s : State) (e : Event) : (s.logEvent e).io.lwidth = s.io.lwidth := by
  simp only [State.logEvent, State.writeEvent, State.noteEntry, State.send, State.setTask]; repeat' split
  all_goals rfl
@[simp] theorem State.logEvent_io_arrived (s : State) (e : Event) : (s.logEvent e).io.arrived = s.io.arrived := by
  simp only [State.logEvent, State.writeEvent, State.noteEntry, State.send, State.setTask]; repeat' split
  all_goals rfl
@[simp] theorem State.logEvent_io_ptmo (s : State) (e : Event) : (s.logEvent e).io.ptmo = s.io.ptmo := by
  simp only [State.logEvent, State.writeEvent, State.noteEntry, State.send, State.setTask]; repeat' split
  all_goals rfl
@[simp] theorem State.logEvent_io_imports (s : State) (e : Event) : (s.logEvent e).io.imports = s.io.imports := by
  simp only [State.logEvent, State.writeEvent, State.noteEntry, State.send, State.setTask]; repeat' split
  all_goals rfl
@[simp] theorem State.logEvent_io_routes (s : State) (e : Event) : (s.logEvent e).io.routes = s.io.routes := by
  simp only [State.logEvent, State.writeEvent, State.noteEntry, State.send, State.setTask]; repeat' split
  all_goals rfl

@[simp] theorem State.device_logEvent (s : State) (e : Event) (d : Nat) : (s.logEvent e).device d = s.device d := by
  simp [State.device]
@[simp] theorem State.core_logEvent (s : State) (e : Event) (c : Nat) : (s.logEvent e).core c = s.core c := by
  simp [State.core]
@[simp] theorem State.warp_logEvent (s : State) (e : Event) (c k : Nat) : (s.logEvent e).warp c k = s.warp c k := by
  simp [State.warp]
@[simp] theorem State.wg_logEvent (s : State) (e : Event) (c g : Nat) : (s.logEvent e).wg c g = s.wg c g := by
  simp [State.wg]
@[simp] theorem State.frag_logEvent (s : State) (e : Event) (c k f : Nat) : (s.logEvent e).frag c k f = s.frag c k f := by
  simp [State.frag]
@[simp] theorem State.port_logEvent (s : State) (e : Event) (p : Nat) : (s.logEvent e).port p = s.port p := by
  simp [State.port]
@[simp] theorem State.group_logEvent (s : State) (e : Event) (i : Nat) : (s.logEvent e).group i = s.group i := by
  simp [State.group]
@[simp] theorem State.queue_logEvent (s : State) (e : Event) (d q : Nat) : (s.logEvent e).queue d q = s.queue d q := by
  simp [State.queue]
@[simp] theorem State.slice_logEvent (s : State) (e : Event) (d i : Nat) : (s.logEvent e).slice d i = s.slice d i := by
  simp [State.slice]

/-- Where the log takes no entry into host memory, memory stays; elsewhere one entry of 64 bytes is written to the ring. -/
theorem State.writeEvent_mem (s : State) (e : List Word64) (t : Option Nat) (m : Option Member) :
    (s.writeEvent e t m).mem = if s.module.elen = true ∧ s.module.eltail - s.module.elhead ≠ 2 ^ s.module.ellog then
      Memory.write s.mem (hostBase + s.module.elbase + 64 * (s.module.eltail % 2 ^ s.module.ellog)) 64
        (bytesNat (e.flatMap (fun x => natBytes 8 x.toNat)))
    else s.mem := by
  cases hn : s.module.elen
  · simp only [State.writeEvent, hn, Bool.false_eq_true, if_false, false_and]
    split <;> rfl
  · by_cases hf : s.module.eltail - s.module.elhead = 2 ^ s.module.ellog
    · simp [State.writeEvent, hn, hf]
    · cases t <;> cases m <;> cases hi : s.module.elien <;> simp [State.writeEvent, State.noteEntry, hn, hf, hi]

/-! ### Folds, waiters and links. -/

/-- A fold keeps what every step of it keeps. -/
theorem foldl_keeps {σ α β : Type} (p : σ → β) (f : σ → α → σ) (h : ∀ s x, p (f s x) = p s) (l : List α) (s : σ) :
    p (l.foldl f s) = p s := by
  induction l generalizing s with
  | nil => rfl
  | cons x l ih => rw [List.foldl_cons, ih, h]

@[simp] theorem State.unparkWaiter_io (s : State) (w : Waiter) : (s.unparkWaiter w).io = s.io := by
  unfold State.unparkWaiter; repeat' split
  all_goals rfl
@[simp] theorem State.unparkWaiter_mem (s : State) (w : Waiter) : (s.unparkWaiter w).mem = s.mem := by
  unfold State.unparkWaiter; repeat' split
  all_goals rfl

@[simp] theorem State.reroute_ports (s : State) (i : Nat) (r : PeerReq) : (s.reroute i r).io.ports = s.io.ports := by
  unfold State.reroute
  split
  · rfl
  · simp

/-- The longest retrain of a port (R252), when one of its retrains ends now. -/
def Port.noted (x : Port) (now : Nat) : Nat :=
  if x.state = 3 then max x.longest (min ((now - x.retrainAt) / 1024) (2 ^ 32 - 1)) else x.longest

/-- What a link that goes down leaves of its port (R251). -/
theorem State.port_linkDown (s : State) (p : Nat) : (s.linkDown p).port p =
    { s.port p with state := 0, downev := true, replay := [], open_ := [], out := [], noProgress := 0,
                    longest := (s.port p).noted s.now } := by
  unfold State.linkDown
  rw [State.port, foldl_keeps (fun s : State => s.io.ports), foldl_keeps (fun s : State => s.io.ports)]
  · by_cases h : (s.port p).state = 3
    · simp [Port.noted, State.noteRetrain, State.port, State.setPort] at *
      simp [h]
    · simp [h, Port.noted, State.setPort]
  · intro t e; rfl
  · intro t e; split <;> simp

end Sys2Proof.Machine
end

