-- ==== Sys2Proof/Laws/Fields.lean ====
section
/-! SUPPORT. The operand formats (R68): the fields of the bits that fields make are the fields again. -/

namespace Sys2Proof

/-- A field of two joined ones: in the low part. -/
theorem extract_low {m n : Nat} (x : BitVec m) (y : BitVec n) (s l : Nat) (h : s + l ≤ n) :
    (x ++ y).extractLsb' s l = y.extractLsb' s l := by
  ext i hi
  simp [BitVec.getLsbD_append, show s + i < n by omega]

/-- A field of two joined ones: in the high part. -/
theorem extract_high {m n : Nat} (x : BitVec m) (y : BitVec n) (s l : Nat) (h : n ≤ s) :
    (x ++ y).extractLsb' s l = x.extractLsb' (s - n) l := by
  ext i hi
  simp [BitVec.getLsbD_append, show ¬ s + i < n by omega, show s + i - n = s - n + i by omega]

theorem extract_all {n : Nat} (x : BitVec n) : x.extractLsb' 0 n = x := by
  ext i hi
  simp

theorem bit_low {m n : Nat} (x : BitVec m) (y : BitVec n) (i : Nat) (h : i < n) : (x ++ y).getLsbD i = y.getLsbD i := by
  simp [BitVec.getLsbD_append, h]

theorem bit_high {m n : Nat} (x : BitVec m) (y : BitVec n) (i : Nat) (h : n ≤ i) :
    (x ++ y).getLsbD i = x.getLsbD (i - n) := by
  simp [BitVec.getLsbD_append, show ¬ i < n by omega]

theorem bit_ofBool (b : Bool) : (BitVec.ofBool b).getLsbD 0 = b := by cases b <;> rfl

theorem OpR.of_bits19 (o : OpR) : OpR.of o.u o.bits19 o.ext = o := by
  obtain ⟨u, d, a, b, m, x⟩ := o
  have h1 : (d ++ a ++ b ++ BitVec.ofBool m : BitVec 19).extractLsb' 13 6 = d :=
    (extract_high (d ++ a ++ b) (BitVec.ofBool m) 13 6 (by decide)).trans ((extract_high (d ++ a) (b) 12 6 (by decide)).trans ((extract_high (d) (a) 6 6 (by decide)).trans (extract_all _)))
  have h2 : (d ++ a ++ b ++ BitVec.ofBool m : BitVec 19).extractLsb' 7 6 = a :=
    (extract_high (d ++ a ++ b) (BitVec.ofBool m) 7 6 (by decide)).trans ((extract_high (d ++ a) (b) 6 6 (by decide)).trans ((extract_low (d) (a) 0 6 (by decide)).trans (extract_all _)))
  have h3 : (d ++ a ++ b ++ BitVec.ofBool m : BitVec 19).extractLsb' 1 6 = b :=
    (extract_high (d ++ a ++ b) (BitVec.ofBool m) 1 6 (by decide)).trans ((extract_low (d ++ a) (b) 0 6 (by decide)).trans (extract_all _))
  have h4 : (d ++ a ++ b ++ BitVec.ofBool m : BitVec 19).getLsbD 0 = m :=
    (bit_low (d ++ a ++ b) (BitVec.ofBool m) 0 (by decide)).trans (bit_ofBool _)
  exact Eq.mpr (OpR.mk.injEq ..) ⟨rfl, h1, h2, h3, h4, rfl⟩

theorem OpI.of_bits19 (o : OpI) : OpI.of o.u o.bits19 o.ext = o := by
  obtain ⟨u, d, a, imm, x⟩ := o
  have h1 : (d ++ a ++ imm : BitVec 19).extractLsb' 13 6 = d :=
    (extract_high (d ++ a) (imm) 13 6 (by decide)).trans ((extract_high (d) (a) 6 6 (by decide)).trans (extract_all _))
  have h2 : (d ++ a ++ imm : BitVec 19).extractLsb' 7 6 = a :=
    (extract_high (d ++ a) (imm) 7 6 (by decide)).trans ((extract_low (d) (a) 0 6 (by decide)).trans (extract_all _))
  have h3 : (d ++ a ++ imm : BitVec 19).extractLsb' 0 7 = imm :=
    (extract_low (d ++ a) (imm) 0 7 (by decide)).trans (extract_all _)
  exact Eq.mpr (OpI.mk.injEq ..) ⟨rfl, h1, h2, h3, rfl⟩

theorem OpL.of_bits19 (o : OpL) : OpL.of o.u o.bits19 o.ext = o := by
  obtain ⟨u, d, imm, x⟩ := o
  have h1 : (d ++ imm : BitVec 19).extractLsb' 13 6 = d :=
    (extract_high (d) (imm) 13 6 (by decide)).trans (extract_all _)
  have h2 : (d ++ imm : BitVec 19).extractLsb' 0 13 = imm :=
    (extract_low (d) (imm) 0 13 (by decide)).trans (extract_all _)
  exact Eq.mpr (OpL.mk.injEq ..) ⟨rfl, h1, h2, rfl⟩

theorem OpJ.of_bits19 (o : OpJ) : OpJ.of o.u o.bits19 o.ext = o := rfl

theorem OpC.of_bits19 (o : OpC) : OpC.of o.u o.bits19 o.ext = o := by
  obtain ⟨u, a, cc, imm, x⟩ := o
  have h1 : (a ++ cc ++ imm : BitVec 19).extractLsb' 13 6 = a :=
    (extract_high (a ++ cc) (imm) 13 6 (by decide)).trans ((extract_high (a) (cc) 3 6 (by decide)).trans (extract_all _))
  have h2 : (a ++ cc ++ imm : BitVec 19).extractLsb' 10 3 = cc :=
    (extract_high (a ++ cc) (imm) 10 3 (by decide)).trans ((extract_low (a) (cc) 0 3 (by decide)).trans (extract_all _))
  have h3 : (a ++ cc ++ imm : BitVec 19).extractLsb' 0 10 = imm :=
    (extract_low (a ++ cc) (imm) 0 10 (by decide)).trans (extract_all _)
  exact Eq.mpr (OpC.mk.injEq ..) ⟨rfl, h1, h2, h3, rfl⟩

theorem OpG.of_bits19 (o : OpG) : OpG.of o.u o.bits19 o.ext = o := by
  obtain ⟨u, off, m, x⟩ := o
  have h1 : (off ++ BitVec.ofBool m : BitVec 19).extractLsb' 1 18 = off :=
    (extract_high (off) (BitVec.ofBool m) 1 18 (by decide)).trans (extract_all _)
  have h2 : (off ++ BitVec.ofBool m : BitVec 19).getLsbD 0 = m :=
    (bit_low (off) (BitVec.ofBool m) 0 (by decide)).trans (bit_ofBool _)
  exact Eq.mpr (OpG.mk.injEq ..) ⟨rfl, h1, h2, rfl⟩

theorem OpM.of_bits19 (o : OpM) : OpM.of o.u o.bits19 o.ext = o := by
  obtain ⟨u, d, base, xk, x, w, e⟩ := o
  have h1 : (d ++ base ++ BitVec.ofBool xk ++ x ++ w : BitVec 19).extractLsb' 13 6 = d :=
    (extract_high (d ++ base ++ BitVec.ofBool xk ++ x) (w) 13 6 (by decide)).trans ((extract_high (d ++ base ++ BitVec.ofBool xk) (x) 10 6 (by decide)).trans ((extract_high (d ++ base) (BitVec.ofBool xk) 4 6 (by decide)).trans ((extract_high (d) (base) 3 6 (by decide)).trans (extract_all _))))
  have h2 : (d ++ base ++ BitVec.ofBool xk ++ x ++ w : BitVec 19).extractLsb' 10 3 = base :=
    (extract_high (d ++ base ++ BitVec.ofBool xk ++ x) (w) 10 3 (by decide)).trans ((extract_high (d ++ base ++ BitVec.ofBool xk) (x) 7 3 (by decide)).trans ((extract_high (d ++ base) (BitVec.ofBool xk) 1 3 (by decide)).trans ((extract_low (d) (base) 0 3 (by decide)).trans (extract_all _))))
  have h3 : (d ++ base ++ BitVec.ofBool xk ++ x ++ w : BitVec 19).getLsbD 9 = xk :=
    (bit_high (d ++ base ++ BitVec.ofBool xk ++ x) (w) 9 (by decide)).trans ((bit_high (d ++ base ++ BitVec.ofBool xk) (x) 6 (by decide)).trans ((bit_low (d ++ base) (BitVec.ofBool xk) 0 (by decide)).trans (bit_ofBool _)))
  have h4 : (d ++ base ++ BitVec.ofBool xk ++ x ++ w : BitVec 19).extractLsb' 3 6 = x :=
    (extract_high (d ++ base ++ BitVec.ofBool xk ++ x) (w) 3 6 (by decide)).trans ((extract_low (d ++ base ++ BitVec.ofBool xk) (x) 0 6 (by decide)).trans (extract_all _))
  have h5 : (d ++ base ++ BitVec.ofBool xk ++ x ++ w : BitVec 19).extractLsb' 0 3 = w :=
    (extract_low (d ++ base ++ BitVec.ofBool xk ++ x) (w) 0 3 (by decide)).trans (extract_all _)
  exact Eq.mpr (OpM.mk.injEq ..) ⟨rfl, h1, h2, h3, h4, h5, rfl⟩

theorem OpN.of_bits19 (o : OpN) : OpN.of o.u o.bits19 o.ext = o := by
  obtain ⟨u, d, a, off, w, x⟩ := o
  have h1 : (d ++ a ++ off ++ w : BitVec 19).extractLsb' 13 6 = d :=
    (extract_high (d ++ a ++ off) (w) 13 6 (by decide)).trans ((extract_high (d ++ a) (off) 10 6 (by decide)).trans ((extract_high (d) (a) 6 6 (by decide)).trans (extract_all _)))
  have h2 : (d ++ a ++ off ++ w : BitVec 19).extractLsb' 7 6 = a :=
    (extract_high (d ++ a ++ off) (w) 7 6 (by decide)).trans ((extract_high (d ++ a) (off) 4 6 (by decide)).trans ((extract_low (d) (a) 0 6 (by decide)).trans (extract_all _)))
  have h3 : (d ++ a ++ off ++ w : BitVec 19).extractLsb' 3 4 = off :=
    (extract_high (d ++ a ++ off) (w) 3 4 (by decide)).trans ((extract_low (d ++ a) (off) 0 4 (by decide)).trans (extract_all _))
  have h4 : (d ++ a ++ off ++ w : BitVec 19).extractLsb' 0 3 = w :=
    (extract_low (d ++ a ++ off) (w) 0 3 (by decide)).trans (extract_all _)
  exact Eq.mpr (OpN.mk.injEq ..) ⟨rfl, h1, h2, h3, h4, rfl⟩

theorem OpZ.of_bits19 (o : OpZ) : OpZ.of o.u o.bits19 o.ext = o := rfl

end Sys2Proof
end

