-- ==== Sys2Proof/Laws/Operands.lean ====
section
/-! SUPPORT. What the checks of vector operands answer (R90, R101, R144, R158): they pass exactly on the operands that the
vocabulary of Safety.lean describes. -/

namespace Sys2Proof.Machine

theorem mem_lanesOf {m : BitVec 32} {i : Nat} : i ∈ lanesOf m ↔ m.getLsbD i = true := by
  simp only [lanesOf, List.mem_filter, List.mem_range, and_iff_right_iff_imp]
  intro h
  exact Decidable.byContradiction (fun hn => by simp [BitVec.getLsbD_of_ge m i (by omega)] at h)

theorem lanesOf_ne_nil {m : BitVec 32} (h : m ≠ 0) : lanesOf m ≠ [] := by
  intro hn
  apply h
  apply BitVec.eq_of_getLsbD_eq
  intro i _
  have : ¬ i ∈ lanesOf m := by simp [hn]
  simpa [mem_lanesOf] using this

/-- The lowest lane of a fragment is active. -/
theorem lowLane_active {m : BitVec 32} (h : m ≠ 0) : m.getLsbD (lowLane m) = true := by
  rw [← mem_lanesOf, lowLane]
  cases hl : lanesOf m with
  | nil => exact absurd hl (lanesOf_ne_nil h)
  | cons a l => simp

theorem find?_lanes_none {m : BitVec 32} {p : Nat → Bool} (h : ∀ i, m.getLsbD i = true → p i = false) :
    (lanesOf m).find? p = none := by
  simp only [List.find?_eq_none, mem_lanesOf]
  intro i hi
  simp [h i hi]

theorem checkUniform_ok {s : State} {u : Bool} {rs : List Nat} (h : s.Uniform u rs) : s.checkUniform u rs = .ok () := by
  induction rs with
  | nil => rfl
  | cons r rs ih =>
    have ih := ih (fun hu hc r' hr => h hu hc r' (List.mem_cons_of_mem _ hr))
    rw [State.checkUniform]
    split
    · rename_i hc
      simp only [Bool.and_eq_true] at hc
      rw [find?_lanes_none (by simpa using h hc.1 hc.2 r (by simp))]
      exact ih
    · rfl

theorem checkOne_ok {s : State} {t : Tag} {r : Nat} (ha : s.active ≠ 0) (h : s.Holds t r) (opnd : Nat) {ok : Tag → Bool}
    (hok : ok t = true) (agree : Bool) : s.checkOne r opnd ok agree = .ok t := by
  have hl := h.2 _ (lowLane_active ha)
  have he : ∀ i, s.active.getLsbD i = true → ((s.V r i).tag == Tag.empty) = false := by
    intro i hi; simp [h.2 i hi, h.1]
  have hd : ∀ i, s.active.getLsbD i = true → ((s.V r i).tag != t) = false := by
    intro i hi; simp [h.2 i hi]
  simp only [State.checkOne, hl, find?_lanes_none he, find?_lanes_none hd, hok, if_true]

theorem checkPair_ok {s : State} {t : Tag} {r : Nat} (h : s.Tagged t r) (opnd : Nat) : s.checkPair r opnd t = .ok t := by
  rw [State.checkPair]
  cases hp : t.partner with
  | none => rfl
  | some p =>
    obtain ⟨h1, h2, h3⟩ := h.2 p hp
    have hd : ∀ i, s.active.getLsbD i = true → ((s.V (r + 1) i).tag != p) = false := by
      intro i hi; simp [h3 i hi]
    simp [h1, show ¬ s.vregs ≤ r + 1 by omega, find?_lanes_none hd]

/-- A check that passes goes on in a sequence of checks. -/
theorem Chk.bind_ok {α β : Type} {c : Chk α} {a : α} (h : c = .ok a) (f : α → Chk β) : (c >>= f) = f a := by
  rw [h]; rfl

theorem checkTag_ok {s : State} {t : Tag} {r : Nat} (ha : s.active ≠ 0) (h : s.Tagged t r) (opnd : Nat) {ok : Tag → Bool}
    (hok : ok t = true) : s.checkTag r opnd ok = .ok t := by
  rw [State.checkTag, Chk.bind_ok (checkOne_ok ha h.1 opnd hok false), checkPair_ok h opnd]

theorem checkSame_ok {s : State} {t : Tag} {r : Nat} (ha : s.active ≠ 0) (h : s.Tagged t r) (opnd : Nat) :
    s.checkSame r opnd t = .ok t := by
  rw [State.checkSame, Chk.bind_ok (checkOne_ok ha h.1 opnd (by simp) true), checkPair_ok h opnd]

theorem checkDest_ok {s : State} {t : Tag} {d : Nat} (h : s.Dest t d) : s.checkDest d t = .ok () := by
  rw [State.checkDest]
  cases hp : t.partner with
  | none => rfl
  | some p =>
    obtain ⟨h1, h2⟩ := h (by simp [hp])
    simp [h1, show ¬ s.vregs ≤ d + 1 by omega]

/-- The checks of an element-wise word pass on sources of one accepted tag. -/
theorem checkSources_ok {s : State} {u : Bool} {t : Tag} {first d : Nat} {others : List (Nat × Nat)} {ok : Tag → Bool}
    (h : s.Sources u t (first :: others.map (fun e => e.1))) (hd : s.Dest t d) (hok : ok t = true) :
    s.checkSources u first others d ok = .ok t := by
  obtain ⟨ha, ht, hu⟩ := h
  have h1 : s.Uniform u (first :: others.map (fun e => e.1)) := fun a b r hr => hu a b r (List.mem_append_left _ hr)
  have h2 : s.Uniform u (t.partners (first :: others.map (fun e => e.1))) :=
    fun a b r hr => hu a b r (List.mem_append_right _ hr)
  have h3 : (others.forM (fun e => do let _ ← s.checkSame e.1 e.2 t) : Chk Unit) = .ok () := by
    have : ∀ e ∈ others, s.Tagged t e.1 := fun e he =>
      ht _ (List.mem_cons_of_mem _ (List.mem_map_of_mem he))
    clear ht hu h1 h2
    induction others with
    | nil => rfl
    | cons e es ih =>
      show ((do let _ ← s.checkSame e.1 e.2 t) >>= fun _ => es.forM (fun e => do let _ ← s.checkSame e.1 e.2 t)) = _
      rw [Chk.bind_ok (a := ()) (by rw [Chk.bind_ok (checkSame_ok ha (this e (by simp)) e.2)]; rfl)]
      exact ih (fun e he => this e (List.mem_cons_of_mem _ he))
  rw [State.checkSources, Chk.bind_ok (checkUniform_ok h1), Chk.bind_ok (checkTag_ok ha (ht first (by simp)) 0 hok),
    Chk.bind_ok h3, Chk.bind_ok (checkDest_ok hd), Chk.bind_ok (checkUniform_ok h2)]
  rfl

/-- A passed check goes on. -/
theorem Chk.run_ok {α : Type} {c : Chk α} {a : α} (h : c = .ok a) (s : State) (f : α → Res) : c.run s f = f a := by
  rw [h]; rfl

/-- A failed check traps. -/
theorem Chk.run_error {α : Type} {c : Chk α} {e : BitVec 10 × Word64} (h : c = .error e) (s : State) (f : α → Res) :
    c.run s f = .trap s e.1 e.2 := by
  rw [h]; rfl

theorem Res.out_done (s : State) : (Res.done s).out = .next s.ended := rfl

theorem Res.out_trap (s : State) (c : BitVec 10) (d : Word64) : (Res.trap s c d).out = .next (s.takeTrap c d false) := rfl

theorem out_putAll (s : State) (lat : Nat) (ws : List RegWrite) :
    (Res.done (s.putAll lat ws)).out = .next (s.writes lat ws) := rfl

theorem out_putElems (s : State) (lat d : Nat) (t : Tag) (f : Nat → List Nat) :
    (Res.done (s.putElems lat d t f)).out = .next (s.writes lat (s.lanes d t f)) := rfl

end Sys2Proof.Machine
end

