-- ==== Sys2Proof/Laws/Flight.lean ====
section
/-! SUPPORT. What a memory word in progress does when every access ends at once (R219): one access after another, in the
order of `State.orderReqs`. -/

namespace Sys2Proof.Machine

/-! ### Requests grouped by page. -/

/-- The requests stand page by page: those of one page together, and no page twice. -/
inductive Grouped : List LaneReq → Prop
  | nil : Grouped []
  | cons (g rest : List LaneReq) (p : Nat) (hne : g ≠ []) (hg : ∀ r ∈ g, r.pg = p) (hr : ∀ r ∈ rest, r.pg ≠ p)
      (h : Grouped rest) : Grouped (g ++ rest)

theorem mem_insertReq {r q : LaneReq} {l : List LaneReq} : q ∈ insertReq r l ↔ q = r ∨ q ∈ l := by
  induction l with
  | nil => simp [insertReq]
  | cons a l ih =>
    rw [insertReq]
    split <;> simp [ih, or_left_comm]

theorem mem_sortReqs {q : LaneReq} (rs : List LaneReq) (acc : List LaneReq) :
    q ∈ rs.foldl (fun acc r => insertReq r acc) acc ↔ q ∈ rs ∨ q ∈ acc := by
  induction rs generalizing acc with
  | nil => simp
  | cons r rs ih => simp only [List.foldl_cons, ih, mem_insertReq, List.mem_cons, or_left_comm, or_assoc]

/-- The pages of requests, in the order of the first that touches each. -/
theorem pages_spec (rs : List LaneReq) (ps : List Nat) (hp : ps.Nodup) :
    let l := rs.foldl (fun ps r => if ps.contains r.pg then ps else ps ++ [r.pg]) ps
    l.Nodup ∧ ∀ p, p ∈ l ↔ p ∈ ps ∨ ∃ r ∈ rs, r.pg = p := by
  induction rs generalizing ps with
  | nil => simp [hp]
  | cons r rs ih =>
    simp only [List.foldl_cons]
    by_cases h : ps.contains r.pg = true
    · rw [if_pos h]
      obtain ⟨h1, h2⟩ := ih ps hp
      refine ⟨h1, fun p => ?_⟩
      rw [h2]
      simp only [List.mem_cons, exists_eq_or_imp]
      constructor
      · rintro (h | h)
        · exact Or.inl h
        · exact Or.inr (Or.inr h)
      · rintro (h' | rfl | h')
        · exact Or.inl h'
        · exact Or.inl (by simpa using h)
        · exact Or.inr h'
    · rw [if_neg h]
      have hn : r.pg ∉ ps := by simpa using h
      obtain ⟨h1, h2⟩ := ih (ps ++ [r.pg]) (by
        rw [List.nodup_append]
        exact ⟨hp, by simp, by intro a ha b hb; simp at hb; subst hb; exact fun e => hn (e ▸ ha)⟩)
      refine ⟨h1, fun p => ?_⟩
      rw [h2]
      simp only [List.mem_append, List.mem_cons, List.not_mem_nil, or_false, exists_eq_or_imp]
      constructor
      · rintro ((h | rfl) | h)
        · exact Or.inl h
        · exact Or.inr (Or.inl rfl)
        · exact Or.inr (Or.inr h)
      · rintro (h | rfl | h)
        · exact Or.inl (Or.inl h)
        · exact Or.inl (Or.inr rfl)
        · exact Or.inr h

theorem grouped_flatMap (rs : List LaneReq) (ps : List Nat) (hp : ps.Nodup) (hs : ∀ p ∈ ps, ∃ r ∈ rs, r.pg = p) :
    Grouped (ps.flatMap (fun p => (rs.filter (fun r => r.pg = p)).foldl (fun acc r => insertReq r acc) [])) := by
  induction ps with
  | nil => exact .nil
  | cons p ps ih =>
    rw [List.flatMap_cons]
    obtain ⟨h1, h2⟩ := List.nodup_cons.1 hp
    refine .cons _ _ p ?_ ?_ ?_ (ih h2 (fun q hq => hs q (List.mem_cons_of_mem _ hq)))
    · obtain ⟨r, hr, e⟩ := hs p (by simp)
      intro hn
      have : r ∈ (rs.filter (fun r => r.pg = p)).foldl (fun acc r => insertReq r acc) [] := by
        rw [mem_sortReqs]; left; simp [hr, e]
      rw [hn] at this
      simp at this
    · intro r hr
      rw [mem_sortReqs] at hr
      simpa using hr.elim (fun h => (List.mem_filter.1 h).2) (fun h => by simp at h)
    · intro r hr
      simp only [List.mem_flatMap, mem_sortReqs, List.mem_filter, decide_eq_true_eq, List.not_mem_nil, or_false] at hr
      obtain ⟨q, hq, _, e⟩ := hr
      rintro rfl
      exact h1 (e ▸ hq)

theorem grouped_orderReqs (s : State) (rs : List LaneReq) : Grouped (s.orderReqs rs) := by
  obtain ⟨h1, h2⟩ := pages_spec (rs.map (fun r => { r with pg := s.pageOf r })) [] (by simp)
  exact grouped_flatMap _ _ h1 (fun p hp => by simpa using (h2 p).1 hp)

/-! ### A pass, and the flight. -/

theorem accessAll_append (s : State) (type : Nat) (commits : Bool) (g rest : List LaneReq) (got : Tab Nat) :
    s.accessAll type commits (g ++ rest) got =
      (match s.accessAll type commits g got with
       | some (t, got) => t.accessAll type commits rest got
       | none => none) := by
  induction g generalizing s got with
  | nil => rfl
  | cons r g ih =>
    simp only [List.cons_append, State.accessAll]
    cases s.accessOne type commits r with
    | none => rfl
    | some x => exact ih _ _

/-- One access of a pass that ends at once. -/
theorem step_of_accessOne {p : Pass} {r : LaneReq} {t : State} {v : Nat} (rest : List LaneReq) (hdrains : p.fl.drains = [])
    (h : p.s.accessOne p.fl.type p.fl.commits r = some (t, v)) :
    ∃ d, p.step r rest = { p with s := t, fl := { p.fl with done := d, got := Tab.set p.fl.got r.lane v } } := by
  rw [State.accessOne] at h
  split at h
  · cases h
  · by_cases hs : r.scr = true
    · rw [if_pos hs] at h
      simp only [Pass.step, hs, if_true]
      split at h
      · cases h
      · rename_i heq
        cases h
        try rw [heq]
        exact ⟨_, rfl⟩
    · rw [if_neg hs] at h
      split at h
      · cases h
      · rename_i hfar
        have ht : p.s.twins r rest = [] := by simp [State.twins, hfar]
        have hop : joinedOp r.op [] = r.op := by cases r.op <;> rfl
        have hall (a : BitVec 32) (v : Nat) : p.fl.madeAll a r [] v = p.fl.made a r v := by
          simp only [Flight.madeAll]; split <;> first | rfl | simp_all
        have ha : { p.s.laneActor p.fl.type r.lane with drains := p.fl.drains } = p.s.laneActor p.fl.type r.lane := by
          rw [hdrains]; rfl
        simp only [Pass.step, hs, Bool.false_eq_true, if_false, ht, hop, hall, ha, List.isEmpty_nil, if_true]
        split at h
        · rename_i v' t' heq
          cases h
          rw [heq]
          exact ⟨_, rfl⟩
        · cases h

theorem run_of_accessAll {may : LaneReq → Bool} (g : List LaneReq) (p : Pass) (hmay : ∀ r ∈ g, may r = true)
    (hleft : p.left = []) (hheld : p.held = []) (htaken : p.taken = []) (hpark : p.park = none) (hfail : p.fail = none)
    (hdrains : p.fl.drains = []) {t : State} {got : Tab Nat}
    (h : p.s.accessAll p.fl.type p.fl.commits g p.fl.got = some (t, got)) :
    ∃ d, p.run may g = { p with s := t, fl := { p.fl with done := d, got := got } } := by
  induction g generalizing p with
  | nil =>
    cases h
    exact ⟨p.fl.done, by simp [Pass.run]⟩
  | cons r g ih =>
    rw [State.accessAll] at h
    cases ho : p.s.accessOne p.fl.type p.fl.commits r with
    | none => rw [ho] at h; cases h
    | some x =>
      obtain ⟨t1, v⟩ := x
      rw [ho] at h
      obtain ⟨d, hd⟩ := step_of_accessOne (p := p) g hdrains ho
      rw [Pass.run, if_neg (by simp [htaken]), if_neg (by simp [Pass.goes, hpark, hfail]),
        if_neg (by simp [hheld, hmay r (by simp)]), hd]
      obtain ⟨d', hd'⟩ := ih { p with s := t1, fl := { p.fl with done := d, got := Tab.set p.fl.got r.lane v } }
        (fun q hq => hmay q (List.mem_cons_of_mem _ hq)) hleft hheld htaken hpark hfail hdrains h
      exact ⟨d', hd'⟩

/-- The first access of a list that ends at once finds all lanes free to go. -/
theorem accessAll_head {s : State} {type : Nat} {commits : Bool} {r : LaneReq} {g : List LaneReq} {got got' : Tab Nat}
    {t : State} (h : s.accessAll type commits (r :: g) got = some (t, got')) : s.focus.lanes = BitVec.allOnes 32 := by
  simp only [State.accessAll] at h
  split at h
  · rename_i heq
    rw [State.accessOne] at heq
    split at heq
    · cases heq
    · rename_i hl; exact Decidable.byContradiction hl
  · cases h

theorem passPage_of_accessAll {s t : State} {fl : Flight} {page : List LaneReq} (rest : List LaneReq) {got : Tab Nat}
    (hne : page ≠ []) (hfault : fl.fault = none) (hdrains : fl.drains = [])
    (h : s.accessAll fl.type fl.commits page fl.got = some (t, got)) :
    ∃ d, s.passPage fl page rest = { s := t, fl := { fl with done := d, got := got } } := by
  cases page with
  | nil => exact absurd rfl hne
  | cons r page =>
    have hl := accessAll_head h
    obtain ⟨d, hd⟩ := run_of_accessAll (may := s.picks fl (r :: page) rest) (r :: page) { s := s, fl := fl } (by
      intro q hq
      simp only [State.picks, hfault, Option.isSome_none, Bool.false_eq_true, if_false]
      split
      · simp [State.whole, hl]
      · rw [List.any_eq_true]
        exact ⟨q, List.mem_append_left _ hq, by
          rw [hl, BitVec.getLsbD_allOnes]
          simp [Nat.mod_lt]⟩) rfl rfl rfl rfl rfl hdrains h
    refine ⟨d, ?_⟩
    simp only [State.passPage]
    rw [hd]

theorem filter_group {g rest : List LaneReq} {p : Nat} (hg : ∀ r ∈ g, r.pg = p) (hr : ∀ r ∈ rest, r.pg ≠ p) :
    (g ++ rest).filter (fun q => q.pg = p) = g ∧ (g ++ rest).filter (fun q => q.pg != p) = rest := by
  constructor
  · rw [List.filter_append, List.filter_eq_self.2 (by simpa using hg), List.filter_eq_nil_iff.2 (by simpa using hr),
      List.append_nil]
  · rw [List.filter_append, List.filter_eq_nil_iff.2 (by simpa using hg), List.filter_eq_self.2 (by simpa using hr),
      List.nil_append]

/-- A flight whose accesses all end at once makes them in order, and is done. -/
theorem fly_of_accessAll {s t : State} {fl : Flight} {got : Tab Nat} {n : Nat} (hn : fl.reqs.length < n)
    (hg : Grouped fl.reqs) (hfree : fl.free = false) (hfault : fl.fault = none) (hdrains : fl.drains = [])
    (h : s.accessAll fl.type fl.commits fl.reqs fl.got = some (t, got)) :
    ∃ d, s.fly n fl = .done (t.setF { t.f with flight := some { fl with reqs := [], got := got, done := d } }) := by
  generalize hq : fl.reqs = reqs at hg h hn
  induction hg generalizing s fl n with
  | nil =>
    cases h
    cases n with
    | zero => omega
    | succ n => exact ⟨fl.done, by cases fl; simp only at hq hfault; subst hq hfault; simp [State.fly]⟩
  | cons g rest p hne hg hr hrest ih =>
    cases n with
    | zero => omega
    | succ n =>
      cases hgc : g with
      | nil => exact absurd hgc hne
      | cons r g' =>
        have hp : r.pg = p := hg r (by simp [hgc])
        obtain ⟨h1, h2⟩ := filter_group hg hr
        rw [accessAll_append] at h
        cases hpage : s.accessAll fl.type fl.commits g fl.got with
        | none => rw [hpage] at h; cases h
        | some x =>
          obtain ⟨t1, got1⟩ := x
          rw [hpage] at h
          obtain ⟨d, hd⟩ := passPage_of_accessAll rest hne hfault hdrains hpage
          have hlen : rest.length < n := by
            have : 0 < g.length := List.length_pos_iff.2 hne
            simp only [List.length_append] at hn
            omega
          obtain ⟨d', hd'⟩ := ih (s := t1) (fl := { fl with reqs := rest, got := got1, done := d }) hfree hfault hdrains rfl h hlen
          refine ⟨d', ?_⟩
          rw [State.fly, hq]
          have e1 : (g ++ rest).filter (fun q => fl.free || q.pg = r.pg) = g := by simpa [hfree, hp] using h1
          have e2 : (g ++ rest).filter (fun q => !fl.free && q.pg != r.pg) = rest := by simpa [hfree, hp] using h2
          simp only [hgc, List.cons_append] at e1 e2 ⊢
          rw [e1, e2, ← hgc, hd]
          simp only [List.nil_append, hfault, List.isEmpty_nil, if_true]
          simpa [hfault] using hd'

/-- A memory word none of whose accesses waits or faults: it makes them in order, and then does `done`. -/
theorem runFlight_of_accessAll {s t : State} {c : Chk Flight} {fl : Flight} {commits : Bool} {got : Tab Nat}
    {done : State → Flight → Res} (hs : s.Fresh) (hc : c = .ok fl) (hfree : fl.free = false) (hfault : fl.fault = none)
    (hdrains : fl.drains = []) (h : s.flown commits fl = some (t, got)) :
    ∃ d, s.runFlight c commits done =
      (done t { fl with reqs := [], got := got, done := d, strict := s.touchesShared fl.reqs }).bind (fun s =>
        .done (if fl.keep && s.w.progress.pc = s.f.pc && s.w.progress.pos = s.focus.pos then
          s.setW { s.w with progress := {} } else s)) := by
  obtain ⟨hs1, hs2⟩ := hs
  have hf : (fl.reqs.filter (fun r => !(0 : BitVec 32).getLsbD r.lane)) = fl.reqs := by simp
  simp only [State.flown] at h
  split at h <;> cases h
  rename_i t got h
  obtain ⟨d, hd⟩ := fly_of_accessAll (n := ((s.begun commits fl fl.reqs).orderReqs fl.reqs).length + 1)
    (s := s.begun commits fl fl.reqs)
    (fl := { fl with done := 0, strict := s.touchesShared fl.reqs, reqs := (s.begun commits fl fl.reqs).orderReqs fl.reqs })
    (by simp) (grouped_orderReqs _ _) hfree hfault hdrains h
  refine ⟨d, ?_⟩
  simp only [State.runFlight, hs1, Chk.run_ok hc, hs2, Bool.and_false, Bool.false_and, Bool.false_eq_true, if_false, hf]
  rw [hd]
  simp [Res.bind, State.landed, State.noting_setF]

/-! ### The checks of addresses. -/

theorem checkOffset_ok {s : State} {fm : Form} {align : Nat} {lanes : List Nat} (ha : s.active ≠ 0)
    (h : s.Addressed fm align lanes) : s.checkOffset fm = .ok () := by
  rw [State.checkOffset]
  cases ho : fm.off with
  | none => rfl
  | some r =>
    obtain ⟨t, ht, hr⟩ := h.1 r ho
    simp only []
    rw [Chk.bind_ok (checkOne_ok ha hr 1 (by simp at ht; rcases ht with rfl | rfl | rfl <;> rfl) false)]
    rfl

theorem checkForm_ok {s : State} {fm : Form} {align : Nat} {lanes : List Nat} (h : s.Addressed fm align lanes) (type : Nat)
    (once : Bool) : s.checkForm fm type align lanes once = .ok () := by
  have h1 : lanes.find? (fun i => if fm.scratch then fm.addr i < 0 || (s.window : Int) ≤ fm.addr i
      else fm.addr i < 0 || 2 ^ 57 ≤ fm.addr i) = none := by
    rw [List.find?_eq_none]
    intro i hi
    obtain ⟨h1, h2, _⟩ := h.2 i hi
    cases hs : fm.scratch <;> simp [hs] at h2 ⊢ <;> omega
  have h2 : lanes.find? (fun i => fm.addr i % (align : Int) != 0) = none := by
    rw [List.find?_eq_none]
    intro i hi
    simp [(h.2 i hi).2.2]
  simp only [State.checkForm, h1, h2]

theorem checkData_ok {s : State} {rs : List Nat} (h : ∀ r ∈ rs, ∀ i, s.active.getLsbD i = true → (s.V r i).tag ≠ .empty) :
    s.checkData rs = .ok () := by
  induction rs with
  | nil => rfl
  | cons r rs ih =>
    rw [State.checkData, find?_lanes_none (by simpa using h r (by simp))]
    exact ih (fun q hq => h q (List.mem_cons_of_mem _ hq))

end Sys2Proof.Machine
end

