-- ==== Sys2Proof/Laws/Memory.lean ====
section
/-! SUPPORT. Memory: every operation keeps the canonical form, a read after a write gives what was written, and a write
leaves every other byte alone. -/

namespace Sys2Proof.Machine

/-- The first address of a memory is above a bound. -/
def Memory.above (a : Nat) : Memory → Prop
  | [] => True
  | (a', _) :: _ => a < a'

theorem Memory.wf_cons (a : Nat) (b : Byte) (t : Memory) :
    Memory.wf ((a, b) :: t) = true ↔ b ≠ Memory.fill ∧ t.above a ∧ Memory.wf t = true := by
  cases t with
  | nil => simp [Memory.wf, Memory.above]
  | cons e t => obtain ⟨a', b'⟩ := e; simp [Memory.wf, Memory.above, and_assoc]

theorem Memory.get_below (m : Memory) (a i : Nat) (h : m.above a) (hi : i ≤ a) : m.get i = Memory.fill := by
  cases m with
  | nil => rfl
  | cons e t =>
    obtain ⟨a', b'⟩ := e
    simp only [Memory.above] at h
    simp only [Memory.get]
    rw [if_neg (by omega), if_pos (by omega)]

theorem Memory.above_put (m : Memory) (a i : Nat) (b : Byte) (h : m.above i) (hi : i < a) (hw : m.wf = true) :
    (m.put a b).above i := by
  cases m with
  | nil => simp only [Memory.put]; split <;> simp [Memory.above, hi]
  | cons e t =>
    obtain ⟨a', b'⟩ := e
    simp only [Memory.above] at h
    simp only [Memory.put]
    split
    · split <;> simpa [Memory.above]
    · split
      · split
        · have hw' := (Memory.wf_cons a' b' t).1 hw
          cases t with
          | nil => trivial
          | cons e t => obtain ⟨a2, b2⟩ := e; simp only [Memory.above] at hw' ⊢; omega
        · simpa [Memory.above]
      · simpa [Memory.above]

/-- Writing a byte keeps the canonical form. -/
theorem Memory.wf_put (m : Memory) (a : Nat) (b : Byte) (h : m.wf = true) : (m.put a b).wf = true := by
  induction m with
  | nil => simp only [Memory.put]; split <;> simp_all [Memory.wf]
  | cons e t ih =>
    obtain ⟨a', b'⟩ := e
    obtain ⟨hb, hab, ht⟩ := (Memory.wf_cons a' b' t).1 h
    simp only [Memory.put]
    split
    · split
      · exact h
      · rename_i h1 h2
        rw [Memory.wf_cons]
        exact ⟨h2, h1, h⟩
    · split
      · rename_i h1 h2
        split
        · exact ht
        · rename_i h3; rw [Memory.wf_cons]; exact ⟨h3, h2 ▸ hab, ht⟩
      · rename_i h1 h2
        rw [Memory.wf_cons]
        exact ⟨hb, Memory.above_put t a a' b hab (by omega) ht, ih ht⟩

/-- A byte reads as what was written to it. -/
theorem Memory.get_put_self (m : Memory) (a : Nat) (b : Byte) (h : m.wf = true) : (m.put a b).get a = b := by
  induction m with
  | nil => simp only [Memory.put]; split <;> simp_all [Memory.get]
  | cons e t ih =>
    obtain ⟨a', b'⟩ := e
    obtain ⟨hb, hab, ht⟩ := (Memory.wf_cons a' b' t).1 h
    simp only [Memory.put]
    split
    · rename_i h1
      split
      · rename_i h2; simp only [Memory.get]; rw [if_neg (by omega), if_pos h1, h2]
      · simp [Memory.get]
    · split
      · rename_i h1 h2
        split
        · rename_i h3; rw [Memory.get_below t a' a hab (by omega), h3]
        · simp [Memory.get]
      · rename_i h1 h2
        simp only [Memory.get, h2, h1, if_false, ih ht]

/-- Every other byte reads as before. -/
theorem Memory.get_put_other (m : Memory) (a i : Nat) (b : Byte) (h : m.wf = true) (hi : i ≠ a) :
    (m.put a b).get i = m.get i := by
  induction m with
  | nil => simp only [Memory.put]; split <;> simp [Memory.get, Ne.symm hi]
  | cons e t ih =>
    obtain ⟨a', b'⟩ := e
    obtain ⟨hb, hab, ht⟩ := (Memory.wf_cons a' b' t).1 h
    simp only [Memory.put]
    split
    · rename_i h1
      split
      · rfl
      · simp only [Memory.get]
        rw [if_neg (Ne.symm hi)]
        split
        · rw [if_neg (by omega), if_pos (by omega)]
        · rfl
    · split
      · rename_i h1 h2
        subst h2
        split
        · simp only [Memory.get]
          rw [if_neg (Ne.symm hi)]
          split
          · rw [Memory.get_below t a' i hab (by omega)]
          · rfl
        · simp only [Memory.get]
          rw [if_neg (Ne.symm hi), if_neg (Ne.symm hi)]
      · simp only [Memory.get, ih ht]

/-- Writing bytes keeps the canonical form. -/
theorem Memory.wf_write (m : Memory) (a n v : Nat) (h : m.wf = true) : (m.write a n v).wf = true := by
  induction n generalizing a v with
  | zero => exact h
  | succ n ih => exact Memory.wf_put _ _ _ (ih (a + 1) (v / 256))

/-- A byte outside a written range reads as before. -/
theorem Memory.get_write_outside (m : Memory) (a n v i : Nat) (h : m.wf = true) (hi : i < a ∨ a + n ≤ i) :
    (m.write a n v).get i = m.get i := by
  induction n generalizing a v with
  | zero => rfl
  | succ n ih =>
    simp only [Memory.write]
    rw [Memory.get_put_other _ _ _ _ (Memory.wf_write _ _ _ _ h) (by omega)]
    exact ih (a + 1) (v / 256) (by omega)

/-- The j-th byte of a written range is the j-th byte of the number. -/
theorem Memory.get_write_inside (m : Memory) (a n v j : Nat) (h : m.wf = true) (hj : j < n) :
    (m.write a n v).get (a + j) = BitVec.ofNat 8 (v / 256 ^ j) := by
  induction n generalizing a v j with
  | zero => omega
  | succ n ih =>
    simp only [Memory.write]
    cases j with
    | zero => simp [Memory.get_put_self _ _ _ (Memory.wf_write _ _ _ _ h)]
    | succ j =>
      rw [Memory.get_put_other _ _ _ _ (Memory.wf_write _ _ _ _ h) (by omega)]
      have := ih (a + 1) (v / 256) j (by omega)
      rw [show a + (j + 1) = a + 1 + j by omega, this, Nat.div_div_eq_div_mul, Nat.pow_succ, Nat.mul_comm]

/-- A read sees only the bytes that it reads. -/
theorem Memory.read_congr (m m' : Memory) (a n : Nat) (h : ∀ i, a ≤ i → i < a + n → m.get i = m'.get i) :
    m.read a n = m'.read a n := by
  induction n generalizing a with
  | zero => rfl
  | succ n ih =>
    simp only [Memory.read]
    rw [h a (by omega) (by omega), ih (a + 1) (fun i h1 h2 => h i (by omega) (by omega))]

/-- A read of the bytes just written gives the number, cut to their count. -/
theorem Memory.read_write_same (m : Memory) (a n v : Nat) (h : m.wf = true) :
    (m.write a n v).read a n = v % 256 ^ n := by
  induction n generalizing a v with
  | zero => simp [Memory.read, Nat.mod_one]
  | succ n ih =>
    simp only [Memory.write, Memory.read]
    rw [Memory.get_put_self _ _ _ (Memory.wf_write _ _ _ _ h),
      Memory.read_congr _ (m.write (a + 1) n (v / 256)) (a + 1) n
        (fun i h1 _ => Memory.get_put_other _ _ _ _ (Memory.wf_write _ _ _ _ h) (by omega)),
      ih (a + 1) (v / 256), Nat.pow_succ, Nat.mul_comm (256 ^ n) 256, Nat.mod_mul]
    simp

/-- A read outside a written range gives what it gave before. -/
theorem Memory.read_write_outside (m : Memory) (a n v i k : Nat) (h : m.wf = true) (hi : i + k ≤ a ∨ a + n ≤ i) :
    (m.write a n v).read i k = m.read i k :=
  Memory.read_congr _ _ _ _ (fun j h1 h2 => Memory.get_write_outside m a n v j h (by omega))

end Sys2Proof.Machine
end

