-- ==== Sys2Proof/Laws/PerInstr.lean ====
section
/-! SUPPORT. For every instruction of the opcode map: its opcode and its operand fields make it again (R67, R68, R74). -/

namespace Sys2Proof.Laws.Encoding

/-- The instruction of an instruction's opcode point and fields is the instruction. -/
def Statement (i : Instr) : Prop :=
  ∀ op, i.opcode = some op → Instr.ofFields op.toNat i.fields.1 i.fields.2.1 i.fields.2.2 = some i

theorem qtailWrite : ∀ a b c, Statement (.qtailWrite a b c) := by intros; intro _ h; cases h
theorem queueEnable : ∀ a b, Statement (.queueEnable a b) := by intros; intro _ h; cases h
theorem queueDisable : ∀ a b, Statement (.queueDisable a b) := by intros; intro _ h; cases h
theorem qcheadWrite : ∀ a b c, Statement (.qcheadWrite a b c) := by intros; intro _ h; cases h
theorem registerWrite : ∀ a b c d, Statement (.registerWrite a b c d) := by intros; intro _ h; cases h
theorem packetIntake : ∀ a, Statement (.packetIntake a) := by intros; intro _ h; cases h
theorem taskDispatch : ∀ a, Statement (.taskDispatch a) := by intros; intro _ h; cases h
theorem unitPlacement : ∀ a, Statement (.unitPlacement a) := by intros; intro _ h; cases h
theorem unitRestore : ∀ a, Statement (.unitRestore a) := by intros; intro _ h; cases h
theorem taskCompletion : ∀ a, Statement (.taskCompletion a) := by intros; intro _ h; cases h
theorem interruptDelay : ∀ a b, Statement (.interruptDelay a b) := by intros; intro _ h; cases h
theorem workgroupRelease : ∀ a b, Statement (.workgroupRelease a b) := by intros; intro _ h; cases h
theorem residencyDeadlock : ∀ a, Statement (.residencyDeadlock a) := by intros; intro _ h; cases h
theorem packetDecode : ∀ a, Statement (.packetDecode a) := by intros; intro _ h; cases h
theorem joinRelease : ∀ a, Statement (.joinRelease a) := by intros; intro _ h; cases h
theorem pageWalk : ∀ a b, Statement (.pageWalk a b) := by intros; intro _ h; cases h
theorem upcallPost : ∀ a b, Statement (.upcallPost a b) := by intros; intro _ h; cases h
theorem homeAccess : ∀ a b, Statement (.homeAccess a b) := by intros; intro _ h; cases h
theorem classDrain : ∀ a b, Statement (.classDrain a b) := by intros; intro _ h; cases h
theorem reclassificationPoint : ∀ a, Statement (.reclassificationPoint a) := by intros; intro _ h; cases h
theorem inval : ∀ a, Statement (.inval a) := by intros; intro _ h; cases h
theorem harvest : ∀ a, Statement (.harvest a) := by intros; intro _ h; cases h
theorem migrate : ∀ a, Statement (.migrate a) := by intros; intro _ h; cases h
theorem torusPacketArrival : ∀ a b c, Statement (.torusPacketArrival a b c) := by intros; intro _ h; cases h
theorem crossingParityError : ∀ a, Statement (.crossingParityError a) := by intros; intro _ h; cases h
theorem linkFlitReceive : ∀ a b, Statement (.linkFlitReceive a b) := by intros; intro _ h; cases h
theorem nackReceive : ∀ a b, Statement (.nackReceive a b) := by intros; intro _ h; cases h
theorem laneLockLoss : ∀ a, Statement (.laneLockLoss a) := by intros; intro _ h; cases h
theorem forceRetrain : ∀ a, Statement (.forceRetrain a) := by intros; intro _ h; cases h
theorem retrainEnd : ∀ a b, Statement (.retrainEnd a b) := by intros; intro _ h; cases h
theorem linkDownEvent : ∀ a, Statement (.linkDownEvent a) := by intros; intro _ h; cases h
theorem portEnable : ∀ a, Statement (.portEnable a) := by intros; intro _ h; cases h
theorem portDisable : ∀ a, Statement (.portDisable a) := by intros; intro _ h; cases h
theorem linkTrained : ∀ a b c, Statement (.linkTrained a b c) := by intros; intro _ h; cases h
theorem peerRequest : ∀ a b, Statement (.peerRequest a b) := by intros; intro _ h; cases h
theorem peerTagAssign : ∀ a, Statement (.peerTagAssign a) := by intros; intro _ h; cases h
theorem peerTargetRequest : ∀ a, Statement (.peerTargetRequest a) := by intros; intro _ h; cases h
theorem peerResponse : ∀ a b, Statement (.peerResponse a b) := by intros; intro _ h; cases h
theorem peerTimeout : ∀ a, Statement (.peerTimeout a) := by intros; intro _ h; cases h
theorem peerCancel : ∀ a b c d, Statement (.peerCancel a b c d) := by intros; intro _ h; cases h
theorem inboundWrite : ∀ a b c d, Statement (.inboundWrite a b c d) := by intros; intro _ h; cases h
theorem inboundWriteRelease : ∀ a b, Statement (.inboundWriteRelease a b) := by intros; intro _ h; cases h
theorem inboundRead : ∀ a b c d, Statement (.inboundRead a b c d) := by intros; intro _ h; cases h
theorem hostCompletion : ∀ a b c, Statement (.hostCompletion a b c) := by intros; intro _ h; cases h
theorem hostCompletionTimeout : ∀ a b, Statement (.hostCompletionTimeout a b) := by intros; intro _ h; cases h
theorem copyLineRequest : ∀ a b, Statement (.copyLineRequest a b) := by intros; intro _ h; cases h
theorem copyCompletion : ∀ a b, Statement (.copyCompletion a b) := by intros; intro _ h; cases h
theorem multicastItem : ∀ a b c, Statement (.multicastItem a b c) := by intros; intro _ h; cases h
theorem shuffleExecute : ∀ a b, Statement (.shuffleExecute a b) := by intros; intro _ h; cases h
theorem msclScaleWrite : ∀ a, Statement (.msclScaleWrite a) := by intros; intro _ h; cases h
theorem reclaimWalk : ∀ a b, Statement (.reclaimWalk a b) := by intros; intro _ h; cases h
theorem countWordWake : ∀ a b, Statement (.countWordWake a b) := by intros; intro _ h; cases h
theorem waitRepoll : ∀ a, Statement (.waitRepoll a) := by intros; intro _ h; cases h
theorem remoteCwwaitPoll : ∀ a, Statement (.remoteCwwaitPoll a) := by intros; intro _ h; cases h
theorem groupWatchdog : ∀ a, Statement (.groupWatchdog a) := by intros; intro _ h; cases h
theorem preemptionRequest : ∀ a, Statement (.preemptionRequest a) := by intros; intro _ h; cases h
theorem preemptionSave : ∀ a b, Statement (.preemptionSave a b) := by intros; intro _ h; cases h
theorem preemptDeadline : ∀ a b, Statement (.preemptDeadline a b) := by intros; intro _ h; cases h
theorem debugHalt : ∀ a, Statement (.debugHalt a) := by intros; intro _ h; cases h
theorem debugResume : ∀ a, Statement (.debugResume a) := by intros; intro _ h; cases h
theorem debugRegRead : ∀ a, Statement (.debugRegRead a) := by intros; intro _ h; cases h
theorem debugRegWrite : ∀ a, Statement (.debugRegWrite a) := by intros; intro _ h; cases h
theorem debugResumeNext : ∀ a, Statement (.debugResumeNext a) := by intros; intro _ h; cases h
theorem debugResumeTret : ∀ a, Statement (.debugResumeTret a) := by intros; intro _ h; cases h
theorem debugKill : ∀ a, Statement (.debugKill a) := by intros; intro _ h; cases h
theorem sleepExpiry : ∀ a, Statement (.sleepExpiry a) := by intros; intro _ h; cases h
theorem eventLogEnable : Statement (.eventLogEnable) := fun _ h => nomatch h
theorem elheadWrite : ∀ a, Statement (.elheadWrite a) := by intros; intro _ h; cases h
theorem scrubPass : ∀ a b c d, Statement (.scrubPass a b c d) := by intros; intro _ h; cases h
theorem bankRetired : ∀ a b c, Statement (.bankRetired a b c) := by intros; intro _ h; cases h
theorem moduleReset : Statement (.moduleReset) := fun _ h => nomatch h
theorem bringup : Statement (.bringup) := fun _ h => nomatch h
theorem deviceReset : ∀ a, Statement (.deviceReset a) := by intros; intro _ h; cases h
theorem engineDrainTimeout : ∀ a, Statement (.engineDrainTimeout a) := by intros; intro _ h; cases h
theorem attest : Statement (.attest) := fun _ h => nomatch h
theorem cert : Statement (.cert) := fun _ h => nomatch h
theorem load : ∀ a b, Statement (.load a b) := by intros; intro _ h; cases h
theorem fwWatchdog : Statement (.fwWatchdog) := fun _ h => nomatch h
theorem thermalTrip : ∀ a, Statement (.thermalTrip a) := by intros; intro _ h; cases h
theorem thermalThrottle : ∀ a, Statement (.thermalThrottle a) := by intros; intro _ h; cases h
theorem powerFault : Statement (.powerFault) := fun _ h => nomatch h
theorem ctFatal : Statement (.ctFatal) := fun _ h => nomatch h
theorem clockChange : ∀ a, Statement (.clockChange a) := by intros; intro _ h; cases h
theorem nop (o : OpZ) : Statement (.nop o) := fun _ h => Option.some.inj h ▸ congrArg (fun o => some (Instr.nop o)) o.of_bits19
theorem saddR (o : OpR) : Statement (.saddR o) := fun _ h => Option.some.inj h ▸ congrArg (fun o => some (Instr.saddR o)) o.of_bits19
theorem ssubR (o : OpR) : Statement (.ssubR o) := fun _ h => Option.some.inj h ▸ congrArg (fun o => some (Instr.ssubR o)) o.of_bits19
theorem smulR (o : OpR) : Statement (.smulR o) := fun _ h => Option.some.inj h ▸ congrArg (fun o => some (Instr.smulR o)) o.of_bits19
theorem smulh (o : OpR) : Statement (.smulh o) := fun _ h => Option.some.inj h ▸ congrArg (fun o => some (Instr.smulh o)) o.of_bits19
theorem sdiv (o : OpR) : Statement (.sdiv o) := fun _ h => Option.some.inj h ▸ congrArg (fun o => some (Instr.sdiv o)) o.of_bits19
theorem srem (o : OpR) : Statement (.srem o) := fun _ h => Option.some.inj h ▸ congrArg (fun o => some (Instr.srem o)) o.of_bits19
theorem sandR (o : OpR) : Statement (.sandR o) := fun _ h => Option.some.inj h ▸ congrArg (fun o => some (Instr.sandR o)) o.of_bits19
theorem sorR (o : OpR) : Statement (.sorR o) := fun _ h => Option.some.inj h ▸ congrArg (fun o => some (Instr.sorR o)) o.of_bits19
theorem sxorR (o : OpR) : Statement (.sxorR o) := fun _ h => Option.some.inj h ▸ congrArg (fun o => some (Instr.sxorR o)) o.of_bits19
theorem sshlR (o : OpR) : Statement (.sshlR o) := fun _ h => Option.some.inj h ▸ congrArg (fun o => some (Instr.sshlR o)) o.of_bits19
theorem sshrR (o : OpR) : Statement (.sshrR o) := fun _ h => Option.some.inj h ▸ congrArg (fun o => some (Instr.sshrR o)) o.of_bits19
theorem ssraR (o : OpR) : Statement (.ssraR o) := fun _ h => Option.some.inj h ▸ congrArg (fun o => some (Instr.ssraR o)) o.of_bits19
theorem sminR (o : OpR) : Statement (.sminR o) := fun _ h => Option.some.inj h ▸ congrArg (fun o => some (Instr.sminR o)) o.of_bits19
theorem smaxR (o : OpR) : Statement (.smaxR o) := fun _ h => Option.some.inj h ▸ congrArg (fun o => some (Instr.smaxR o)) o.of_bits19
theorem scmpR (o : OpR) : Statement (.scmpR o) := fun _ h => Option.some.inj h ▸ congrArg (fun o => some (Instr.scmpR o)) o.of_bits19
theorem ssel (o : OpR) : Statement (.ssel o) := fun _ h => Option.some.inj h ▸ congrArg (fun o => some (Instr.ssel o)) o.of_bits19
theorem smov (o : OpR) : Statement (.smov o) := fun _ h => Option.some.inj h ▸ congrArg (fun o => some (Instr.smov o)) o.of_bits19
theorem sleaR (o : OpR) : Statement (.sleaR o) := fun _ h => Option.some.inj h ▸ congrArg (fun o => some (Instr.sleaR o)) o.of_bits19
theorem spopc (o : OpR) : Statement (.spopc o) := fun _ h => Option.some.inj h ▸ congrArg (fun o => some (Instr.spopc o)) o.of_bits19
theorem sclz (o : OpR) : Statement (.sclz o) := fun _ h => Option.some.inj h ▸ congrArg (fun o => some (Instr.sclz o)) o.of_bits19
theorem sbrev (o : OpR) : Statement (.sbrev o) := fun _ h => Option.some.inj h ▸ congrArg (fun o => some (Instr.sbrev o)) o.of_bits19
theorem saddI (o : OpI) : Statement (.saddI o) := fun _ h => Option.some.inj h ▸ congrArg (fun o => some (Instr.saddI o)) o.of_bits19
theorem smulI (o : OpI) : Statement (.smulI o) := fun _ h => Option.some.inj h ▸ congrArg (fun o => some (Instr.smulI o)) o.of_bits19
theorem sandI (o : OpI) : Statement (.sandI o) := fun _ h => Option.some.inj h ▸ congrArg (fun o => some (Instr.sandI o)) o.of_bits19
theorem sorI (o : OpI) : Statement (.sorI o) := fun _ h => Option.some.inj h ▸ congrArg (fun o => some (Instr.sorI o)) o.of_bits19
theorem sxorI (o : OpI) : Statement (.sxorI o) := fun _ h => Option.some.inj h ▸ congrArg (fun o => some (Instr.sxorI o)) o.of_bits19
theorem sshlI (o : OpI) : Statement (.sshlI o) := fun _ h => Option.some.inj h ▸ congrArg (fun o => some (Instr.sshlI o)) o.of_bits19
theorem sshrI (o : OpI) : Statement (.sshrI o) := fun _ h => Option.some.inj h ▸ congrArg (fun o => some (Instr.sshrI o)) o.of_bits19
theorem ssraI (o : OpI) : Statement (.ssraI o) := fun _ h => Option.some.inj h ▸ congrArg (fun o => some (Instr.ssraI o)) o.of_bits19
theorem scmpI (o : OpI) : Statement (.scmpI o) := fun _ h => Option.some.inj h ▸ congrArg (fun o => some (Instr.scmpI o)) o.of_bits19
theorem sli (o : OpL) : Statement (.sli o) := fun _ h => Option.some.inj h ▸ congrArg (fun o => some (Instr.sli o)) o.of_bits19
theorem br (o : OpJ) : Statement (.br o) := fun _ h => Option.some.inj h ▸ congrArg (fun o => some (Instr.br o)) o.of_bits19
theorem brc (o : OpC) : Statement (.brc o) := fun _ h => Option.some.inj h ▸ congrArg (fun o => some (Instr.brc o)) o.of_bits19
theorem brv (o : OpC) : Statement (.brv o) := fun _ h => Option.some.inj h ▸ congrArg (fun o => some (Instr.brv o)) o.of_bits19
theorem rcv (o : OpJ) : Statement (.rcv o) := fun _ h => Option.some.inj h ▸ congrArg (fun o => some (Instr.rcv o)) o.of_bits19
theorem call (o : OpJ) : Statement (.call o) := fun _ h => Option.some.inj h ▸ congrArg (fun o => some (Instr.call o)) o.of_bits19
theorem ret (o : OpR) : Statement (.ret o) := fun _ h => Option.some.inj h ▸ congrArg (fun o => some (Instr.ret o)) o.of_bits19
theorem jmpi (o : OpR) : Statement (.jmpi o) := fun _ h => Option.some.inj h ▸ congrArg (fun o => some (Instr.jmpi o)) o.of_bits19
theorem mfs (o : OpL) : Statement (.mfs o) := fun _ h => Option.some.inj h ▸ congrArg (fun o => some (Instr.mfs o)) o.of_bits19
theorem mts (o : OpL) : Statement (.mts o) := fun _ h => Option.some.inj h ▸ congrArg (fun o => some (Instr.mts o)) o.of_bits19
theorem enq (o : OpR) : Statement (.enq o) := fun _ h => Option.some.inj h ▸ congrArg (fun o => some (Instr.enq o)) o.of_bits19
theorem exit (o : OpL) : Statement (.exit o) := fun _ h => Option.some.inj h ▸ congrArg (fun o => some (Instr.exit o)) o.of_bits19
theorem sminI (o : OpI) : Statement (.sminI o) := fun _ h => Option.some.inj h ▸ congrArg (fun o => some (Instr.sminI o)) o.of_bits19
theorem smaxI (o : OpI) : Statement (.smaxI o) := fun _ h => Option.some.inj h ▸ congrArg (fun o => some (Instr.smaxI o)) o.of_bits19
theorem sleaI (o : OpI) : Statement (.sleaI o) := fun _ h => Option.some.inj h ▸ congrArg (fun o => some (Instr.sleaI o)) o.of_bits19
theorem vadd (o : OpR) : Statement (.vadd o) := fun _ h => Option.some.inj h ▸ congrArg (fun o => some (Instr.vadd o)) o.of_bits19
theorem vsub (o : OpR) : Statement (.vsub o) := fun _ h => Option.some.inj h ▸ congrArg (fun o => some (Instr.vsub o)) o.of_bits19
theorem vmul (o : OpR) : Statement (.vmul o) := fun _ h => Option.some.inj h ▸ congrArg (fun o => some (Instr.vmul o)) o.of_bits19
theorem vfma (o : OpR) : Statement (.vfma o) := fun _ h => Option.some.inj h ▸ congrArg (fun o => some (Instr.vfma o)) o.of_bits19
theorem vneg (o : OpR) : Statement (.vneg o) := fun _ h => Option.some.inj h ▸ congrArg (fun o => some (Instr.vneg o)) o.of_bits19
theorem vabs (o : OpR) : Statement (.vabs o) := fun _ h => Option.some.inj h ▸ congrArg (fun o => some (Instr.vabs o)) o.of_bits19
theorem vmin (o : OpR) : Statement (.vmin o) := fun _ h => Option.some.inj h ▸ congrArg (fun o => some (Instr.vmin o)) o.of_bits19
theorem vmax (o : OpR) : Statement (.vmax o) := fun _ h => Option.some.inj h ▸ congrArg (fun o => some (Instr.vmax o)) o.of_bits19
theorem vdiv (o : OpR) : Statement (.vdiv o) := fun _ h => Option.some.inj h ▸ congrArg (fun o => some (Instr.vdiv o)) o.of_bits19
theorem vsqrt (o : OpR) : Statement (.vsqrt o) := fun _ h => Option.some.inj h ▸ congrArg (fun o => some (Instr.vsqrt o)) o.of_bits19
theorem vrcp (o : OpR) : Statement (.vrcp o) := fun _ h => Option.some.inj h ▸ congrArg (fun o => some (Instr.vrcp o)) o.of_bits19
theorem vrsq (o : OpR) : Statement (.vrsq o) := fun _ h => Option.some.inj h ▸ congrArg (fun o => some (Instr.vrsq o)) o.of_bits19
theorem vexp2 (o : OpR) : Statement (.vexp2 o) := fun _ h => Option.some.inj h ▸ congrArg (fun o => some (Instr.vexp2 o)) o.of_bits19
theorem vlog2 (o : OpR) : Statement (.vlog2 o) := fun _ h => Option.some.inj h ▸ congrArg (fun o => some (Instr.vlog2 o)) o.of_bits19
theorem vscpi (o : OpR) : Statement (.vscpi o) := fun _ h => Option.some.inj h ▸ congrArg (fun o => some (Instr.vscpi o)) o.of_bits19
theorem vcmul (o : OpR) : Statement (.vcmul o) := fun _ h => Option.some.inj h ▸ congrArg (fun o => some (Instr.vcmul o)) o.of_bits19
theorem vcfma (o : OpR) : Statement (.vcfma o) := fun _ h => Option.some.inj h ▸ congrArg (fun o => some (Instr.vcfma o)) o.of_bits19
theorem vbfly (o : OpR) : Statement (.vbfly o) := fun _ h => Option.some.inj h ▸ congrArg (fun o => some (Instr.vbfly o)) o.of_bits19
theorem vtwid (o : OpR) : Statement (.vtwid o) := fun _ h => Option.some.inj h ▸ congrArg (fun o => some (Instr.vtwid o)) o.of_bits19
theorem vcvtR (o : OpR) : Statement (.vcvtR o) := fun _ h => Option.some.inj h ▸ congrArg (fun o => some (Instr.vcvtR o)) o.of_bits19
theorem vqnt (o : OpR) : Statement (.vqnt o) := fun _ h => Option.some.inj h ▸ congrArg (fun o => some (Instr.vqnt o)) o.of_bits19
theorem vcvtI (o : OpI) : Statement (.vcvtI o) := fun _ h => Option.some.inj h ▸ congrArg (fun o => some (Instr.vcvtI o)) o.of_bits19
theorem vtagI (o : OpI) : Statement (.vtagI o) := fun _ h => Option.some.inj h ▸ congrArg (fun o => some (Instr.vtagI o)) o.of_bits19
theorem viaddR (o : OpR) : Statement (.viaddR o) := fun _ h => Option.some.inj h ▸ congrArg (fun o => some (Instr.viaddR o)) o.of_bits19
theorem visub (o : OpR) : Statement (.visub o) := fun _ h => Option.some.inj h ▸ congrArg (fun o => some (Instr.visub o)) o.of_bits19
theorem vimulR (o : OpR) : Statement (.vimulR o) := fun _ h => Option.some.inj h ▸ congrArg (fun o => some (Instr.vimulR o)) o.of_bits19
theorem vimulh (o : OpR) : Statement (.vimulh o) := fun _ h => Option.some.inj h ▸ congrArg (fun o => some (Instr.vimulh o)) o.of_bits19
theorem vifma (o : OpR) : Statement (.vifma o) := fun _ h => Option.some.inj h ▸ congrArg (fun o => some (Instr.vifma o)) o.of_bits19
theorem vandR (o : OpR) : Statement (.vandR o) := fun _ h => Option.some.inj h ▸ congrArg (fun o => some (Instr.vandR o)) o.of_bits19
theorem vorR (o : OpR) : Statement (.vorR o) := fun _ h => Option.some.inj h ▸ congrArg (fun o => some (Instr.vorR o)) o.of_bits19
theorem vxorR (o : OpR) : Statement (.vxorR o) := fun _ h => Option.some.inj h ▸ congrArg (fun o => some (Instr.vxorR o)) o.of_bits19
theorem vshlR (o : OpR) : Statement (.vshlR o) := fun _ h => Option.some.inj h ▸ congrArg (fun o => some (Instr.vshlR o)) o.of_bits19
theorem vshrR (o : OpR) : Statement (.vshrR o) := fun _ h => Option.some.inj h ▸ congrArg (fun o => some (Instr.vshrR o)) o.of_bits19
theorem vsraR (o : OpR) : Statement (.vsraR o) := fun _ h => Option.some.inj h ▸ congrArg (fun o => some (Instr.vsraR o)) o.of_bits19
theorem viminR (o : OpR) : Statement (.viminR o) := fun _ h => Option.some.inj h ▸ congrArg (fun o => some (Instr.viminR o)) o.of_bits19
theorem vimaxR (o : OpR) : Statement (.vimaxR o) := fun _ h => Option.some.inj h ▸ congrArg (fun o => some (Instr.vimaxR o)) o.of_bits19
theorem viminI (o : OpI) : Statement (.viminI o) := fun _ h => Option.some.inj h ▸ congrArg (fun o => some (Instr.viminI o)) o.of_bits19
theorem vimaxI (o : OpI) : Statement (.vimaxI o) := fun _ h => Option.some.inj h ▸ congrArg (fun o => some (Instr.vimaxI o)) o.of_bits19
theorem vimulI (o : OpI) : Statement (.vimulI o) := fun _ h => Option.some.inj h ▸ congrArg (fun o => some (Instr.vimulI o)) o.of_bits19
theorem viaddI (o : OpI) : Statement (.viaddI o) := fun _ h => Option.some.inj h ▸ congrArg (fun o => some (Instr.viaddI o)) o.of_bits19
theorem vandI (o : OpI) : Statement (.vandI o) := fun _ h => Option.some.inj h ▸ congrArg (fun o => some (Instr.vandI o)) o.of_bits19
theorem vorI (o : OpI) : Statement (.vorI o) := fun _ h => Option.some.inj h ▸ congrArg (fun o => some (Instr.vorI o)) o.of_bits19
theorem vxorI (o : OpI) : Statement (.vxorI o) := fun _ h => Option.some.inj h ▸ congrArg (fun o => some (Instr.vxorI o)) o.of_bits19
theorem vshlI (o : OpI) : Statement (.vshlI o) := fun _ h => Option.some.inj h ▸ congrArg (fun o => some (Instr.vshlI o)) o.of_bits19
theorem vshrI (o : OpI) : Statement (.vshrI o) := fun _ h => Option.some.inj h ▸ congrArg (fun o => some (Instr.vshrI o)) o.of_bits19
theorem vsraI (o : OpI) : Statement (.vsraI o) := fun _ h => Option.some.inj h ▸ congrArg (fun o => some (Instr.vsraI o)) o.of_bits19
theorem vcmpR (o : OpR) : Statement (.vcmpR o) := fun _ h => Option.some.inj h ▸ congrArg (fun o => some (Instr.vcmpR o)) o.of_bits19
theorem vsel (o : OpR) : Statement (.vsel o) := fun _ h => Option.some.inj h ▸ congrArg (fun o => some (Instr.vsel o)) o.of_bits19
theorem vmovR (o : OpR) : Statement (.vmovR o) := fun _ h => Option.some.inj h ▸ congrArg (fun o => some (Instr.vmovR o)) o.of_bits19
theorem vbcastR (o : OpR) : Statement (.vbcastR o) := fun _ h => Option.some.inj h ▸ congrArg (fun o => some (Instr.vbcastR o)) o.of_bits19
theorem vlane (o : OpR) : Statement (.vlane o) := fun _ h => Option.some.inj h ▸ congrArg (fun o => some (Instr.vlane o)) o.of_bits19
theorem vshflR (o : OpR) : Statement (.vshflR o) := fun _ h => Option.some.inj h ▸ congrArg (fun o => some (Instr.vshflR o)) o.of_bits19
theorem vperm (o : OpR) : Statement (.vperm o) := fun _ h => Option.some.inj h ▸ congrArg (fun o => some (Instr.vperm o)) o.of_bits19
theorem vscan (o : OpR) : Statement (.vscan o) := fun _ h => Option.some.inj h ▸ congrArg (fun o => some (Instr.vscan o)) o.of_bits19
theorem vred (o : OpR) : Statement (.vred o) := fun _ h => Option.some.inj h ▸ congrArg (fun o => some (Instr.vred o)) o.of_bits19
theorem vpopc (o : OpR) : Statement (.vpopc o) := fun _ h => Option.some.inj h ▸ congrArg (fun o => some (Instr.vpopc o)) o.of_bits19
theorem vclz (o : OpR) : Statement (.vclz o) := fun _ h => Option.some.inj h ▸ congrArg (fun o => some (Instr.vclz o)) o.of_bits19
theorem vtagR (o : OpR) : Statement (.vtagR o) := fun _ h => Option.some.inj h ▸ congrArg (fun o => some (Instr.vtagR o)) o.of_bits19
theorem vcmpI (o : OpI) : Statement (.vcmpI o) := fun _ h => Option.some.inj h ▸ congrArg (fun o => some (Instr.vcmpI o)) o.of_bits19
theorem vmovL (o : OpL) : Statement (.vmovL o) := fun _ h => Option.some.inj h ▸ congrArg (fun o => some (Instr.vmovL o)) o.of_bits19
theorem vbcastI (o : OpI) : Statement (.vbcastI o) := fun _ h => Option.some.inj h ▸ congrArg (fun o => some (Instr.vbcastI o)) o.of_bits19
theorem vshflI (o : OpI) : Statement (.vshflI o) := fun _ h => Option.some.inj h ▸ congrArg (fun o => some (Instr.vshflI o)) o.of_bits19
theorem kand (o : OpR) : Statement (.kand o) := fun _ h => Option.some.inj h ▸ congrArg (fun o => some (Instr.kand o)) o.of_bits19
theorem kor (o : OpR) : Statement (.kor o) := fun _ h => Option.some.inj h ▸ congrArg (fun o => some (Instr.kor o)) o.of_bits19
theorem kxor (o : OpR) : Statement (.kxor o) := fun _ h => Option.some.inj h ▸ congrArg (fun o => some (Instr.kxor o)) o.of_bits19
theorem knot (o : OpR) : Statement (.knot o) := fun _ h => Option.some.inj h ▸ congrArg (fun o => some (Instr.knot o)) o.of_bits19
theorem kpopc (o : OpR) : Statement (.kpopc o) := fun _ h => Option.some.inj h ▸ congrArg (fun o => some (Instr.kpopc o)) o.of_bits19
theorem kmovR (o : OpR) : Statement (.kmovR o) := fun _ h => Option.some.inj h ▸ congrArg (fun o => some (Instr.kmovR o)) o.of_bits19
theorem kmovL (o : OpL) : Statement (.kmovL o) := fun _ h => Option.some.inj h ▸ congrArg (fun o => some (Instr.kmovL o)) o.of_bits19
theorem ldM (o : OpM) : Statement (.ldM o) := fun _ h => Option.some.inj h ▸ congrArg (fun o => some (Instr.ldM o)) o.of_bits19
theorem stM (o : OpM) : Statement (.stM o) := fun _ h => Option.some.inj h ▸ congrArg (fun o => some (Instr.stM o)) o.of_bits19
theorem ldsM (o : OpM) : Statement (.ldsM o) := fun _ h => Option.some.inj h ▸ congrArg (fun o => some (Instr.ldsM o)) o.of_bits19
theorem stsM (o : OpM) : Statement (.stsM o) := fun _ h => Option.some.inj h ▸ congrArg (fun o => some (Instr.stsM o)) o.of_bits19
theorem ldu (o : OpN) : Statement (.ldu o) := fun _ h => Option.some.inj h ▸ congrArg (fun o => some (Instr.ldu o)) o.of_bits19
theorem atmM (o : OpM) : Statement (.atmM o) := fun _ h => Option.some.inj h ▸ congrArg (fun o => some (Instr.atmM o)) o.of_bits19
theorem xaddM (o : OpM) : Statement (.xaddM o) := fun _ h => Option.some.inj h ▸ congrArg (fun o => some (Instr.xaddM o)) o.of_bits19
theorem xrdM (o : OpM) : Statement (.xrdM o) := fun _ h => Option.some.inj h ▸ congrArg (fun o => some (Instr.xrdM o)) o.of_bits19
theorem xclr (o : OpM) : Statement (.xclr o) := fun _ h => Option.some.inj h ▸ congrArg (fun o => some (Instr.xclr o)) o.of_bits19
theorem btl (o : OpR) : Statement (.btl o) := fun _ h => Option.some.inj h ▸ congrArg (fun o => some (Instr.btl o)) o.of_bits19
theorem btinv (o : OpR) : Statement (.btinv o) := fun _ h => Option.some.inj h ▸ congrArg (fun o => some (Instr.btinv o)) o.of_bits19
theorem classR (o : OpR) : Statement (.classR o) := fun _ h => Option.some.inj h ▸ congrArg (fun o => some (Instr.classR o)) o.of_bits19
theorem pfhM (o : OpM) : Statement (.pfhM o) := fun _ h => Option.some.inj h ▸ congrArg (fun o => some (Instr.pfhM o)) o.of_bits19
theorem send (o : OpR) : Statement (.send o) := fun _ h => Option.some.inj h ▸ congrArg (fun o => some (Instr.send o)) o.of_bits19
theorem rpop (o : OpR) : Statement (.rpop o) := fun _ h => Option.some.inj h ▸ congrArg (fun o => some (Instr.rpop o)) o.of_bits19
theorem rwait (o : OpR) : Statement (.rwait o) := fun _ h => Option.some.inj h ▸ congrArg (fun o => some (Instr.rwait o)) o.of_bits19
theorem ldN (o : OpN) : Statement (.ldN o) := fun _ h => Option.some.inj h ▸ congrArg (fun o => some (Instr.ldN o)) o.of_bits19
theorem stN (o : OpN) : Statement (.stN o) := fun _ h => Option.some.inj h ▸ congrArg (fun o => some (Instr.stN o)) o.of_bits19
theorem ldsN (o : OpN) : Statement (.ldsN o) := fun _ h => Option.some.inj h ▸ congrArg (fun o => some (Instr.ldsN o)) o.of_bits19
theorem stsN (o : OpN) : Statement (.stsN o) := fun _ h => Option.some.inj h ▸ congrArg (fun o => some (Instr.stsN o)) o.of_bits19
theorem atmN (o : OpN) : Statement (.atmN o) := fun _ h => Option.some.inj h ▸ congrArg (fun o => some (Instr.atmN o)) o.of_bits19
theorem pfhN (o : OpN) : Statement (.pfhN o) := fun _ h => Option.some.inj h ▸ congrArg (fun o => some (Instr.pfhN o)) o.of_bits19
theorem classI (o : OpI) : Statement (.classI o) := fun _ h => Option.some.inj h ▸ congrArg (fun o => some (Instr.classI o)) o.of_bits19
theorem xaddN (o : OpN) : Statement (.xaddN o) := fun _ h => Option.some.inj h ▸ congrArg (fun o => some (Instr.xaddN o)) o.of_bits19
theorem xrdN (o : OpN) : Statement (.xrdN o) := fun _ h => Option.some.inj h ▸ congrArg (fun o => some (Instr.xrdN o)) o.of_bits19
theorem ldshape (o : OpR) : Statement (.ldshape o) := fun _ h => Option.some.inj h ▸ congrArg (fun o => some (Instr.ldshape o)) o.of_bits19
theorem stshape (o : OpR) : Statement (.stshape o) := fun _ h => Option.some.inj h ▸ congrArg (fun o => some (Instr.stshape o)) o.of_bits19
theorem cpyR (o : OpR) : Statement (.cpyR o) := fun _ h => Option.some.inj h ▸ congrArg (fun o => some (Instr.cpyR o)) o.of_bits19
theorem cpym (o : OpR) : Statement (.cpym o) := fun _ h => Option.some.inj h ▸ congrArg (fun o => some (Instr.cpym o)) o.of_bits19
theorem shufR (o : OpR) : Statement (.shufR o) := fun _ h => Option.some.inj h ▸ congrArg (fun o => some (Instr.shufR o)) o.of_bits19
theorem cpyI (o : OpI) : Statement (.cpyI o) := fun _ h => Option.some.inj h ▸ congrArg (fun o => some (Instr.cpyI o)) o.of_bits19
theorem shufI (o : OpI) : Statement (.shufI o) := fun _ h => Option.some.inj h ▸ congrArg (fun o => some (Instr.shufI o)) o.of_bits19
theorem mma (o : OpR) : Statement (.mma o) := fun _ h => Option.some.inj h ▸ congrArg (fun o => some (Instr.mma o)) o.of_bits19
theorem mscl (o : OpR) : Statement (.mscl o) := fun _ h => Option.some.inj h ▸ congrArg (fun o => some (Instr.mscl o)) o.of_bits19
theorem mrdR (o : OpR) : Statement (.mrdR o) := fun _ h => Option.some.inj h ▸ congrArg (fun o => some (Instr.mrdR o)) o.of_bits19
theorem mwrR (o : OpR) : Statement (.mwrR o) := fun _ h => Option.some.inj h ▸ congrArg (fun o => some (Instr.mwrR o)) o.of_bits19
theorem mst (o : OpR) : Statement (.mst o) := fun _ h => Option.some.inj h ▸ congrArg (fun o => some (Instr.mst o)) o.of_bits19
theorem mzero (o : OpR) : Statement (.mzero o) := fun _ h => Option.some.inj h ▸ congrArg (fun o => some (Instr.mzero o)) o.of_bits19
theorem mprog (o : OpR) : Statement (.mprog o) := fun _ h => Option.some.inj h ▸ congrArg (fun o => some (Instr.mprog o)) o.of_bits19
theorem mrdI (o : OpI) : Statement (.mrdI o) := fun _ h => Option.some.inj h ▸ congrArg (fun o => some (Instr.mrdI o)) o.of_bits19
theorem mwrI (o : OpI) : Statement (.mwrI o) := fun _ h => Option.some.inj h ▸ congrArg (fun o => some (Instr.mwrI o)) o.of_bits19
theorem tsbind (o : OpR) : Statement (.tsbind o) := fun _ h => Option.some.inj h ▸ congrArg (fun o => some (Instr.tsbind o)) o.of_bits19
theorem tsdesc (o : OpR) : Statement (.tsdesc o) := fun _ h => Option.some.inj h ▸ congrArg (fun o => some (Instr.tsdesc o)) o.of_bits19
theorem tsexp (o : OpR) : Statement (.tsexp o) := fun _ h => Option.some.inj h ▸ congrArg (fun o => some (Instr.tsexp o)) o.of_bits19
theorem tsback (o : OpR) : Statement (.tsback o) := fun _ h => Option.some.inj h ▸ congrArg (fun o => some (Instr.tsback o)) o.of_bits19
theorem tsleaf (o : OpR) : Statement (.tsleaf o) := fun _ h => Option.some.inj h ▸ congrArg (fun o => some (Instr.tsleaf o)) o.of_bits19
theorem tsroot (o : OpR) : Statement (.tsroot o) := fun _ h => Option.some.inj h ▸ congrArg (fun o => some (Instr.tsroot o)) o.of_bits19
theorem tsstat (o : OpR) : Statement (.tsstat o) := fun _ h => Option.some.inj h ▸ congrArg (fun o => some (Instr.tsstat o)) o.of_bits19
theorem cwsigR (o : OpR) : Statement (.cwsigR o) := fun _ h => Option.some.inj h ▸ congrArg (fun o => some (Instr.cwsigR o)) o.of_bits19
theorem cwwaitR (o : OpR) : Statement (.cwwaitR o) := fun _ h => Option.some.inj h ▸ congrArg (fun o => some (Instr.cwwaitR o)) o.of_bits19
theorem cwrd (o : OpR) : Statement (.cwrd o) := fun _ h => Option.some.inj h ▸ congrArg (fun o => some (Instr.cwrd o)) o.of_bits19
theorem cwset (o : OpR) : Statement (.cwset o) := fun _ h => Option.some.inj h ▸ congrArg (fun o => some (Instr.cwset o)) o.of_bits19
theorem gnew (o : OpR) : Statement (.gnew o) := fun _ h => Option.some.inj h ▸ congrArg (fun o => some (Instr.gnew o)) o.of_bits19
theorem gjoin (o : OpR) : Statement (.gjoin o) := fun _ h => Option.some.inj h ▸ congrArg (fun o => some (Instr.gjoin o)) o.of_bits19
theorem gleave (o : OpR) : Statement (.gleave o) := fun _ h => Option.some.inj h ▸ congrArg (fun o => some (Instr.gleave o)) o.of_bits19
theorem gbar (o : OpR) : Statement (.gbar o) := fun _ h => Option.some.inj h ▸ congrArg (fun o => some (Instr.gbar o)) o.of_bits19
theorem gvote (o : OpR) : Statement (.gvote o) := fun _ h => Option.some.inj h ▸ congrArg (fun o => some (Instr.gvote o)) o.of_bits19
theorem gred (o : OpR) : Statement (.gred o) := fun _ h => Option.some.inj h ▸ congrArg (fun o => some (Instr.gred o)) o.of_bits19
theorem gstat (o : OpR) : Statement (.gstat o) := fun _ h => Option.some.inj h ▸ congrArg (fun o => some (Instr.gstat o)) o.of_bits19
theorem gfree (o : OpR) : Statement (.gfree o) := fun _ h => Option.some.inj h ▸ congrArg (fun o => some (Instr.gfree o)) o.of_bits19
theorem cwsigI (o : OpI) : Statement (.cwsigI o) := fun _ h => Option.some.inj h ▸ congrArg (fun o => some (Instr.cwsigI o)) o.of_bits19
theorem cwwaitI (o : OpI) : Statement (.cwwaitI o) := fun _ h => Option.some.inj h ▸ congrArg (fun o => some (Instr.cwwaitI o)) o.of_bits19
theorem trapL (o : OpL) : Statement (.trapL o) := fun _ h => Option.some.inj h ▸ congrArg (fun o => some (Instr.trapL o)) o.of_bits19
theorem tret (o : OpR) : Statement (.tret o) := fun _ h => Option.some.inj h ▸ congrArg (fun o => some (Instr.tret o)) o.of_bits19
theorem region (o : OpG) : Statement (.region o) := fun _ h => Option.some.inj h ▸ congrArg (fun o => some (Instr.region o)) o.of_bits19
theorem pgsupply (o : OpR) : Statement (.pgsupply o) := fun _ h => Option.some.inj h ▸ congrArg (fun o => some (Instr.pgsupply o)) o.of_bits19
theorem bkpt (o : OpL) : Statement (.bkpt o) := fun _ h => Option.some.inj h ▸ congrArg (fun o => some (Instr.bkpt o)) o.of_bits19
theorem sleep (o : OpI) : Statement (.sleep o) := fun _ h => Option.some.inj h ▸ congrArg (fun o => some (Instr.sleep o)) o.of_bits19
theorem mflog (o : OpR) : Statement (.mflog o) := fun _ h => Option.some.inj h ▸ congrArg (fun o => some (Instr.mflog o)) o.of_bits19
theorem trapR (o : OpR) : Statement (.trapR o) := fun _ h => Option.some.inj h ▸ congrArg (fun o => some (Instr.trapR o)) o.of_bits19
theorem coreRetirement : ∀ a, Statement (.coreRetirement a) := by intros; intro _ h; cases h
theorem hostPortLinkChange : ∀ a b c, Statement (.hostPortLinkChange a b c) := by intros; intro _ h; cases h
theorem ageingInterval : ∀ a, Statement (.ageingInterval a) := by intros; intro _ h; cases h
theorem debugPortMemoryAccess : ∀ a b, Statement (.debugPortMemoryAccess a b) := by intros; intro _ h; cases h
theorem mopBadArg : ∀ a, Statement (.mopBadArg a) := by intros; intro _ h; cases h
theorem mbcmdBadCmd : Statement (.mbcmdBadCmd) := fun _ h => nomatch h

end Sys2Proof.Laws.Encoding
end

