-- ==== Sys2Proof/Tests/Slice0.lean ====
section
/-! SUPPORT. Tests: small states and, for each statement, states and operands that meet its hypotheses; the decoding of one word of
every opcode; ill-formed instructions, one for each check; and words run on small states with the results that the spec's examples
give. -/

set_option maxRecDepth 100000
namespace Sys2Proof.Tests
open Sys2Proof Sys2Proof.Machine

/-! ### A small state: one warp on core 0, at packet 65536, with lane 0 active. -/

/-- The state in which the fragment of a fresh warp has its word in focus, with lane 0 active; `v` are its vector lanes and `r` its
scalar registers. -/
def one (v : Tab Lane) (r : Tab Word64) : State :=
  let s := (State.reset.withFetchWord 32 0).focusOn 0 0 0
  let s := s.setW { s.w with vregs := v, sregs := r }
  s.setF { s.f with mask := 1 }

/-- Lane 0 of registers 0 to 11: zero bits under the tags of an f64 pair, an f32, a complex pair, an i32, a bf16 pair. -/
def mixed : State :=
  one [(0, ⟨0, .f64l⟩), (32, ⟨0, .f64h⟩), (64, ⟨0x3F800000, .f32⟩), (96, ⟨0, .f32⟩), (128, ⟨0, .cpx32⟩), (160, ⟨0, .f32⟩),
       (192, ⟨7, .i32⟩), (224, ⟨0, .bf16x2⟩), (256, ⟨0, .x32⟩), (288, ⟨0, .e4m3x4⟩)]
    [(1, 5), (2, 0xFFFFFFFFFFFFFFFF), (3, 65536), (4, 12)]

theorem on_lane_zero {P : Nat → Prop} {s : State} (h : s.active = 1#32) (h0 : P 0) : ∀ i, s.active.getLsbD i = true → P i := by
  intro i hi
  rw [h] at hi
  have : i = 0 := by simpa using hi
  exact this ▸ h0

theorem holds_zero {s : State} {t : Tag} {r : Nat} (h : s.active = 1#32) (ht : t ≠ .empty) (h0 : (s.V r 0).tag = t) : s.Holds t r :=
  ⟨ht, on_lane_zero h h0⟩

theorem tagged_plain {s : State} {t : Tag} {r : Nat} (h : s.Holds t r) (hp : t.partner = none) : s.Tagged t r :=
  ⟨h, fun p hq => by simp [hp] at hq⟩

theorem tagged_pair {s : State} {t p : Tag} {r : Nat} (ha : s.active = 1#32) (h : s.Holds t r) (hp : t.partner = some p)
    (hr : r % 2 = 0 ∧ r + 1 < s.vregs) (h0 : (s.V (r + 1) 0).tag = p) : s.Tagged t r :=
  ⟨h, fun q hq => by
    have : p = q := by simpa [hp] using hq
    exact this ▸ ⟨hr.1, hr.2, on_lane_zero ha h0⟩⟩

theorem not_uniform {s : State} {rs : List Nat} : s.Uniform false rs := fun h => by cases h

theorem dest_plain {s : State} {t : Tag} {d : Nat} (h : t.partner = none) : s.Dest t d := fun k => by simp [h] at k

theorem sources_one {s : State} {t : Tag} {a : Nat} (ha : s.active = 1#32) (h : s.Tagged t a) : s.Sources false t [a] :=
  ⟨by rw [ha]; decide, by simpa using h, not_uniform⟩

theorem sources_same {s : State} {t : Tag} {a : Nat} {rs : List Nat} (ha : s.active = 1#32) (h : s.Tagged t a)
    (hr : ∀ r ∈ rs, r = a) : s.Sources false t rs :=
  ⟨by rw [ha]; decide, fun r hm => hr r hm ▸ h, not_uniform⟩

/-- All 32 lanes active, and four registers of f32 zeros. -/
def full : State :=
  let s := one ((List.range 128).map (fun k => (k, ⟨0, .f32⟩))) []
  s.setF { s.f with mask := BitVec.allOnes 32 }

/-- Lanes 0 and 1 active, register 6 holding 0 and 1 in them. -/
def two : State :=
  let s := one [(192, ⟨0, .i32⟩), (193, ⟨1, .i32⟩)] []
  s.setF { s.f with mask := 3 }

/-- `mixed` with a page of Guash memory that may be written behind the TLB, at virtual address 131072, a page of count words at
196608, and one page of scratch. -/
def paged : State :=
  let tlb : Tab TlbEntry := [(1, { leaf := { pa := 65536, x := true } }), (2, { leaf := { pa := 131072, w := true } }),
    (3, { leaf := { pa := 196608, w := true, cnt := true } })]
  let s := mixed.setCore 0 { mixed.core 0 with tlb := tlb }
  let s := s.setW { s.w with sregs := [(1, 5), (3, 131072), (4, 12)] }
  s.setTask 0 { s.task 0 with desc := { (s.task 0).desc with scratch := 1 } }

theorem mixed_active : mixed.active = 1#32 := by decide
theorem mixed_f32 : mixed.Tagged .f32 2 := tagged_plain (holds_zero mixed_active (by decide) (by decide)) rfl
theorem mixed_i32 : mixed.Tagged .i32 6 := tagged_plain (holds_zero mixed_active (by decide) (by decide)) rfl
theorem mixed_x32 : mixed.Tagged .x32 8 := tagged_plain (holds_zero mixed_active (by decide) (by decide)) rfl
theorem mixed_bf16 : mixed.Tagged .bf16x2 7 := tagged_plain (holds_zero mixed_active (by decide) (by decide)) rfl
theorem mixed_f64 : mixed.Tagged .f64l 0 :=
  tagged_pair mixed_active (holds_zero mixed_active (by decide) (by decide)) rfl (by decide) (by decide)
theorem mixed_cpx : mixed.Tagged .cpx32 4 :=
  tagged_pair mixed_active (holds_zero mixed_active (by decide) (by decide)) rfl (by decide) (by decide)

/-! ### Witnesses: a state and operands that meet the hypotheses of each statement, clause by clause. -/

/-- VADD and VSUB on f32 and complex pairs, VMUL and VFMA on f64 pairs, and the like for VMIN, VDIV and the functions. -/
theorem witness_vector_float :
    mixed.Dest .f32 9 ∧ mixed.Sources false .f32 [2, 2, 2] ∧ mixed.Dest .f64l 10 ∧ mixed.Sources false .f64l [0, 0, 0] ∧
    mixed.Sources false .cpx32 [4, 4] ∧ mixed.Sources false .f64l [0] :=
  ⟨dest_plain rfl, sources_same mixed_active mixed_f32 (by simp), fun _ => by decide,
    sources_same mixed_active mixed_f64 (by simp), sources_same mixed_active mixed_cpx (by simp), sources_one mixed_active mixed_f64⟩

theorem witness_scalar :
    (∃ s : State, s.S 1 ≠ 0 ∧ s.S 2 = 0) ∧ (∃ s : State, s.S 1 = BitVec.intMin 64 ∧ s.S 2 = BitVec.allOnes 64) ∧
    (∃ l : OpL, l.ext = []) ∧ (∃ l : OpL, l.ext = [0x800000]) ∧ (∃ l : OpL, l.ext = [0x800000, 0xFFFFFF]) ∧
    (∀ n ∈ List.range 0x0F ++ [0x10, 0x11, 0x12], (OpL.immN { imm := BitVec.ofNat 13 n }) = n) ∧
    (∀ b ∈ [(0 : BitVec 6), 1, 2], ∃ o : OpR, o.b = b) :=
  ⟨⟨one [] [(1, 5)], by decide⟩, ⟨one [] [(1, BitVec.intMin 64), (2, BitVec.allOnes 64)], by decide⟩, ⟨{}, rfl⟩,
    ⟨{ ext := [0x800000] }, rfl⟩, ⟨{ ext := [0x800000, 0xFFFFFF] }, rfl⟩, by decide, fun b _ => ⟨{ b := b }, rfl⟩⟩

/-- VSCPI on f32, VCMUL, VCFMA and VBFLY on complex pairs, VTWID on i32. -/
theorem witness_VectorComplexResults :
    mixed.active ≠ 0 ∧ mixed.Sources false .f32 [2] ∧ mixed.Sources false .cpx32 [4, 4, 4] ∧ mixed.Sources false .i32 [6] :=
  ⟨by rw [mixed_active]; decide, sources_one mixed_active mixed_f32, sources_same mixed_active mixed_cpx (by simp),
    sources_one mixed_active mixed_i32⟩

/-- A conversion of f32 to i32; the second element of a bf16 pair; e4m3 with `.hi`; a register block for VQNT. -/
theorem witness_VectorConversionResults :
    mixed.Sources false .f32 [2] ∧ (0 < Tag.f32.count) ∧ mixed.Sources false .bf16x2 [7] ∧ (1 < Tag.bf16x2.count) ∧
    mixed.Sources false .f32 [2, 2] ∧ mixed.Sources false .e4m3x4 [9] ∧ full.active = BitVec.allOnes 32 ∧
    (∀ j, j < 4 → full.Tagged .f32 (0 + j)) := by
  refine ⟨sources_one mixed_active mixed_f32, by decide, sources_one mixed_active mixed_bf16, by decide,
    sources_same mixed_active mixed_f32 (by simp), sources_one mixed_active
      (tagged_plain (holds_zero mixed_active (by decide) (by decide)) rfl), by decide, fun j hj => ?_⟩
  refine tagged_plain ⟨by decide, fun i hi => ?_⟩ rfl
  have h32 : i < 32 := BitVec.lt_of_getLsbD hi
  have all : ∀ j < 4, ∀ i < 32, (full.V (0 + j) i).tag = .f32 := by decide
  exact all j hj i h32

/-- Integer words on i32; bitwise words on i32 and x32; shifts; VTAG with the greatest tag that it takes; moves, selection and
lane words. -/
theorem witness_vector_integer :
    mixed.Sources false .i32 [6, 6, 6] ∧ mixed.Holds .i32 6 ∧ mixed.Holds .x32 8 ∧ mixed.Sources false .x32 [8] ∧
    (mixed.S 4).toNat = 12 - 0 ∧ (one [] [(4, 11)]).S 4 = 11 ∧ (one [] [(4, 15)]).S 4 = 15 ∧
    ((mixed.S 1).toNat = 5 ∧ 5 < 32) ∧ (mixed.V 6 0).tag ≠ .empty ∧ (mixed.Tagged .f64l 0 ∧ mixed.Uniform false [0, 1, 0, 1]) ∧
    combinable 0 .f32 = true ∧ combinable 5 .i32 = true ∧ combinable 0 .i16x2 = true ∧ mixed.Sources false .f32 [2] ∧ mixed.Dest .f32 9 :=
  ⟨sources_same mixed_active mixed_i32 (by simp), mixed_i32.1, mixed_x32.1, sources_one mixed_active mixed_x32, by decide, by decide,
    by decide, by decide, by decide, ⟨mixed_f64, not_uniform⟩, by decide, by decide, by decide, sources_one mixed_active mixed_f32,
    dest_plain rfl⟩

/-- The masks that the clauses of BRV speak of: no lane taken, all taken, and a split for which an entry is free. -/
theorem witness_VectorBranchResults :
    let o : OpC := { a := 6, cc := 0, imm := 5 }
    let all : OpC := { a := 6, cc := 3, imm := 5 }
    let none : OpC := { a := 6, cc := 2, imm := 5 }
    two.active ≠ 0 ∧ two.Holds .i32 6 ∧ two.active &&& ~~~(1 : BitVec 32) ≠ 0 ∧
    two.f.pc + 12 * BitVec.ofInt 64 o.immI ≠ two.f.pc + 12 ∧ two.splitFor 0 0 0 = some 32 ∧
    (∀ i, i < 32 → (1 : BitVec 32).getLsbD i = (two.active.getLsbD i && (two.V 6 i).val == 0)) ∧
    (∀ i, i < 32 → (3 : BitVec 32).getLsbD i = (two.active.getLsbD i && !(two.V 6 i).val.msb)) ∧
    (∀ i, i < 32 → (0 : BitVec 32).getLsbD i = (two.active.getLsbD i && (two.V 6 i).val.msb)) ∧
    o.cc.toNat < 6 ∧ all.cc.toNat < 6 ∧ none.cc.toNat < 6 := by
  refine ⟨by decide, ⟨by decide, fun i hi => ?_⟩, by decide, by decide, by decide, by decide, by decide, by decide, by decide,
    by decide, by decide⟩
  have h32 : i < 32 := BitVec.lt_of_getLsbD hi
  have all : ∀ i < 32, two.active.getLsbD i = true → (two.V 6 i).tag = .i32 := by decide
  exact all i h32 hi

/-- `mixed` with tokens, the fragment at token 0 of them. -/
def tokened (l : Tab Token) : State :=
  let s := mixed.setW { mixed.w with tokens := l }
  s.setF { s.f with token := some 0 }

/-- A fragment whose last word ends; RCV with the first token free, and with all 16 live; a join that is not met, that is met, and
that waits for lane 1. -/
theorem witness_ReconvergenceResults :
    (∃ (f : Frag) (w : DWord), f.words = [w] ∧ f.groups = []) ∧ (0 ∉ mixed.w.tokens.keys) ∧
    (∀ k, k < 16 → (Tab.find ((List.range 16).map (fun k => (k, ({} : Token)))) k).isSome = true) ∧
    (tokened [(0, { addr := 65548, expect := 1 })]).f.token = some 0 ∧ (tokened [(0, { addr := 65548, expect := 1 })]).f.pc ≠ 65548 ∧
    (tokened [(0, { addr := 65536, expect := 1 })]).f.pc = 65536 ∧ (1 : BitVec 32) &&& ~~~0 &&& ~~~mixed.f.mask = 0 ∧
    (3 : BitVec 32) &&& ~~~0 &&& ~~~mixed.f.mask ≠ 0 ∧ mixed.f.token = none :=
  ⟨⟨{ words := [default] }, default, rfl, rfl⟩, by decide, by decide, by decide, by decide, by decide, by decide, by decide,
    by decide⟩

theorem witness_ExitResults :
    Tab.del mixed.w.frags mixed.focus.frag = [] ∧
    (let s := mixed.setFrag 0 0 32 { mask := 2 }
     Tab.del s.w.frags s.focus.frag ≠ []) := by decide

/-- A trap of class 14 that enters the handler; one in a kernel without a handler, one at depth 2 and one that always ends the
warp; a class 13 trap with DBGEN; TRET at depth 1 with its lanes, without them, and at depth 0. -/
theorem witness_traps :
    let h := mixed.setTask 0 { mixed.task 0 with desc := { (mixed.task 0).desc with trapIdx := 0 } }
    let d := h.setDevice 0 { h.device 0 with dbgen := true }
    let deep := h.setW { h.w with hidden := [{ mask := 1 }, { mask := 1 }] }
    (h.f.stopped = none ∧ h.w.debugParked = none ∧ h.t.desc.trapIdx ≠ 0xFFFFFFFF ∧ h.w.hidden.length < 2 ∧
      (0x380 : BitVec 10) ∉ [(0x303 : BitVec 10), 0x304, 0x30B] ∧ ¬ (0x340 ≤ (0x380 : BitVec 10) ∧ (0x380 : BitVec 10) < 0x380)) ∧
    (mixed.t.desc.trapIdx = 0xFFFFFFFF ∧ 2 ≤ deep.w.hidden.length ∧ (0x303 : BitVec 10) ∈ [(0x303 : BitVec 10), 0x304, 0x30B]) ∧
    ((0x340 : BitVec 10) ≤ 0x340 ∧ (0x37F : BitVec 10) < 0x380 ∧ (d.device d.die).dbgen = true) ∧
    (∀ m ∈ [(1 : BitVec 32), 3], ∃ s : State, s.w.hidden = [{ mask := m }]) ∧ mixed.w.hidden = [] := by
  refine ⟨by decide, by decide, by decide, fun m _ => ⟨mixed.setW { mixed.w with hidden := [{ mask := m }] }, rfl⟩, by decide⟩

/-- CheckTag: an EMPTY lane, two tags, a tag that is not accepted, a second source that does not agree, an odd pair, a pair
without its partner. -/
theorem witness_TagMismatchTraps :
    ((mixed.V 20 0).tag = .empty) ∧ ((mixed.V 6 0).tag = .i32 ∧ mixed.Holds .i32 6) ∧
    (two.setW { two.w with vregs := [(192, ⟨0, .i32⟩), (193, ⟨1, .f32⟩)] }).V 6 1 = ⟨1, .f32⟩ ∧
    (mixed.Tagged .f32 2 ∧ (mixed.V 6 0).tag ≠ .f32) ∧
    (let s := one [(32, ⟨0, .f64l⟩), (64, ⟨0, .f64l⟩)] []
     s.Holds .f64l 1 ∧ s.Holds .f64l 2 ∧ 2 + 1 < s.vregs ∧ (s.V 3 0).tag ≠ .f64h) := by
  have h : (one [(32, ⟨0, .f64l⟩), (64, ⟨0, .f64l⟩)] []).active = 1#32 := by decide
  exact ⟨by decide, ⟨by decide, mixed_i32.1⟩, by decide, ⟨mixed_f32, by decide⟩, holds_zero h (by decide) (by decide),
    holds_zero h (by decide) (by decide), by decide, by decide⟩

/-- A write that has completed by cycle 5 and one that has not, among writes in order. -/
theorem witness_RegisterWritesComplete :
    let w : Warp := { pend := [⟨3, 1, 0, .s 1 7, true⟩, ⟨5, 1, 0, .k 1 3 1, false⟩] }
    w.pend.Pairwise (fun p q => p.precedes q = true) ∧ (∀ q ∈ w.pend, q.precedes ⟨5, 2, 0, .s 1 8, false⟩ = true) ∧ 5 < 6 := by
  decide

theorem witness_RegisterWordsFrame :
    let i : Instr := .saddI { d := 1, a := 2, imm := 1 }
    i.wellFormed = true ∧ opcodePipe 0x16 = some .S ∧ i.opcode = some 0x16 ∧
    Completes (exec i mixed) (fun _ => True) :=
  ⟨by decide, by decide, by decide, _, rfl, by decide, trivial⟩

/-! #### Memory words. -/

theorem some_of {α : Type} {x : Option α} (h : x.isSome = true) : ∃ a, x = some a := Option.isSome_iff_exists.mp h

theorem no_offset {s : State} {r : Nat} (h : (none : Option Nat) = some r) : ∃ t ∈ [Tag.x32, .i32, .n32], s.Holds t r := by cases h

theorem paged_active : paged.active = 1#32 := by decide
theorem paged_f32 : paged.Tagged .f32 2 := tagged_plain (holds_zero paged_active (by decide) (by decide)) rfl
theorem paged_i32 : paged.Tagged .i32 6 := tagged_plain (holds_zero paged_active (by decide) (by decide)) rfl

theorem witness_MemoryAccessResults :
    let a := paged.laneActor 1 0
    a.party = .core 0 ∧ (131072 + 65528 < 2 ^ 57) ∧ (paged.takeFailed a 131072).1 = none ∧
    ((paged.core 0).tlbAt 131072).map (fun e => e.leaf) = some { pa := 131072, w := true } ∧
    (∀ op ∈ [MemOp.read 8, .write 8 5, .atm 0 1 2 3, .xadd 1, .xclr],
      protection { pa := 131072, w := true } 131072 1 op = none) ∧
    protection { pa := 196608, w := true, cnt := true } 196608 1 (.cwAdd 3 false) = none ∧
    (∀ w, (paged.classFor a { pa := 131072, w := true } 131072 w).1 = true) ∧ paged.lineLost 131072 64 = false ∧
    paged.upset = none ∧ paged.shut 0 131072 = none ∧
    -- an access that no line of the L1 answers, and one that a line answers
    (let c := (paged.classFor a { pa := 131072, w := true } 131072 false).2
     c.l1Hit (a.cached { pa := 131072, w := true } (.read 8)) (c.owns a { pa := 131072, w := true }) false 131072 = false) := by
  decide

/-- LD, LDU, ST, ATM, XADD, XRD and XCLR by lane 0 through s3, aligned, and LDS and STS at offset 0 of the window. -/
theorem witness_memory_words :
    let n : OpN := { d := 6, a := 3, w := 4 }
    let f : OpN := { d := 2, a := 3, w := 4 }
    let z : OpN := { d := 6, a := 9, w := 4 }
    paged.Fresh ∧ paged.active ≠ 0 ∧ paged.Addressed (paged.formN n 4 false) 4 (paged.lanesMade true) ∧
    paged.Addressed (paged.formN n 64 false) 64 (paged.lanesMade true) ∧ paged.Addressed (paged.formN z 4 true) 4 (paged.lanesMade true) ∧
    (∃ x, paged.flown false (paged.flight (paged.formN n 4 false) 0 true (fun _ => .read 4)) = some x) ∧
    (∃ x, paged.flown false { paged.flight (paged.formN n 4 false) 1 true (fun _ => .write 4 7) with commits := true } = some x) ∧
    (∃ x, paged.flown false (paged.flight (paged.formN z 4 true) 0 true (fun _ => .read 4)) = some x) ∧
    (∃ x, paged.flown true (paged.flight (paged.formN n 4 false) 2 false (fun _ => .atm 0 1 7 0)) = some x) ∧
    (∃ x, paged.flown true (paged.flight (paged.formN f 64 false) 2 false (fun _ => .xadd 0)) = some x) ∧
    atmAccepts 0 .i32 = true ∧ paged.Tagged .i32 6 ∧ paged.Tagged .f32 2 := by
  refine ⟨⟨by decide, by decide⟩, by rw [paged_active]; decide, ⟨fun _ h => no_offset h, by decide⟩, ⟨fun _ h => no_offset h, by decide⟩,
    ⟨fun _ h => no_offset h, by decide⟩, some_of (by decide), some_of (by decide), some_of (by decide), some_of (by decide),
    some_of (by decide), by decide, paged_i32, paged_f32⟩

/-- A store of four bytes and a load of them go through a leaf of this module's memory. -/
theorem witness_MemoryWordFrame :
    let reqs : List LaneReq := [{ lane := 0, va := 131072, op := .write 4 7 }]
    (∃ x, paged.accessAll 1 true reqs [] = some x) ∧ (∀ r ∈ reqs, r.scr = false) ∧ paged.Plain 1 true reqs ∧
    (paged.touched 1 true reqs = [(131072, 4)]) := by
  refine ⟨some_of (by decide), by decide, ⟨⟨{ pa := 131072, w := true }, by decide, rfl, rfl⟩, ?_⟩, by decide⟩
  split <;> trivial

theorem witness_ScratchAccessResults :
    (∀ p ∈ scratchPages 0 8, p ∈ (paged.wg 0 0).touched → p ∈ (paged.wg 0 0).pinned) ∧ scratchPages 4092 8 = [0, 1] := by decide

/-- BTL outside the address space, without a translation and with one; CLASS over one page that is mapped, over one that is not,
and over a length of 0 and one of more than 1 GiB. -/
theorem witness_TranslationWordResults :
    (2 ^ 57 ≤ ((one [] [(1, 0xFFFFFFFFFFFFFFFF)]).S 1).toNat) ∧ (paged.S 3).toNat < 2 ^ 57 ∧
    (∃ l t, paged.tlbWalk 0 131072 = (.leaf l, t) ∧ l.peer = false) ∧ (∀ l, (paged.tlbWalk 0 (9 * 65536)).1 ≠ .leaf l) ∧
    paged.f.flight = none ∧ paged.focus.lanes = BitVec.allOnes 32 ∧ paged.t.desc.regs = 8 ∧
    Tab.find paged.reclass 2 = none ∧ (∃ n : Nat, 2 ^ 30 < n) := by
  refine ⟨by decide, by decide, ⟨_, _, rfl, rfl⟩, fun l h => ?_, by decide, by decide, by decide, by decide, ⟨_, Nat.lt_succ_self _⟩⟩
  have : (paged.tlbWalk 0 (9 * 65536)).1 = .absent 0 := by decide
  rw [this] at h
  cases h

/-- A workgroup whose window holds the ring header `h` at offset 0, s1 naming the ring from core 0 and s2 offset 0. -/
def ringed (h : Nat) : State :=
  let s := one [(192, ⟨7, .i32⟩)] [(1, 2 ^ 32)]
  let s := s.setWg 0 0 { s.wg 0 0 with scratch := Memory.write [] 0 64 h, touched := [0], pinned := [0] }
  s.setTask 0 { s.task 0 with desc := { (s.task 0).desc with scratch := 1 } }

/-- An empty ring of 2 slots of 32 bytes, one with a message, a full one; a header that lies beyond the window. -/
theorem witness_MessageResults :
    (∀ h ∈ [1 * 2 ^ 64 + 2 * 2 ^ 68, 1 + 1 * 2 ^ 64 + 2 * 2 ^ 68, 2 + 1 * 2 ^ 64 + 2 * 2 ^ 68],
      (Ring.of h).ok 0 4096 = true ∧ 16 + 4 ≤ 16 * (Ring.of h).ssz) ∧ (Ring.of (2 + 1 * 2 ^ 64 + 2 * 2 ^ 68)).held = 2 ∧
    (ringed (1 * 2 ^ 64 + 2 * 2 ^ 68)).RingAt 0 0 0 (Ring.of (1 * 2 ^ 64 + 2 * 2 ^ 68)) ∧
    ((Ring.of (((ringed 0).wg 0 0).scratch.read 0 64)).ok 0 4096 = false ∧ (ringed 0).g.touched = (ringed 0).g.pinned) ∧
    (ringed 0).windowOf 0 0 = 4096 ∧ ((ringed 0).S 1).toNat = 2 ^ 32 ∧ ((ringed 0).wg 0 0).rplc = 1 ∧
    (∀ i, (ringed 0).active.getLsbD i = true → ((ringed 0).V 6 i).tag ≠ .empty) := by
  have hs : (ringed (1 * 2 ^ 64 + 2 * 2 ^ 68)).wg 0 0 = { ((one [] []).wg 0 0) with
      scratch := Memory.write [] 0 64 (1 * 2 ^ 64 + 2 * 2 ^ 68), touched := [0], pinned := [0] } := by decide
  refine ⟨by decide, by decide, ⟨?_, by decide, ?_, by decide⟩, by decide, by decide, by decide, by decide, on_lane_zero (by decide) (by decide)⟩
  · intro p hp
    rw [hs] at hp ⊢
    exact hp
  · have h64 : ((ringed (1 * 2 ^ 64 + 2 * 2 ^ 68)).wg 0 0).scratch.read 0 64 = 1 * 2 ^ 64 + 2 * 2 ^ 68 := by decide
    exact congrArg Ring.of h64.symm

/-- A queue that the host feeds, one that is disabled, one that is full, one whose numbers are used up, and one with room. -/
theorem witness_QueueStepResults :
    let on : Queue := { src := true, en := true, slog := 4 }
    let s (x : Queue) : State := State.reset.setQueue 0 0 x
    ((s {}).queue 0 0).src = false ∧ ((s { src := true }).queue 0 0).en = false ∧
    (let x := (s { on with qtail := 16 }).queue 0 0; (x.qtail + 2 ^ 32 - x.qret) % 2 ^ 32 = 2 ^ x.slog) ∧
    2 ^ 64 - 16 ≤ ((s { on with qnextseq := 2 ^ 64 - 16 }).queue 0 0).qnextseq ∧
    (let x := (s on).queue 0 0; x.src = true ∧ x.en = true ∧ (x.qtail + 2 ^ 32 - x.qret) % 2 ^ 32 ≠ 2 ^ x.slog ∧
      ¬ 2 ^ 64 - 16 ≤ x.qnextseq) := by decide

/-- ENQ of a queue number out of range, and of a packet of one unit in memory; PGSUPPLY of a free entry and of a held one, by
its pager; REGION without a frame, and with one. -/
theorem witness_SystemWordResults :
    31 < ((one [] [(1, 32)]).S 1).toNat ∧ (paged.S 1).toNat ≤ 31 ∧ (paged.S 3).toNat + 16 ≤ 2 ^ 57 ∧
    (∃ n t, paged.commit.access (paged.laneActor 7 (lowLane paged.active)) none 131072 (.read 1) = (.ok n, t) ∧ t.Fresh ∧
      ∃ x, t.flown true { type := 7, single := true, got := [(lenKey, 16 * (n % 16 + 1))], reqs := packetReads 131072 16 } = some x) ∧
    Tab.find (paged.device paged.die).upcalls 0 = none ∧
    (let s := paged.setDevice 0 { paged.device 0 with upcalls := [(0, { va := 131072 })] }
     (Tab.find (s.device s.die).upcalls 0).isSome = true ∧ (match s.readPager s.die 0 7 with
       | (.ok pe, r) => r.t.descAddr == pe.desc
       | _ => false) = true) ∧
    paged.t.desc.frame = 0 ∧ paged.w.hidden = [] ∧ paged.w.frags.length ≤ 1 ∧ paged.w.tokens = [] ∧
    paged.t.desc.holdsPacket 65536 = true ∧ (∃ ws t, paged.fetchWords 65536 3 [] = .inr (ws, t) ∧ t.Fresh) := by
  exact ⟨by decide, by decide, by decide, ⟨_, _, rfl, ⟨by decide, by decide⟩, some_of (by decide)⟩, by decide, by decide, by decide,
    by decide, by decide, by decide, by decide, ⟨_, _, rfl, by decide, by decide⟩⟩

/-- A count word outside the address space, a misaligned one, one on a page that is no count page, and one that answers. -/
theorem witness_CountWordResults :
    2 ^ 57 ≤ ((one [] [(1, 0xFFFFFFFFFFFFFFFF)]).S 1).toNat ∧ (paged.S 4).toNat % 8 ≠ 0 ∧
    (paged.commit.access (paged.laneActor 2 0) none 131072 (.cwAdd 1 false)).1 = .fault 0x19A ∧
    (paged.commit.access (paged.laneActor 2 0) none 196608 (.cwAdd 1 false)).1 = .ok 0 ∧
    (paged.access (paged.laneActor 0 0) none 196608 .cwRead).1 = .ok 0 ∧ paged.addMade = false ∧
    (paged.setW { paged.w with progress := { dmask := 1, pc := paged.f.pc, pos := paged.focus.pos, armed := true } }).addMade = true := by
  decide

/-- A packet from stop 0 to stop 17 takes its hop along x first, and reaches stop 1 at the western input (R241). -/
theorem test_torusHop_x_first :
    ((State.reset.torusSend 0 17 4 [0]).torusHop 0).io.transit.map (fun p => (p.stop, p.input)) = [(1, 1)] := by decide

/-- No entry free, and entry 0 free; a group with this member, without it, and empty. -/
theorem witness_GroupMembershipResults :
    firstFree [] 0 4096 = some 0 ∧ firstFree [0] 0 1 = none ∧
    (∀ m ∈ [[], [paged.memberOf 0 0], [⟨9, 9, 9⟩]],
      let s := paged.setGroup 5 { gen := 3, live := true, members := m }
      (s.group 5).live = true ∧ (s.group 5).gen = 3 ∧ (s.group 5).dev = s.die ∧ (5 + 3 * 4096) % 4096 = 5) := by
  decide

/-- GBAR by the only member of its group, by one of two, and in a phase of another kind; the implicit group of the workgroup. -/
theorem witness_ArrivalResults :
    (∀ m ∈ [[paged.memberOf 0 0], [paged.memberOf 0 0, ⟨9, 9, 9⟩]],
      let s := paged.setGroup 5 { gen := 3, live := true, members := m }
      paged.memberOf 0 0 ∈ s.members (.named 5) ∧ (s.phase (.named 5)).arrivals = [] ∧ (s.phase (.named 5)).kind = none) ∧
    (let s := paged.setGroup 5 { gen := 3, live := true, phase := { kind := some .vote } }
     (s.phase (.named 5)).kind ≠ none ∧ (s.phase (.named 5)).kind ≠ some .bar) ∧
    paged.memberOf 0 0 ∈ paged.members (.wg paged.g.task paged.g.linear) := by
  decide

/-! #### Copies, matrices and trees. -/

/-- `paged` with a page table in which the page at 131072 is mapped to itself, and may be written. -/
def tabled : State :=
  let s := paged.setDevice 0 { paged.device 0 with ptroot := 262144 }
  { s with mem := (s.mem.write 262144 8 (262144 + 1)).write (262144 + 16) 8 (131072 + 7) }

/-- A shape of 16 elements of 16 bytes in a row, from a base. -/
def row (base : Nat) : List Word64 := [BitVec.ofNat 64 base, 4, 16, 0, 16, 0, 0, 0]

/-- `paged` with two copy slots and the shapes h0 and h1, both in memory. -/
def shaped : State :=
  let s := paged.setW { paged.w with sregs := [(3, 131072), (4, 12)], hregs := [(0, some (row 131072)), (1, some (row 135168))] }
  let s := s.setG { s.g with csl := [0, 1] }
  s.setTask 0 { s.task 0 with desc := { (s.task 0).desc with cslots := 2 } }

theorem witness_ShapeShuffleWordResults :
    paged.Fresh ∧ (paged.S 4).toNat % 64 ≠ 0 ∧ (paged.S 3).toNat % 64 = 0 ∧ (paged.S 3).toNat < 2 ^ 57 ∧
    (∃ x, paged.flown false { type := 7, reqs := [{ lane := 0, va := 131072, op := .read 64 }] } = some x) ∧
    (∃ x, paged.flown false { type := 1, commits := true, reqs := [{ lane := 0, va := 131072, op := .write 64 5 }] } = some x) ∧
    shapeFault (row 131072) = none ∧ shapeFault (row (2 ^ 57)) = some 0x1F0 ∧ paged.H 0 = none ∧ (shaped.H 0).isSome = true ∧
    -- a shuffle of four words by their own order, and one of a step that no program may hold
    badStep [0 + 4 * 0 + 2 ^ 16 * 2] = none ∧ badStep [3] = some 0 ∧ paged.window = 4096 ∧
    (∀ k, paged.commit.namedCount paged.engineActor 0 k = k paged.commit) ∧ (paged.core 0).shuffles.length < 16 := by
  exact ⟨⟨by decide, by decide⟩, by decide, by decide, by decide, some_of (by decide), some_of (by decide), by decide, by decide,
    by decide, by decide, by decide, by decide, by decide, fun _ => rfl, by decide⟩

/-- CPY of two shapes in memory that lie apart, of a line of 16 bytes, and CPYM with one handle. -/
theorem witness_CopyWordResults :
    let x : Copy := { src := Shape.of (row 131072), dst := Shape.of (row 135168), origin := [0, 0, 0, 0], it := [16, 1, 1, 1] }
    shaped.H 0 = some (row 131072) ∧ shaped.H 1 = some (row 135168) ∧ shaped.H 2 = none ∧ shaped.t.desc.cslots ≠ 0 ∧
    x.src.esize = x.dst.esize ∧ x.rangeFault 0 1 = none ∧ hullsMeet x.srcHull x.dstHull 0 = false ∧
    (∀ k, shaped.commit.namedCount shaped.engineActor 0 k = k shaped.commit) ∧ shaped.commit.freeCopySlot = some 0 ∧ paged.t.desc.cslots = 0 ∧
    shaped.f.flight = none ∧ shaped.Fresh ∧ (shaped.S 3).toNat % 8 = 0 ∧
    (∃ y, shaped.flown false { type := 7, reqs := [{ lane := 0, va := 131072, op := .read 8 }] } = some y) ∧
    dieOf (landCore 0) = shaped.die := by
  exact ⟨by decide, by decide, by decide, by decide, by decide, by decide, by decide, fun _ => rfl, by decide, by decide, by decide,
    ⟨by decide, by decide⟩, by decide, some_of (by decide), by decide⟩

/-- MPROG that passes and that fails; the first index of MRD past the end of a slab; a tile that may be written; a scale image in
scratch of 64 bytes boundary. -/
theorem witness_MatrixWordResults :
    ((Mcfg.of (3 * 2 ^ 16, 4)).lda % 4 = 0) ∧ ((Mcfg.of (3 * 2 ^ 16, 2)).lda % (Mcfg.of (3 * 2 ^ 16, 2)).es ≠ 0) ∧
    ¬ (192 / 256 < 3 ∧ 192 % 256 < 192) ∧ (703 / 256 < 3 ∧ 703 % 256 < 192) ∧ paged.TileReady 0 ∧ (paged.g.row 0 95).length = 192 ∧
    (∃ x, (paged.noteTile 0).flown false { type := 5, reqs := imageReqs true 0 1 } = some x) ∧ 512 * 1 ≤ paged.window ∧
    -- a persistent tile whose backing may be written, with no keeper and kept by the warp
    (let d := { tabled.device 0 with sbbase := 131072 }
     let t := { tabled.task 0 with desc := { (tabled.task 0).desc with persist := 1 } }
     let s := ((tabled.setDevice 0 d).setTask 0 t).setG { tabled.g with backing := [0, 0] }
     let n := s.noteTile 0
     n.t.desc.persist.getLsbD 0 = true ∧ Tab.find n.g.keeper 0 = none ∧ n.w.warpId = 0 ∧ 0 ∉ n.g.written ∧
     (n.writeBacking n.focus.core n.g.task (n.g.tilePages n.t.desc 0) (n.g.tileBytes 0)).1.toBool = true) := by
  exact ⟨by decide, by decide, by decide, by decide, .inl (by decide), by decide, some_of (by decide), by decide,
    by decide, by decide, by decide, by decide, by decide⟩

/-- One block of one f32 product for each element, its operands in scratch; and a store of the tile's rows to scratch. -/
theorem witness_MatrixProductResults :
    let cfg : Word64 × Word64 := (3 * 2 ^ 16 + 2 ^ 19 + 2 ^ 20, 4)
    let x : Mma := { m := Mcfg.of cfg, t := 0, a := 0, b := 0, ro := 0, co := 0, scol := 0 }
    let s := paged.setW { paged.w with mcfg := some cfg, sregs := [] }
    s.Fresh ∧ s.active ≠ 0 ∧ s.whole = true ∧ s.w.mcfg = some cfg ∧ s.TileReady 0 ∧ x.m.fmt ≠ 0 ∧
    (∀ r ∈ s.tileRows, x.aAddr r x.m.k ≤ s.window) ∧ x.bAddr (x.m.k - 1) 192 ≤ s.window ∧
    (∃ u, State.mmaDone x (x.m.blocks + 1) 0 [] ((s.noteTile 0).mmaControl x 0 0) = some u) ∧
    (∀ r ∈ s.tileRows, 0 + (0 + r) * 0 + 0 * 4 + 192 * 4 ≤ s.window) ∧
    (∃ u, State.mstDone 0 false true (fun _ => 0) 97 0
      ((s.noteTile 0).begun false { commits := false } ((s.noteTile 0).mstPool 0 false true (fun _ => 0) {})) = some u) := by
  exact ⟨⟨by decide, by decide⟩, by decide, by decide, by decide, .inl (by decide), by decide, by decide, by decide,
    some_of (by decide), by decide, some_of (by decide)⟩

/-- `tabled` with tree 0 bound to the descriptor at 131072, of 8 nodes after it, path slot 0 at its root. -/
def treed : State :=
  let s := tabled.setCtx 0 { bound := true, addr := 131072, pool := 131200, nodes := 8, rlog := 1, rbase := 132096 }
  let s := s.setSlot 0 { held := true, path := [0] }
  s.setW { s.w with sregs := [(1, 0), (3, 131072)] }

theorem witness_TreeWordResults :
    treed.f.flight = none ∧ treed.TreeAt 0 0 ∧ treed.SlotAt 0 0 ∧ treed.commit.treeHeld (treed.commit.ctx 0) treed.commit.me = false ∧
    (treed.commit.access treed.commit.treeActor none 131072 (.read 128)).1 = .ok 0 ∧
    (treed.commit.access treed.commit.treeActor none 131200 (.node .term)).1 = .ok 0 ∧
    0 < treed.commit.slotsOf 0 ∧ (tabled.setCtx 0 { bound := true }).slotsOf 0 = 0 ∧ (descFault 0).isSome = true ∧
    firstFree [0] 0 64 = some 1 ∧ firstFree (List.range 64) 0 64 = none ∧ treed.whole = true ∧
    treed.commit.ctxTaken 0 = false ∧ treed.commit.slotTaken 0 = false ∧ (∃ r, backValue false true 0 = .ok r) := by
  exact ⟨by decide, ⟨by decide, by decide, by decide, by decide⟩, ⟨by decide, by decide, by decide⟩, by decide, by decide, by decide,
    by decide, by decide, by decide, by decide, by decide, by decide, by decide, by decide, ⟨_, rfl⟩⟩

/-- The greatest node, block number and count of children; stages of `treed` whose accesses end at once, below the deepest node and
at it; two children that have been read; a step of a backup; the probe of a node. -/
theorem witness_TreeNodeResults : nodeExp (2 ^ 64 - 1) = true ∧ 2 ^ 64 - 1 < 2 ^ 255 ∧ 2 ^ 32 - 1 < 2 ^ 32 ∧ 255 < 2 ^ 8 ∧
    nodeExp 0 = false ∧ nodeTerm 0 = false ∧
    (let ok (va : Nat) (op : MemOp) : Prop := (treed.access treed.treeActor none va op).1 = .ok 0
     (treed.slot 0).path.length = 1 ∧ (treed.ctx 0).nodes = 8 ∧ ok (131200 + 7 * 64) (.node (.visit true)) ∧
     ok 131200 (.node (.leave true)) ∧ ok 131072 (.read 128) ∧ ok 132096 (.write 16 0) ∧ ok (131072 + 52) (.write 4 1) ∧
     ok 131200 (.node .unpend) ∧ ok 131200 (.read 64) ∧ ok 131200 (.node (.link 1 2)) ∧ ok (131072 + 64) (.write 4 1) ∧
     ok 131200 (.node (.backup 1 true true)) ∧ ok 131072 (.node (.swap 1 1 1)) ∧ ok 131264 (.node .orphan)) ∧
    treed.treeHeld (treed.ctx 0) treed.me = false ∧ (treed.ctx 0).rcw = 0 ∧ (treed.probe treed.treeActor 131264 (.write 64 0)).1 = .ok 0 ∧
    treed.upset = none ∧ (Tab.find [(0, 5), (1, 6)] 1).isSome = true ∧
    ((treed.setSlot 0 { held := true, path := List.replicate 128 0, progress := some 127 }).slot 0).path.length = 128 := by decide

/-! #### Steps of the hardware. -/

/-- A queue that the host feeds and one that the device feeds; QTAIL at and past the ring's room; a queue enabled on frames that
may be written, and one whose sizes are out of range; intake, retirement, an interrupt, an upcall and the event log. -/
theorem witness_QueueEventResults :
    let s := tabled.setQueue 0 0 { qbase := 131072, qcbase := 131072, slog := 4, clog := 12 }
    let on : Queue := { en := true, slog := 4, clog := 4, qtail := 1, ringFrames := [131072], recFrames := [131072],
                        ien := true, unsignalled := 1 }
    let t := (tabled.setQueue 0 0 on).setTask 7 { phase := .ending }
    let up := paged.setDevice 0 { paged.device 0 with upcalls := [(0, { va := 131072 })] }
    s.module.recovery = false ∧ (s.queue 0 0).src = false ∧ (s.queue 0 0).en = false ∧
    (16 : Nat) ≤ 2 ^ (s.queue 0 0).slog ∧ 2 ^ (s.queue 0 0).slog < (17 : Nat) ∧
    (s.ringFrames 0 131072 4096).1 = some [131072] ∧ (s.ringFrames 0 131072 (32 * 2 ^ 12)).1 = none ∧
    (4 ≤ (s.queue 0 0).slog ∧ (s.queue 0 0).slog ≤ 12 ∧ ¬ 12 < (s.queue 0 0).clog) ∧
    (t.nextQueue 0 = some 0 ∧ t.module.fatal = none ∧ (t.device 0).drst = false ∧ (t.device 0).lastIntake = none) ∧
    (t.taskDone 7 = true ∧ (Tab.find t.tasks 7).isSome = true ∧ (t.task 7).nsucc = 0 ∧ (t.task 7).quiet = false) ∧
    ((t.queue 0 0).ien = true ∧ 0 < (t.queue 0 0).unsignalled ∧ (t.queue 0 0).oldest + 4096 ≤ 4096) ∧
    (Tab.find (up.device 0).upcalls 0 = some { va := 131072 } ∧
      (let q := up.setQueue 0 0 { on with src := true, qtail := 0 }
       (q.queueStep 0 (q.pagerEntry 0 0).queue (q.upcallPacket 0 0 { va := 131072 })).1.toNat < 2 ^ 64 - 16)) ∧
    ((6 : Nat) ≤ 6 ∧ (20 : Nat) ≤ 20 ∧ t.module.elhead ≤ 0 ∧ 0 ≤ t.module.eltail) := by
  exact ⟨by decide, by decide, by decide, by decide, by decide, by decide, by decide, by decide, ⟨by decide, by decide, by decide, by decide⟩,
    ⟨by decide, by decide, by decide, by decide⟩, by decide, ⟨by decide, by decide⟩, by decide⟩

/-- `tabled` with an eligible task of kind `kind` whose payload is `ws`. -/
def queued (kind : Nat) (ws : List Word64) : State :=
  tabled.setTask 1 { phase := .eligible, words := [BitVec.ofNat 64 (16 * kind), 0] ++ ws }

/-- A kernel descriptor of one packet at 131072 + 256, eight registers and one warp. -/
def plainDesc : Nat := (131072 + 256) + (0xFFFFFFFF + 1 * 2 ^ 32) * 2 ^ 128 + (1 + 1 * 2 ^ 4) * 2 ^ 256

set_option exponentiation.threshold 400 in
theorem witness_DispatchEventResults :
    let k := queued 0 [131072, 1 + 1 * 2 ^ 16 + 1 * 2 ^ 32]
    let c := queued 1 [131072, 131088, 16, 0]
    let far := queued 1 [131072, 131072 + 16, 16, 0]
    let near := queued 1 [131072, 131072 + 15, 16, 0]
    let q := queued 2 [196608, 1]
    let r := tabled.setDevice 0 { tabled.device 0 with reserv := some { task := 0, unit := 0, cores := [0], since := 0 } }
    (k.module.fatal = none ∧ (k.device 0).drst = false ∧ k.nextEligible 0 = some 1 ∧ (k.task 1).kind = 0 ∧
      (k.task 1).word (k.task 1).payload % 128 = 0) ∧
    (queued 0 [131073]).nextEligible 0 = some 1 ∧ (∃ x, k.testRead 1 131072 128 = .inl x) ∧
    ((k.task 1).gridX ≠ 0 ∧ (k.task 1).gridY ≠ 0 ∧ (k.task 1).gridZ ≠ 0 ∧ (k.task 1).gridX % (k.task 1).gang = 0) ∧
    Desc.parse 0 = none ∧ (Desc.parse plainDesc).isSome = true ∧ (∃ l v, k.testAll 1 [131328, 131339] = .pass l v) ∧
    (c.nextEligible 0 = some 1 ∧ (c.task 1).kind = 1 ∧ (near.task 1).kind = 1 ∧
      (∃ l v, far.testAll 1 [131072, 131087, 131088, 131103] = .pass l v) ∧ (∃ l v, far.testCount 1 0 false = .pass l v)) ∧
    (∃ l v, { q with mem := q.mem.write (262144 + 24) 8 (196608 + 64 + 7) }.testCount 1 196608 true = .pass l v) ∧
    ((queued 2 [0, 1]).task 1).kind = 2 ∧ (queued 2 [0xFFFFFFFFFFFFFFFF, 1]).nextEligible 0 = some 1 ∧
    (Tab.find (tabled.core 0).wgs 0).isSome = true ∧ tabled.wgBusy 0 0 = false ∧ (r.device 0).reserv.isSome = true ∧
    (r.device 0).stall ≠ 0 ∧ (r.device 0).dhalt = false := by
  exact ⟨⟨by decide, by decide, by decide, by decide, by decide⟩, by decide, ⟨_, rfl⟩, by decide, by decide, by decide, ⟨_, _, rfl⟩,
    ⟨by decide, by decide, by decide, ⟨_, _, rfl⟩, ⟨_, _, rfl⟩⟩, ⟨_, _, rfl⟩, by decide, by decide, by decide, by decide, by decide, by decide,
    by decide⟩

/-- A warp that is placed again reads the first register of its save set from its frame page. -/
theorem witness_restoreRegs :
    let s := (paged.setTask 0 { paged.task 0 with desc := { (paged.task 0).desc with frame := 131072 } }).setWarp 0 0
      { paged.w with restoring := [(5, 0)] }
    let here := s.focusOn 0 0 ((s.warp 0 0).frags.headD (0, {})).1
    (s.warp 0 0).restoring = [(5, 0)] ∧
    (here.access (here.laneActor 7 (lowLane here.active)) none (here.frameSlot 0) (.read 8)).1 = .ok 0 := by decide

/-- A unit that waits to be placed, with a core that takes it. -/
theorem witness_placement :
    let s := tabled.setTask 0 { tabled.task 0 with nextUnit := 0, desc := { (tabled.task 0).desc with scratch := 0 } }
    (∃ x, (s.choose 0).1 = some x) ∧ s.module.fatal = none ∧ (s.device 0).drst = false ∧
    (∀ c ∈ s.waiting 0, s.neverFits 0 c = none) := by
  exact ⟨some_of (by decide), by decide, by decide, by decide⟩

/-- The fragment of `paged` with its word waiting as `p`. -/
def waiting (p : Park) : State := paged.setF { paged.f with park := p }

theorem witness_FragmentEventResults :
    let ready := paged.setF { paged.f with nextIssue := 0 }
    let flight : Flight := { type := 0, reqs := [{ lane := 0, va := 131072, op := .read 4 }] }
    let flying := paged.setF { paged.f with words := [⟨.nop {}, 0, 0, 0, 0⟩], flight := some flight }
    let timed := paged.setGroup 5 { live := true, phase := { since := some 0 } }
    (ready.f.mayIssue ready.now = true ∧ ready.w.idle = false ∧ (ready.device 0).dhalt = false ∧ ready.dieRuns 0 = true) ∧
    ((waiting (.join 0)).f.park = .join 0 ∧ (waiting (.sleep 0 0)).f.park = .sleep 0 0 ∧
      0 + 0 ≤ (waiting (.sleep 0 0)).counted 0) ∧
    (flying.f.serves = true ∧ flying.dieRuns 0 = true) ∧
    ((waiting (.count 196608 196608 0 1 .watch false 0)).f.park = .count 196608 196608 0 1 .watch false 0 ∧
      (waiting (.remoteCount 196608 0 1 0)).f.park = .remoteCount 196608 0 1 0 ∧
      (paged.access (paged.laneActor 0 0) none 196608 .cwRead).1 = .ok 0) ∧
    ((paged.setCore 0 { paged.core 0 with wakes := [196608] }).core 0).wakes.contains 196608 = true ∧
    (flying.wantsPage 0 2 = true ∧ (paged.core 0).walks.find? (fun j => j.page = 2) = none ∧
      (let s := { tabled with cores := flying.cores }.setCore 0 { flying.core 0 with tlb := [] }
       s.wantsPage 0 2 = true ∧ (s.core 0).tlbAt 131072 = none ∧ (s.core 0).walks = [] ∧
         tableAt (s.device (dieOf 0)).ptroot 4096 = true) ∧
      (let job : WalkJob := { page := 2, table := 262144, levels := walkLevels }
       (paged.setCore 0 { paged.core 0 with walks := [job] }).core 0).walks.find? (fun j => j.page = 2) =
         some { page := 2, table := 262144, levels := walkLevels }) ∧
    (let r : PeerReq := { dev := 0, host := true, va := hostBase, op := .read 4, type := 0, waiter := .engine 0 0 }
     { paged with io := { paged.io with reqs := [(0, r)] } }.hostReq 0 0 = some r) ∧
    (let e : DWord := ⟨.mscl {}, 0, 0, 0, 0⟩
     let s := paged.setF { paged.f with words := [e], flight := some { type := 5 } }
     s.f.words.head? = some e ∧ s.f.flight = some { type := 5 }) ∧
    ((timed.group 5).phase.since = some 0 ∧ (timed.group 5).live = true ∧ (timed.group 5).phase.reported = false ∧
      1024 * (timed.device (timed.group 5).dev).gtmo ≠ 0) := by
  decide

/-- A class change whose last holder drains, and one that no party holds; the three commands over one page, with and without a
translation of it. -/
theorem witness_ManagementEventResults :
    let cmd (op va : Nat) : State := tabled.setDevice 0 { tabled.device 0 with mgo := true, mcmd := ⟨op, va, 1, 131072⟩ }
    let held := { tabled with reclass := [(2, { awaiting := [.core 0], new := .shared })] }
    (Tab.find held.reclass 2).isSome = true ∧ held.draining (.core 0) 2 = false ∧
    (∀ p ∈ (cmd 1 131072).rangePages 0 2 1, Tab.find (cmd 1 131072).reclass p = none) ∧
    ((cmd 1 131072).rangeBusy 0 2 1 = false ∧ Tab.find (cmd 1 131072).reclass 2 = none) ∧
    (∃ x, ((cmd 2 131072).usage 0 2 1).1 = .ok x) ∧
    ((cmd 3 131072).device 0).upcallOf 2 = none ∧ ((cmd 3 (9 * 65536)).walkTable 0 (9 * 65536)).1 = .absent 0 ∧
    (∃ l, ((cmd 3 131072).walkTable 0 131072).1 = .leaf l ∧ l.peer = false ∧ l.mt = 0) ∧
    (((cmd 3 131072).walkTable 0 131072).2.leafEntry 0 131072).isSome = true ∧ (∀ n, tabled.lineLost n 128 = false) ∧
    (tabled.device 0).mop ≠ 1 ∧ (tabled.device 0).mop ≠ 2 ∧ (tabled.device 0).mop ≠ 3 ∧ (tabled.device 0).mgo = false ∧
    ({ tabled with module := { tabled.module with ready := true } }).enabled 0 0x8800 = true := by
  exact ⟨by decide, by decide, by decide, ⟨by decide, by decide⟩, ⟨_, rfl⟩, by decide, by decide, ⟨_, rfl, rfl, rfl⟩, by decide,
    fun _ => rfl, by decide, by decide, by decide, by decide, by decide⟩

/-- A flit inside a die, one over a crossing with a bad parity; a port in each of its four states; a retrain at its limit. -/
theorem witness_LinkEventResults :
    let s (p : Port) : State := State.reset.setPort 0 p
    (portExists 0 6 = false ∧ portExists 0 4 = true ∧ portExists 193 3 = true ∧ portExists 193 4 = false ∧ inputCrossing 0 4 = none ∧
      inputCrossing 192 0 = some 4) ∧ State.reset.module.fatal = none ∧ crossingOf 0 0 = none ∧ crossingOf 0 1 = some 0 ∧
    Tab.find State.reset.io.torus 0 = none ∧ (∀ n ∈ [1, 2, 3], ((s { state := n, en := true }).port 0).state = n) ∧
    ((s {}).port 0).en = false ∧ ((s { noProgress := 7, state := 2 }).port 0).noProgress = 7 ∧
    State.reset.now ≤ ((s { state := 3 }).port 0).retrainAt + 1400000 ∧
    ({ s { state := 3 } with now := 1400001 } : State).now > 0 + 1400000 ∧ (State.reset.withFetchWord 32 0).module.ready = true ∧
    ((s { state := 3, force := true }).port 0).force = true := by
  decide

/-- A request that may take its tag, one that has been sent, one that is being cancelled; a target that has performed it, one that
was told to cancel it; the host's writes to an empty stream and to one that holds a write. -/
theorem witness_PeerEventResults :
    let r : PeerReq := { dev := 0, rmod := 1, rdev := 0, va := 131072, op := .write 4 1, type := 1, waiter := .engine 0 0 }
    let s (r : PeerReq) : State := { tabled with io := { tabled.io with reqs := [(0, r)] } }
    (Tab.find (s r).io.reqs 0 = some r ∧ r.host = false ∧ r.op.writes = true ∧ r.tag = none ∧ r.down = false ∧
      (s r).tagFree (pairKey 0 1 0) 0 = true ∧ (s r).portFor { r with tag := some 0 } = none) ∧
    ((s r).setPort 0 { state := 2 }).upPorts 1 = [] ∧
    ({ r with port := some 0 } : PeerReq).port.isSome = true ∧ ({ r with cancelling := true } : PeerReq).cancelling = true ∧
    tabled.io.heldPeers = [] ∧ (Tab.get tabled.io.seen {} (seenKey 1 0 0)).cancelled.contains 0 = false ∧
    (∃ v, (tabled.targetAccess 0 { party := .ct, dev := 8, type := 0 } 131072 (.read 4)).1 = .ok v) ∧
    (let held (w : Inbound) : State := { tabled with io := { tabled.io with inbound := [w] } }
     let w : Inbound := { fn := 0, requester := 0, pieces := inboundLines 131072 [1, 2] }
     tabled.streamHeld ⟨0, 0⟩ = false ∧ (held w).streamHeld ⟨0, 0⟩ = true ∧ w.pieces.length = 1 ∧
       (held w).streamOf 0 0 = [(0, w)] ∧ w.pieces[0]? = some (131072, [1, 2])) ∧ tabled.module.ready = true ∧
    (∃ v, (tabled.inboundPiece 0 1 131072 [] (.write 2 513)).1 = .ok v) ∧
    (∃ c, (tabled.inboundPiece 0 1 (9 * 65536) [] (.write 2 513)).1 = .fault c ∧ refusedBy c = true) ∧
    (∃ v, (tabled.inboundPiece 0 0 131072 [] (.read 4)).1 = .ok v) ∧ linePieces 131072 2 4 = [(131072, 4)] ∧
    (Seen.arrive {} 7).performed = [] ∧ (Seen.arrive { performed := [(7, true)] } 7).performed.find? (fun e => e.1 = 7) = some (7, true) := by
  exact ⟨⟨by decide, by decide, by decide, by decide, by decide, by decide, by decide⟩, by decide, by decide, by decide, by decide, by decide,
    ⟨_, rfl⟩, by decide, by decide, ⟨_, rfl⟩, ⟨_, rfl, by decide⟩, ⟨_, rfl⟩, by decide, by decide, by decide⟩

/-- A copy in slot 0 with its first element to read, read, written; an ended multicast; a shuffle; a walk in each of its states. -/
theorem witness_EngineEventResults :
    let x : Copy := { src := Shape.of (row 131072), dst := Shape.of (row 135168), origin := [0, 0, 0, 0], it := [16, 1, 1, 1] }
    let s := shaped.setCopy 0 0 x
    let y : Shuffle := { wg := 0, rplc := 1, task := 0, n := 2, e := 4, steps := [2 ^ 17], dofs := 64, sofs := 0, cw := 0 }
    let q := shaped.setCore 0 { shaped.core 0 with shuffles := [y] }
    (s.core 0).nextCopy = some (0, x) ∧ x.failed = none ∧ x.held = none ∧ x.half = [] ∧ s.copyWaits 0 0 = false ∧ 0 < x.count ∧ x.items = [] ∧ x.from_ 0 = .inl 131072 ∧ x.srcScr = false ∧
    (∃ v, (s.access (x.actor 0 0) none 131072 (.read x.size)).1 = .ok v) ∧ ({ x with buf := [(0, 5)] } : Copy).value 0 = some 5 ∧
    x.mayWrite (s.maySame 0) x.done x.next 0 = true ∧ x.mayWrite sameOffsets x.done x.next 0 = true ∧ (x.to 0) % 128 + x.size ≤ 128 ∧
    (s.access (x.actor 0 0) none 135168 (.write 16 5)).1 = .ok 0 ∧ ({ x with next := 16 } : Copy).complete = true ∧
    (∀ i ∈ [({ handle := 0, ended := true } : McItem)], i.ended = true) ∧
    ((q.core 0).shuffles = [y] ∧ y.next + y.done.length ≠ y.n ∧ ({ y with next := 2 } : Shuffle).next + 0 = y.n ∧ y.failed = none ∧
      ({ y with failed := some (0x2F1, 0) } : Shuffle).failed = some (0x2F1, 0)) ∧
    (treed.access (walkActor 0 0 0) none 131200 (.read 64)).1 = .ok 0 ∧
    (let z := Tab.get (treed.device 0).spinel.ctxs {} 0
     z.freeing = none ∧ treed.treeHeld z (192, 0, 0) = false ∧ z.freeOp 1 1 0 0 = (131072, .read 128) ∧
       (treed.access (walkActor 0 0 0) none 131072 (.read 128)).1 = .ok 0 ∧
       (treed.access (walkActor 0 0 0) none (z.freeOp 1 1 1 0).1 (.write 4 0)).1 = .ok 0) := by
  exact ⟨by decide, by decide, by decide, by decide, by decide, by decide, by decide, by decide, by decide, ⟨_, rfl⟩, by decide, by decide,
    by decide, by decide, by decide, by decide, by decide, ⟨by decide, by decide, by decide, by decide, by decide⟩, by decide, by decide⟩

/-- A unit asked to leave, one all of whose warps are kept; a warp past its deadline; a reservation at the threshold; the debug
registers on a halted die, and on one that runs. -/
theorem witness_PreemptDebugResults :
    let asked := paged.setDevice 0 { paged.device 0 with preq := [(0, 0)] }
    let late := (paged.setG { paged.g with preempt := some 0 }).setDevice 0 { paged.device 0 with pdl := 0 }
    let kept := (paged.setG { paged.g with preempt := some 0 }).setW { paged.w with kept := true }
    let res := paged.setDevice 0 { paged.device 0 with reserv := some { task := 1, unit := 0, cores := [0], since := 0 }, pauto := true,
                                                       pthr := 0 }
    let halted := paged.setDevice 0 { paged.device 0 with dhalt := true, dcmd := 1 * 2 ^ 34 }
    asked.unitOf 0 0 = [(0, 0)] ∧ ((asked.wg 0 0).preempt.isNone = true) ∧
    (kept.unitOf 0 0 = [(0, 0)] ∧ (kept.wg 0 0).preempt.isSome = true ∧ kept.scratchQuiet 0 0 = true ∧ (kept.warp 0 0).kept = true) ∧
    ((late.wg 0 0).preempt = some 0 ∧ late.w.kept = false ∧ 0 + late.w.heldCycles + 1024 * 0 ≤ late.counted 0) ∧
    ((res.device 0).pthr ≤ res.effPrio 0 1 ∧ (res.device 0).dhalt = false ∧ res.autoOpen (res.device 0) = false ∧
      (let open_ := res.setDevice 0 { res.device 0 with auto := some (0, 0) }
       let open_ := open_.setG { open_.g with preempt := some 0 }
       open_.autoOpen (open_.device 0) = true)) ∧
    ((halted.debugWarp 0).isSome = true ∧ (halted.device 0).dop = 1 ∧ paged.debugWarp 0 = none) := by
  exact ⟨by decide, by decide, ⟨by decide, by decide, by decide, by decide⟩, by decide, by decide, by decide⟩

/-- A bank whose count reaches CETHR; the state before bring-up; a device in reset whose time is up; the mailbox with each of its
commands; the clock at both ends of its range. -/
theorem witness_ModuleEventResults :
    let s := State.reset
    let counted := s.setSlice 0 0 { counts := [(17, 64)] }
    let resetting := { s.setDevice 0 { s.device 0 with drst := true } with now := 1400000 }
    let box (n : Nat) : State := { s with module := { s.module with mbgo := true, mbrun := { op := n, len := 2 ^ 26 } } }
    (s.module.cethr ≠ 0 ∧ s.module.cethr ≤ Tab.get (counted.slice 0 0).counts 0 17 ∧ (counted.slice 0 0).failed.contains 17 = false ∧
      (counted.slice 0 0).spare = false) ∧
    s.module.ready = false ∧ s.module.recovery = false ∧ s.module.fatal = none ∧
    ({ s with module := { s.module with ready := true } }).enabled 0 0x31000 = true ∧
    ((resetting.device 0).drst = true ∧ (resetting.device 0).drstAt + 1400000 ≤ resetting.now ∧ resetting.enginesBusy 0 = false) ∧
    (∀ n ∈ [1, 2, 3], (box n).module.mbgo = true ∧ (box n).module.mbrun.op = n ∧ 0 < (box n).module.mbrun.len ∧
      (box n).module.mbrun.len ≤ 2 ^ 26 ∧ (box n).module.mbrun.va % 64 = 0) ∧
    s.module.mbcmd = 0 ∧ (700 % 25 = 0 ∧ 1400 % 25 = 0 ∧ s.module.clkMhz = 1400) ∧ isGuash 0 = true ∧ isHost hostBase = true ∧
    isGuash (2 ^ 50) = false ∧ isHost (2 ^ 50) = false := by
  exact ⟨by decide, by decide, by decide, by decide, by decide, by decide, by decide, by decide, by decide, by decide, by decide, by decide, by decide⟩

/-- The state after the first step, with the word `w` placed. -/
def after (w : Nat) : State :=
  match step (State.reset.withFetchWord 32 w) with
  | .next t => t
  | _ => State.reset

/-- A quadrant whose one fragment fetches a packet of an SADD and two NOPs, and issues it. -/
theorem witness_StepRunsDecodedInstruction :
    let s := State.reset.withFetchWord 32 (0x16 * 2 ^ 24 + 1 * 2 ^ 13 + 7)
    s.nextTurn.1 = .issue 0 0 0 0 (BitVec.allOnes 32) 0 ∧
    (let u := s.nextTurn.2
     u.module.fatal = none ∧ u.dieRuns 0 = true ∧ (u.device 0).dhalt = false ∧ (u.quad 0 0).lastIssue = none ∧
     u.readyFrags 0 0 = [⟨0, 0, 0⟩] ∧ (u.frag 0 0 0).decoded = false ∧ (u.frag 0 0 0).token = none) ∧
    ((after (0x16 * 2 ^ 24 + 1 * 2 ^ 13 + 7)).warp 0 0).flush.sregs = [(1, 7)] := by
  decide

theorem witness_StepKeepsMemoryCanonical :
    State.reset.Safe ∧ ∃ t, step (State.reset.withFetchWord 32 0) = .next t := ⟨rfl, _, rfl⟩

theorem witness_EncodeThenDecode : (Instr.nop {}).opcode.isSome = true ∧ (Instr.trapR {}).opcode.isSome = true := by decide

/-- The first and the last reserved point, in a packet and in a dictionary. -/
theorem witness_DecodeThenEncode :
    reservedPoints[0]? = some ((0x2F000000 : Word32).extractLsb' 24 8).toNat ∧
    reservedPoints[53]? = some ((0xEF000000 : Word32).extractLsb' 24 8).toNat ∧ reservedPoints.length = 54 ∧
    (0xF0000000 : Word32).extractLsb' 28 4 = 0xF ∧ ([0x2F000000] : List Word32)[((0xF0000000 : Word32).extractLsb' 14 10).toNat]? =
      some 0x2F000000 := by decide

/-! ### Decoding: one word of every opcode, its fields placed by R67, R68 and the opcode table. -/

def reads (l : List (Word32 × Instr)) : Bool := l.all (fun e => decodeWord [] e.1 == some e.2)

theorem test_decode_row_0 : reads [
    (0x00000000, .nop {}),
    (0x01698A3F, .saddR { u := true, d := 12, a := 20, b := 31, m := true }),
    (0x02926FD8, .ssubR { d := 19, a := 31, b := 44, m := false }),
    (0x033B5573, .smulR { d := 26, a := 42, b := 57, m := true }),
    (0x04243A8C, .smulh { d := 33, a := 53, b := 6, m := false }),
    (0x05CD0027, .sdiv { u := true, d := 40, a := 0, b := 19, m := true }),
    (0x0635E5C0, .srem { d := 47, a := 11, b := 32, m := false }),
    (0x071ECB5B, .sandR { d := 54, a := 22, b := 45, m := true }),
    (0x0887B0F4, .sorR { d := 61, a := 33, b := 58, m := false }),
    (0x0968960F, .sxorR { u := true, d := 4, a := 44, b := 7, m := true }),
    (0x0A117BA8, .sshlR { d := 11, a := 55, b := 20, m := false }),
    (0x0BBA4143, .sshrR { d := 18, a := 2, b := 33, m := true }),
    (0x0C2326DC, .ssraR { d := 25, a := 13, b := 46, m := false }),
    (0x0D4C0C77, .sminR { u := true, d := 32, a := 24, b := 59, m := true }),
    (0x0EB4F190, .smaxR { d := 39, a := 35, b := 8, m := false }),
    (0x0F1DD72B, .scmpR { d := 46, a := 46, b := 21, m := true })] = true := by decide

theorem test_decode_row_1 : reads [
    (0x1006BCC4, .ssel { d := 53, a := 57, b := 34, m := false }),
    (0x11EF825F, .smov { u := true, d := 60, a := 4, b := 47, m := true }),
    (0x121067F8, .sleaR { d := 3, a := 15, b := 60, m := false }),
    (0x13394D13, .spopc { d := 10, a := 26, b := 9, m := true }),
    (0x14A232AC, .sclz { d := 17, a := 37, b := 22, m := false }),
    (0x154B1847, .sbrev { u := true, d := 24, a := 48, b := 35, m := true }),
    (0x1633FDEF, .saddI { d := 31, a := 59, imm := 111 }),
    (0x179CC314, .smulI { d := 38, a := 6, imm := 20 }),
    (0x1805A8B9, .sandI { d := 45, a := 17, imm := 57 }),
    (0x196E8E5E, .sorI { u := true, d := 52, a := 28, imm := 94 }),
    (0x1A977383, .sxorI { d := 59, a := 39, imm := 3 }),
    (0x1B385928, .sshlI { d := 2, a := 50, imm := 40 }),
    (0x1C213ECD, .sshrI { d := 9, a := 61, imm := 77 }),
    (0x1DCA0472, .ssraI { u := true, d := 16, a := 8, imm := 114 }),
    (0x1E32E997, .scmpI { d := 23, a := 19, imm := 23 }),
    (0x1F1BC652, .sli { d := 30, imm := 1618 })] = true := by decide

theorem test_decode_row_2 : reads [
    (0x2087C6E5, .br { imm := 509669 }),
    (0x216E8C50, .brc { u := true, a := 52, cc := 3, imm := 80 }),
    (0x2217F0FD, .brv { a := 63, cc := 4, imm := 253 }),
    (0x23B9A18A, .rcv { imm := 106890 }),
    (0x24223FC1, .call { imm := 147393 }),
    (0x25491067, .ret { u := true, d := 8, a := 32, b := 51, m := true }),
    (0x26B1F580, .jmpi { d := 15, a := 43, b := 0, m := false }),
    (0x271AC4DA, .mfs { d := 22, imm := 1242 }),
    (0x2803A8AB, .mts { d := 29, imm := 2219 }),
    (0x29EC864F, .enq { u := true, d := 36, a := 12, b := 39, m := true }),
    (0x2A15704D, .exit { d := 43, imm := 4173 }),
    (0x2B3E5178, .sminI { d := 50, a := 34, imm := 120 }),
    (0x2CA7369D, .smaxI { d := 57, a := 45, imm := 29 }),
    (0x2D481C42, .sleaI { u := true, d := 0, a := 56, imm := 66 })] = true := by decide

theorem test_decode_row_3 : reads [
    (0x3030E1D0, .vadd { d := 7, a := 3, b := 40, m := false }),
    (0x3199C76B, .vsub { d := 14, a := 14, b := 53, m := true }),
    (0x3202AC84, .vmul { d := 21, a := 25, b := 2, m := false }),
    (0x336B921F, .vfma { u := true, d := 28, a := 36, b := 15, m := true }),
    (0x349477B8, .vneg { d := 35, a := 47, b := 28, m := false }),
    (0x353D5D53, .vabs { d := 42, a := 58, b := 41, m := true }),
    (0x362622EC, .vmin { d := 49, a := 5, b := 54, m := false }),
    (0x37CF0807, .vmax { u := true, d := 56, a := 16, b := 3, m := true }),
    (0x3837EDA0, .vdiv { d := 63, a := 27, b := 16, m := false }),
    (0x3918D33B, .vsqrt { d := 6, a := 38, b := 29, m := true }),
    (0x3A81B8D4, .vrcp { d := 13, a := 49, b := 42, m := false }),
    (0x3B6A9E6F, .vrsq { u := true, d := 20, a := 60, b := 55, m := true }),
    (0x3C136388, .vexp2 { d := 27, a := 7, b := 4, m := false }),
    (0x3DBC4923, .vlog2 { d := 34, a := 18, b := 17, m := true }),
    (0x3E252EBC, .vscpi { d := 41, a := 29, b := 30, m := false })] = true := by decide

theorem test_decode_row_4 : reads [
    (0x404E1457, .vcmul { u := true, d := 48, a := 40, b := 43, m := true }),
    (0x41B6F9F0, .vcfma { d := 55, a := 51, b := 56, m := false }),
    (0x421FDF0B, .vbfly { d := 62, a := 62, b := 5, m := true }),
    (0x4300A4A4, .vtwid { d := 5, a := 9, b := 18, m := false }),
    (0x44E98A3F, .vcvtR { u := true, d := 12, a := 20, b := 31, m := true }),
    (0x45126FD8, .vqnt { d := 19, a := 31, b := 44, m := false }),
    (0x463B5570, .vcvtI { d := 26, a := 42, imm := 112 }),
    (0x47A43A95, .vtagI { d := 33, a := 53, imm := 21 }),
    (0x484D0027, .viaddR { u := true, d := 40, a := 0, b := 19, m := true }),
    (0x4935E5C0, .visub { d := 47, a := 11, b := 32, m := false }),
    (0x4A9ECB5B, .vimulR { d := 54, a := 22, b := 45, m := true }),
    (0x4B07B0F4, .vimulh { d := 61, a := 33, b := 58, m := false }),
    (0x4C68960F, .vifma { u := true, d := 4, a := 44, b := 7, m := true }),
    (0x4D917BA8, .vandR { d := 11, a := 55, b := 20, m := false }),
    (0x4E3A4143, .vorR { d := 18, a := 2, b := 33, m := true }),
    (0x4F2326DC, .vxorR { d := 25, a := 13, b := 46, m := false })] = true := by decide

theorem test_decode_row_5 : reads [
    (0x50CC0C77, .vshlR { u := true, d := 32, a := 24, b := 59, m := true }),
    (0x5134F190, .vshrR { d := 39, a := 35, b := 8, m := false }),
    (0x521DD72B, .vsraR { d := 46, a := 46, b := 21, m := true }),
    (0x5386BCC4, .viminR { d := 53, a := 57, b := 34, m := false }),
    (0x546F825F, .vimaxR { u := true, d := 60, a := 4, b := 47, m := true }),
    (0x5510679B, .viminI { d := 3, a := 15, imm := 27 }),
    (0x56B94D40, .vimaxI { d := 10, a := 26, imm := 64 }),
    (0x572232E5, .vimulI { d := 17, a := 37, imm := 101 }),
    (0x584B180A, .viaddI { u := true, d := 24, a := 48, imm := 10 }),
    (0x59B3FDAF, .vandI { d := 31, a := 59, imm := 47 }),
    (0x5A1CC354, .vorI { d := 38, a := 6, imm := 84 }),
    (0x5B05A8F9, .vxorI { d := 45, a := 17, imm := 121 }),
    (0x5CEE8E1E, .vshlI { u := true, d := 52, a := 28, imm := 30 }),
    (0x5D1773C3, .vshrI { d := 59, a := 39, imm := 67 }),
    (0x5E385968, .vsraI { d := 2, a := 50, imm := 104 })] = true := by decide

theorem test_decode_row_6 : reads [
    (0x60A13EFC, .vcmpR { d := 9, a := 61, b := 62, m := false }),
    (0x614A0417, .vsel { u := true, d := 16, a := 8, b := 11, m := true }),
    (0x6232E9B0, .vmovR { d := 23, a := 19, b := 24, m := false }),
    (0x639BCF4B, .vbcastR { d := 30, a := 30, b := 37, m := true }),
    (0x6404B4E4, .vlane { d := 37, a := 41, b := 50, m := false }),
    (0x656D9A7F, .vshflR { u := true, d := 44, a := 52, b := 63, m := true }),
    (0x66967F98, .vperm { d := 51, a := 63, b := 12, m := false }),
    (0x673F4533, .vscan { d := 58, a := 10, b := 25, m := true }),
    (0x68202ACC, .vred { d := 1, a := 21, b := 38, m := false }),
    (0x69C91067, .vpopc { u := true, d := 8, a := 32, b := 51, m := true }),
    (0x6A31F580, .vclz { d := 15, a := 43, b := 0, m := false }),
    (0x6B1ADB1B, .vtagR { d := 22, a := 54, b := 13, m := true }),
    (0x6C83A0C9, .vcmpI { d := 29, a := 1, imm := 73 }),
    (0x6D6C80BC, .vmovL { u := true, d := 36, imm := 188 }),
    (0x6E156B93, .vbcastI { d := 43, a := 23, imm := 19 }),
    (0x6FBE5138, .vshflI { d := 50, a := 34, imm := 56 })] = true := by decide

theorem test_decode_row_7 : reads [
    (0x7027369C, .kand { d := 57, a := 45, b := 14, m := false }),
    (0x71481C37, .kor { u := true, d := 0, a := 56, b := 27, m := true }),
    (0x72B0E1D0, .kxor { d := 7, a := 3, b := 40, m := false }),
    (0x7319C76B, .knot { d := 14, a := 14, b := 53, m := true }),
    (0x7402AC84, .kpopc { d := 21, a := 25, b := 2, m := false }),
    (0x75EB921F, .kmovR { u := true, d := 28, a := 36, b := 15, m := true }),
    (0x76146315, .kmovL { d := 35, imm := 789 })] = true := by decide

theorem test_decode_row_8 : reads [
    (0x803D4A33, .ldM { d := 42, base := 2, xk := true, x := 6, w := 3 }),
    (0x81A634BE, .stM { d := 49, base := 5, xk := false, x := 23, w := 6 }),
    (0x824F0341, .ldsM { u := true, d := 56, base := 0, xk := true, x := 40, w := 1 }),
    (0x8337EDCC, .stsM { d := 63, base := 3, xk := false, x := 57, w := 4 }),
    (0x8498D367, .ldu { d := 6, a := 38, off := 12, w := 7 }),
    (0x8501A4DA, .atmM { d := 13, base := 1, xk := false, x := 27, w := 2 }),
    (0x866A9365, .xaddM { u := true, d := 20, base := 4, xk := true, x := 44, w := 5 }),
    (0x87937DE8, .xrdM { d := 27, base := 7, xk := false, x := 61, w := 0 }),
    (0x883C4A73, .xclr { d := 34, base := 2, xk := true, x := 14, w := 3 }),
    (0x89252EBC, .btl { d := 41, a := 29, b := 30, m := false }),
    (0x8ACE1457, .btinv { u := true, d := 48, a := 40, b := 43, m := true }),
    (0x8B36F9F0, .classR { d := 55, a := 51, b := 56, m := false }),
    (0x8C1FDA97, .pfhM { d := 62, base := 6, xk := true, x := 18, w := 7 }),
    (0x8D80A4A4, .send { d := 5, a := 9, b := 18, m := false }),
    (0x8E698A3F, .rpop { u := true, d := 12, a := 20, b := 31, m := true }),
    (0x8F126FD8, .rwait { d := 19, a := 31, b := 44, m := false })] = true := by decide

theorem test_decode_row_9 : reads [
    (0x90BB5543, .ldN { d := 26, a := 42, off := 8, w := 3 }),
    (0x91243AEE, .stN { d := 33, a := 53, off := 13, w := 6 }),
    (0x924D0011, .ldsN { u := true, d := 40, a := 0, off := 2, w := 1 }),
    (0x93B5E5BC, .stsN { d := 47, a := 11, off := 7, w := 4 }),
    (0x941ECB67, .atmN { d := 54, a := 22, off := 12, w := 7 }),
    (0x9507B08A, .pfhN { d := 61, a := 33, off := 1, w := 2 }),
    (0x96E8960E, .classI { u := true, d := 4, a := 44, imm := 14 }),
    (0x97117BD8, .xaddN { d := 11, a := 55, off := 11, w := 0 }),
    (0x983A4103, .xrdN { d := 18, a := 2, off := 0, w := 3 })] = true := by decide

theorem test_decode_row_A : reads [
    (0xA0A326DC, .ldshape { d := 25, a := 13, b := 46, m := false }),
    (0xA14C0C77, .stshape { u := true, d := 32, a := 24, b := 59, m := true }),
    (0xA234F190, .cpyR { d := 39, a := 35, b := 8, m := false }),
    (0xA39DD72B, .cpym { d := 46, a := 46, b := 21, m := true }),
    (0xA406BCC4, .shufR { d := 53, a := 57, b := 34, m := false }),
    (0xA56F8236, .cpyI { u := true, d := 60, a := 4, imm := 54 }),
    (0xA69067DB, .shufI { d := 3, a := 15, imm := 91 })] = true := by decide

theorem test_decode_row_B : reads [
    (0xB0394D13, .mma { d := 10, a := 26, b := 9, m := true }),
    (0xB12232AC, .mscl { d := 17, a := 37, b := 22, m := false }),
    (0xB2CB1847, .mrdR { u := true, d := 24, a := 48, b := 35, m := true }),
    (0xB333FDE0, .mwrR { d := 31, a := 59, b := 48, m := false }),
    (0xB41CC37B, .mst { d := 38, a := 6, b := 61, m := true }),
    (0xB585A894, .mzero { d := 45, a := 17, b := 10, m := false }),
    (0xB66E8E2F, .mprog { u := true, d := 52, a := 28, b := 23, m := true }),
    (0xB7177383, .mrdI { d := 59, a := 39, imm := 3 }),
    (0xB8B85928, .mwrI { d := 2, a := 50, imm := 40 })] = true := by decide

theorem test_decode_row_C : reads [
    (0xC0213EFC, .tsbind { d := 9, a := 61, b := 62, m := false }),
    (0xC14A0417, .tsdesc { u := true, d := 16, a := 8, b := 11, m := true }),
    (0xC2B2E9B0, .tsexp { d := 23, a := 19, b := 24, m := false }),
    (0xC31BCF4B, .tsback { d := 30, a := 30, b := 37, m := true }),
    (0xC404B4E4, .tsleaf { d := 37, a := 41, b := 50, m := false }),
    (0xC5ED9A7F, .tsroot { u := true, d := 44, a := 52, b := 63, m := true }),
    (0xC6167F98, .tsstat { d := 51, a := 63, b := 12, m := false }),
    (0xC83F4533, .cwsigR { d := 58, a := 10, b := 25, m := true }),
    (0xC9A02ACC, .cwwaitR { d := 1, a := 21, b := 38, m := false }),
    (0xCA491067, .cwrd { u := true, d := 8, a := 32, b := 51, m := true }),
    (0xCB31F580, .cwset { d := 15, a := 43, b := 0, m := false }),
    (0xCC9ADB1B, .gnew { d := 22, a := 54, b := 13, m := true }),
    (0xCD03A0B4, .gjoin { d := 29, a := 1, b := 26, m := false }),
    (0xCE6C864F, .gleave { u := true, d := 36, a := 12, b := 39, m := true }),
    (0xCF956BE8, .gbar { d := 43, a := 23, b := 52, m := false })] = true := by decide

theorem test_decode_row_D : reads [
    (0xD03E5103, .gvote { d := 50, a := 34, b := 1, m := true }),
    (0xD127369C, .gred { d := 57, a := 45, b := 14, m := false }),
    (0xD2C81C37, .gstat { u := true, d := 0, a := 56, b := 27, m := true }),
    (0xD330E1D0, .gfree { d := 7, a := 3, b := 40, m := false }),
    (0xD419C70C, .cwsigI { d := 14, a := 14, imm := 12 }),
    (0xD582ACB1, .cwwaitI { d := 21, a := 25, imm := 49 }),
    (0xD86B9384, .trapL { u := true, d := 28, imm := 4996 }),
    (0xD91477B8, .tret { d := 35, a := 47, b := 28, m := false }),
    (0xDAB940F5, .region { off := 41082, m := true }),
    (0xDB2622EC, .pgsupply { d := 49, a := 5, b := 54, m := false }),
    (0xDC4F02C8, .bkpt { u := true, d := 56, imm := 712 }),
    (0xDDB7ED8F, .sleep { d := 63, a := 27, imm := 15 }),
    (0xDE18D33B, .mflog { d := 6, a := 38, b := 29, m := true }),
    (0xDF01B8D4, .trapR { d := 13, a := 49, b := 42, m := false })] = true := by decide

/-! ### The words that the spec writes out (R111, R122, R128, R163, R174, R222, R225, R236, R281 and others). -/

theorem test_decode_examples_core : reads [
    (0x0500828D, .sdiv { d := 4, a := 5, b := 6, m := true }),
    (0x22005004, .brv { a := 2, cc := 4, imm := 4 }),
    (0x2400001E, .call { imm := 30 }),
    (0x25001F80, .ret { a := 63 }),
    (0x2800A011, .mts { d := 5, imm := 0x011 }),
    (0x27004000, .mfs { d := 2, imm := 0 }),
    (0x29012390, .enq { d := 9, a := 7, b := 8 }),
    (0x43388604, .vtwid { d := 4, a := 12, b := 2 }),
    (0x44006084, .vcvtR { d := 3, a := 1, b := 2 }),
    (0x6002620A, .vcmpR { d := 19, a := 4, b := 5 }),
    (0x6700E280, .vscan { d := 7, a := 5 }),
    (0x6800C280, .vred { d := 6, a := 5 })] = true := by decide

theorem test_decode_examples_memory : reads [
    (0x8000A415, .ldM { d := 5, base := 1, x := 2, w := 5 }),
    (0x85008830, .atmM { d := 4, base := 2, x := 6 }),
    (0x8D00620C, .send { d := 3, a := 4, b := 6 }),
    (0x8E00E412, .rpop { d := 7, a := 8, b := 9 }),
    (0xA6014583, .shufI { d := 10, a := 11, imm := 3 }),
    (0xB700C080, .mrdI { d := 6, a := 1, imm := 0 }),
    (0xC1014100, .tsdesc { d := 10, a := 2 }),
    (0xC4028100, .tsleaf { d := 20, a := 2 }),
    (0xD4004201, .cwsigI { d := 2, a := 4, imm := 1 }),
    (0xD5006208, .cwwaitI { d := 3, a := 4, imm := 8 }),
    (0xD9000001, .tret { m := true }),
    (0xDB004180, .pgsupply { d := 2, a := 3 })] = true := by decide

/-- R76's example: code A of 0xF1234567 has index 141 and code B index 359. -/
theorem test_dictionary_codes :
    ((0xF1234567 : Word32).extractLsb' 14 10).toNat = 141 ∧ ((0xF1234567 : Word32).extractLsb' 0 10).toNat = 359 := by decide

/-! ### Ill-formed instructions: one for each check of R69 to R81. -/

/-- R74: more EXT words than the format takes, and one before a format G word. -/
theorem test_ill_formed_ext : (Instr.saddR { ext := [0, 0] }).wellFormed = false ∧ (Instr.sli { ext := [0, 0, 0] }).wellFormed = false ∧
    (Instr.region { ext := [0] }).wellFormed = false := by decide

/-- R75, R69: an extension field that the entry does not use, a test of BRC above 5. -/
theorem test_ill_formed_field : (Instr.saddR { ext := [1] }).wellFormed = false ∧ (Instr.brc { cc := 6 }).wellFormed = false := by decide

/-- R71: register 63 in a kernel of 32 registers, and a tile that the kernel does not have. -/
theorem test_ill_formed_kernel :
    (Instr.vadd { d := 63 }).wellFormedIn 32 0xF = false ∧ (Instr.vadd { d := 31 }).wellFormedIn 32 0xF = true ∧
    (Instr.mzero { d := 1 }).wellFormedIn 64 0b0001 = false ∧ (Instr.mzero { d := 0 }).wellFormedIn 64 0b0001 = true := by decide

/-- R70: U = 1 outside the forms that take it. R128: MFS and MTS of numbers that name no register. -/
theorem test_ill_formed_register :
    (Instr.ret { u := true }).wellFormed = false ∧ (Instr.mfs { imm := 0x1FFF }).wellFormed = false ∧
    (Instr.mts { imm := 0 }).wellFormed = false ∧ (Instr.mts { imm := 0x011 }).wellFormed = true := by decide

/-- R164: a pair that starts at an odd register. R168: VQNT of registers that do not start at a multiple of 4. -/
theorem test_ill_formed_pairs : (Instr.vbfly { d := 1, a := 2, b := 4, ext := [0x110000] }).wellFormed = false ∧
    (Instr.vbfly { d := 8, a := 0, b := 2, ext := [0x110000] }).wellFormed = true ∧ (Instr.vqnt { d := 4, a := 2 }).wellFormed = false := by
  decide

/-- R143, R178: VTAG to a tag of 12, and VMOV of a tag of 12. -/
theorem test_ill_formed_tags : (Instr.vtagI { imm := 12 }).wellFormed = false ∧ (Instr.vtagI { imm := 11 }).wellFormed = true ∧
    (Instr.vmovL { ext := [0, 0x600000] }).wellFormed = false ∧ (Instr.vmovL { ext := [0, 0x580000] }).wellFormed = true := by decide

/-! ### One word at a time, with the results that the spec's examples give. -/

/-- The state after one word (R92). -/
def ran (i : Instr) (s : State) : State :=
  match exec i s with
  | .next t => t
  | _ => State.reset

/-- A scalar register, and a lane, once every write has completed. -/
def scalarOf (i : Instr) (s : State) (r : Nat) : Word64 := Tab.get (ran i s).w.flush.sregs 0 r
def laneOf (i : Instr) (s : State) (r l : Nat) : Lane := Tab.get (ran i s).w.flush.vregs {} (32 * r + l)

/-- s1 = −7, s2 = 2, s3 = 7, s4 = −2. -/
def sevens : State := one [] [(1, -7), (2, 2), (3, 7), (4, -2)]

/-- R111: −7 / 2 gives −3 with remainder −1; 7 / −2 gives −3 with remainder 1. -/
theorem test_sdiv : scalarOf (.sdiv { d := 5, a := 1, b := 2 }) sevens 5 = -3 ∧ scalarOf (.sdiv { d := 5, a := 3, b := 4 }) sevens 5 = -3 := by
  decide
theorem test_srem : scalarOf (.srem { d := 5, a := 1, b := 2 }) sevens 5 = -1 ∧ scalarOf (.srem { d := 5, a := 3, b := 4 }) sevens 5 = 1 := by
  decide

/-- R110: sums wrap modulo 2^64. -/
theorem test_sadd_wraps : scalarOf (.saddR { d := 1, a := 1, b := 3 }) sevens 1 = 0 := by decide

/-- R74: `sli s5, #0x12345` with its EXT word. -/
theorem test_sli_extended : scalarOf (.sli { d := 5, imm := 0x0345, ext := [9] }) sevens 5 = 0x12345 := by decide

/-- R125: CALL leaves the address of the next packet in s63. -/
theorem test_call : scalarOf (.call { imm := 30 }) sevens 63 = 65536 + 12 := by decide

/-- R166's example of an FFT stage: v0 = 1 + 2i, v2 = 3 + 4i, v4 = −i, v12 = 1. -/
def fft : State :=
  one [(0, ⟨0x3F800000, .cpx32⟩), (32, ⟨0x40000000, .f32⟩), (64, ⟨0x40400000, .cpx32⟩), (96, ⟨0x40800000, .f32⟩), (128, ⟨0, .cpx32⟩),
       (160, ⟨0xBF800000, .f32⟩), (384, ⟨1, .i32⟩)] []

theorem test_vtwid : let i : Instr := .vtwid { d := 6, a := 12, b := 2 }
    laneOf i fft 6 0 = ⟨0, .cpx32⟩ ∧ laneOf i fft 7 0 = ⟨0xBF800000, .f32⟩ := by decide +kernel

theorem test_vbfly : let i : Instr := .vbfly { d := 8, b := 2, ext := [0x110000] }
    [laneOf i fft 8 0, laneOf i fft 9 0, laneOf i fft 10 0, laneOf i fft 11 0] =
      [⟨0x40A00000, .cpx32⟩, ⟨0xBF800000, .f32⟩, ⟨0xC0400000, .cpx32⟩, ⟨0x40A00000, .f32⟩] := by decide +kernel

/-- R167: 1.5 and −0.3 to bf16, to nearest and toward zero. -/
theorem test_vcvt : let s := one [(32, ⟨0x3FC00000, .f32⟩), (64, ⟨0xBE99999A, .f32⟩)] []
    laneOf (.vcvtR { d := 3, a := 1, b := 2, ext := [0x600] }) s 3 0 = ⟨0xBE9A3FC0, .bf16x2⟩ ∧
    laneOf (.vcvtR { d := 3, a := 1, b := 2, ext := [0x400600] }) s 3 0 = ⟨0xBE993FC0, .bf16x2⟩ := by decide

/-- R183: 2^24, 1.0 and 1.0 in lanes 0 to 2 of v5, under the mask `m`. -/
def sums (m : BitVec 32) : State :=
  let s := one [(160, ⟨0x4B800000, .f32⟩), (161, ⟨0x3F800000, .f32⟩), (162, ⟨0x3F800000, .f32⟩)] []
  s.setF { s.f with mask := m }

theorem test_vred : (laneOf (.vred { d := 6, a := 5 }) (sums 7) 6 2).val = 0x4B800000 ∧
    (laneOf (.vred { d := 6, a := 5 }) (sums 6) 6 1).val = 0x40000000 ∧ laneOf (.vred { d := 6, a := 5 }) (sums 6) 6 0 = {} := by decide

theorem test_vscan : (laneOf (.vscan { d := 7, a := 5 }) (sums 7) 7 2).val = 0x4B800000 := by decide

/-- R145: f32 in lanes 0 to 15 of v6 and i32 in the others; TRAPDATA of the failure is 0x4046. -/
def split (m : BitVec 32) : State :=
  let s := one ((List.range 32).map (fun l => (192 + l, ⟨0, if l < 16 then .f32 else .i32⟩))) []
  let s := s.setTask 0 { s.task 0 with desc := { (s.task 0).desc with trapIdx := 0, frame := 4096 } }
  s.setF { s.f with mask := m }

theorem test_tag_disagrees : (ran (.vadd { d := 7, a := 6, b := 6 }) (split 0x1FFFF)).w.trapData = 0x4046 ∧
    laneOf (.vadd { d := 7, a := 6, b := 6 }) (split 0xFFFF) 7 15 = ⟨0, .f32⟩ := by decide

/-- R225's and R227's example: lanes 0 to 3 add 1, 2, 3 and 4 to words at offsets 0, 0, 4 and 0 that hold 10 and 100. -/
def adders : State :=
  let s := paged.setW { paged.w with
    vregs := [(128, ⟨1, .i32⟩), (129, ⟨2, .i32⟩), (130, ⟨3, .i32⟩), (131, ⟨4, .i32⟩), (192, ⟨0, .n32⟩), (193, ⟨0, .n32⟩),
              (194, ⟨4, .n32⟩), (195, ⟨0, .n32⟩)], bregs := [(2, { vbase := 131072, frame := 131072, limit := 65536, w := true })] }
  let s := s.setF { s.f with mask := 0xF }
  { s with mem := s.mem.write 131072 8 (10 + 100 * 2 ^ 32) }

theorem test_atm_add : let t := ran (.atmM { d := 4, base := 2, x := 6 }) adders
    [0, 1, 2, 3].map (fun l => (Tab.get t.w.flush.vregs {} (128 + l)).val) = [10, 11, 100, 13] ∧
    t.mem.read 131072 8 = 17 + 103 * 2 ^ 32 := by decide

/-- R237's example: a full ring of four slots of 48 bytes at offset 0x1000, with RHEAD 1 and RTAIL 5. -/
def fullRing : State :=
  let s := one ((List.range 8).map (fun l => (192 + l, ⟨7, .i32⟩))) [(4, 2 ^ 32 + 0x1000)]
  let s := s.setF { s.f with mask := 0xFF }
  let s := s.setWg 0 0 { s.wg 0 0 with scratch := Memory.write [] 0x1000 16 (5 + 1 * 2 ^ 32 + 2 * 2 ^ 64 + 3 * 2 ^ 68), touched := [1], pinned := [1] }
  s.setTask 0 { s.task 0 with desc := { (s.task 0).desc with scratch := 4 } }

theorem test_send_full : scalarOf (.send { d := 3, a := 4, b := 6 }) fullRing 3 = -1 := by decide

/-- R339's example: a count word that reads 7 gains 1, and the old value returns; CWWAIT for 7 returns 7 at once. -/
def sevenCount : State :=
  let s := paged.setW { paged.w with sregs := [(4, 196608)] }
  { s with mem := s.mem.write 196608 8 7 }

theorem test_cwsig : let t := ran (.cwsigI { d := 2, a := 4, imm := 1 }) sevenCount
    Tab.get t.w.flush.sregs 0 2 = 7 ∧ t.mem.read 196608 8 = 8 := by decide

theorem test_cwwait : scalarOf (.cwwaitI { d := 3, a := 4, imm := 7 }) sevenCount 3 = 7 := by decide

/-- R363's example: `trap s5, #12` with s5 = 17 gives cause 0x38C and TRAPDATA 17. -/
theorem test_trap : let s := one [] [(5, 17)]
    let s := s.setTask 0 { s.task 0 with desc := { (s.task 0).desc with trapIdx := 0, frame := 4096 } }
    (ran (.trapL { d := 5, imm := 12 }) s).w.trapCause = 0x38C ∧ (ran (.trapL { d := 5, imm := 12 }) s).w.trapData = 17 := by decide

/-- R215's example: the leaf 0x0000008123450007 maps to offset 0x123450000 of CD2; line 38,177,285 is homed at slice 5. -/
theorem test_leaf : leafOf 2 false 1 0x0000008123450007 = .leaf { pa := 0x0000008123450000, w := true } ∧
    homeSlice (0x0000008123450000 + 0x280) = 5 ∧ homeDie (0x0000008123450000 + 0x280) = 2 := by decide

/-- R319's example of R310: the scores of children 0, 1 and 2 at a root with N = 4, of root 2. -/
theorem test_score :
    let x : TreeCtx := { c := 0x3F800000, vlv := 0x3F800000 }
    let child (n vl w p : Nat) : Nat := n + vl * 2 ^ 32 + w * 2 ^ 64 + p * 2 ^ 128
    r32 (score x 0x40000000 (child 2 0 (2 ^ 32) 0x3F000000)) = 0x3F555556 ∧
    r32 (score x 0x40000000 (child 1 0 0 0x3E800000)) = 0x3E800000 ∧
    r32 (score x 0x40000000 (child 0 1 0 0x3E800000)) = 0xBF400000 := by decide +kernel

/-- R12, R64: after `nop` from reset the fragment stands at its packet's end. -/
theorem test_step_nop : (after 0).module.fatal = none ∧ (after 0).mem = (State.reset.withFetchWord 32 0).mem := by decide

/-- R355: an SADD whose operand bus has failed traps with DATAPATH of the S pipe, and writes nothing. -/
def struck : State :=
  let s := State.reset.withFetchWord 32 (0x16 * 2 ^ 24 + 1 * 2 ^ 13 + 7)
  let s := s.setTask 0 { s.task 0 with desc := { (s.task 0).desc with trapIdx := 0, frame := 4096 } }
  match step { s with turns := [.strike 0 0 0 0 0 (BitVec.allOnes 32) 40 0] } with
  | .next t => t
  | _ => State.reset

theorem test_strike : (struck.warp 0 0).trapCause = 0x2E8 ∧ (struck.warp 0 0).flush.sregs = [] := by decide

end Sys2Proof.Tests
end

namespace Sys2Proof.Machine

/-! ### The control windows (R393): whose registers an offset reads. -/

theorem State.readReg_queue (s : State) {d q o : Nat} (hq : q < 32) (ho : o < 128) :
    s.readReg d (0x10000 + 128 * q + o) = (s.queue d q).readReg o := by
  simp only [State.readReg]
  rw [if_neg (by omega), if_pos (by simp; omega)]
  congr 2 <;> omega

theorem State.readReg_io (s : State) {o : Nat} (ho : 0x20000 ≤ o) : s.readReg 0 o = s.readIo o := by
  simp only [State.readReg, if_pos ho, if_true]

theorem State.readReg_port (s : State) {p o : Nat} (hp : p < 16) (ho : o < 64) :
    s.readReg 0 (0x20000 + 64 * p + o) = (s.port p).readReg o := by
  rw [s.readReg_io (by omega)]
  simp only [State.readIo]
  rw [if_neg (by simp; omega), if_neg (by simp; omega), if_neg (by simp; omega), if_neg (by omega), if_neg (by omega),
    if_pos (by simp; omega)]
  congr 2 <;> omega

theorem State.readReg_import (s : State) {e o : Nat} (he : e < 4096) (ho : o < 32) :
    s.readReg 0 (0x40000 + 32 * e + o) = (Tab.get s.io.imports {} e).readReg o := by
  rw [s.readReg_io (by omega)]
  simp only [State.readIo]
  rw [if_pos (by simp; omega)]
  congr 2 <;> omega

/-! ### Registers that nothing has written. -/

@[simp] theorem Queue.readReg_default (o : Nat) : ({} : Queue).readReg o = 0 := by
  unfold Queue.readReg
  split <;> rfl

@[simp] theorem Port.readReg_default (o : Nat) : ({} : Port).readReg o = 0 := by
  unfold Port.readReg
  split <;> rfl

@[simp] theorem Import.readReg_default (o : Nat) : ({} : Import).readReg o = 0 := by
  unfold Import.readReg
  split <;> rfl

/-! ### The state after reset. -/

@[simp] theorem State.device_reset (d : Nat) : State.reset.device d = {} := rfl
@[simp] theorem State.halted_reset (d : Nat) : State.reset.halted d = false := rfl
@[simp] theorem State.groups_reset : State.reset.groups = [] := rfl

theorem Device.quanta_default : ({} : Device).quanta = [32, 160, 96, 96, 16, 32, 16] := rfl

theorem State.readReg_quanta (s : State) (d : Nat) :
    s.readReg d 0xC000 = (s.device d).quanta.foldr (fun q acc => q + 256 * acc) 0 := by
  simp [State.readReg]

/-- The reset column of the quantum register, its seven bytes joined. -/
theorem State.readReg_quanta_reset (d : Nat) : State.reset.readReg d 0xC000 =
    32 + 160 * 2 ^ 8 + 96 * 2 ^ 16 + 96 * 2 ^ 24 + 16 * 2 ^ 32 + 32 * 2 ^ 40 + 16 * 2 ^ 48 := by
  rw [State.readReg_quanta, State.device_reset, Device.quanta_default]
  decide

/-- The reset columns of the pre-emption, debug and group registers. -/
theorem State.readReg_reset_preempt (d : Nat) :
    let s := State.reset
    s.readReg d 0x9000 = 0x800 ∧ s.readReg d 0x9008 = 0 ∧ s.readReg d 0x9010 = 7 ∧ s.readReg d 0x9018 = 0 ∧
    s.readReg d 0x9100 = 0 ∧ s.readReg d 0xA000 = 0x4000 ∧ s.readReg d 0xA008 = 4096 + 32768 * 2 ^ 16 := by
  simp [State.readReg, bit]

/-- The reset columns of the walk, dispatcher and held-task registers. -/
theorem State.readReg_reset_dispatch (d : Nat) :
    let s := State.reset
    s.readReg d 0xD000 = 0 ∧ s.readReg d 0xD028 = 0 ∧ s.readReg d 0xE000 = 16 + 32 ∧ s.readReg d 0xE008 = 0x01000000 ∧
    s.readReg d 0xE010 = 0xFFFFFFFFFFFF ∧ s.readReg d 0xE018 = 0 ∧ s.readReg d 0xF008 = 0 := by
  simp [State.readReg, bit, Tab.get, Tab.find, HeldSlot.read]

/-- Settles O60: every block of registers reads as the reset value of its table, and every other register by evaluation. -/
theorem resetState : Obligations.ResetState := by
  unfold Obligations.ResetState
  refine ⟨rfl, fun _ => rfl, rfl, rfl, rfl, rfl, fun d q o _ hq ho => ?_, fun d _ => ?_,
    fun p o hp ho => ?_, rfl, fun e o he ho => ?_, rfl, rfl, rfl, rfl⟩
  · rw [State.readReg_queue _ hq ho]
    exact Queue.readReg_default o
  · obtain ⟨h1, h2, h3, h4, h5, h6, h7⟩ := State.readReg_reset_preempt d
    exact ⟨h1, h2, h3, h4, h5, h6, h7, State.readReg_quanta_reset d, State.readReg_reset_dispatch d⟩
  · rw [State.readReg_port _ hp ho]
    exact Port.readReg_default o
  · rw [State.readReg_import _ he ho]
    exact Import.readReg_default o

end Sys2Proof.Machine

/-! ## Every step keeps the canonical form of memory (O59, log 3)

`State.Safe` speaks of `mem` alone. For each function of the model that a step uses, a lemma `State.Safe.f` says that it
keeps the form: by `h` itself where the function leaves `mem` as it is, by `Memory.wf_put` and `Memory.wf_write` where it
stores bytes, and otherwise by the lemmas of the functions that it calls. Chains such as `h.setWarp.setCore` follow the
calls; a function with many branches is split along them by `fun_cases`, and the lemmas of its callees close each branch. -/

namespace Sys2Proof.Machine

/-! ### The canonical form of a list of cells -/

namespace Memory

/-- The form, said of the list: rising addresses, and no cell that holds what an unlisted address reads as. -/
theorem wf_iff (m : Memory) :
    m.wf = true ↔ m.Pairwise (fun e e' => e.1 < e'.1) ∧ ∀ e ∈ m, e.2 ≠ Memory.fill := by
  induction m with
  | nil => simp [Memory.wf]
  | cons e t ih =>
    obtain ⟨a, b⟩ := e
    rw [Memory.wf_cons, ih, List.pairwise_cons, List.forall_mem_cons]
    constructor
    · rintro ⟨hb, ha, hp, hf⟩
      refine ⟨⟨fun e he => ?_, hp⟩, hb, hf⟩
      cases t with
      | nil => cases he
      | cons d t =>
        rcases List.mem_cons.1 he with rfl | he
        · exact ha
        · exact Nat.lt_trans ha ((List.pairwise_cons.1 hp).1 e he)
    · rintro ⟨⟨ha, hp⟩, hb, hf⟩
      refine ⟨hb, ?_, hp, hf⟩
      cases t with
      | nil => trivial
      | cons d t => exact ha d List.mem_cons_self

theorem wf_filter {m : Memory} (h : m.wf = true) (p : Host.Cell → Bool) : Memory.wf (m.filter p) = true := by
  obtain ⟨hp, hf⟩ := (wf_iff m).1 h
  exact (wf_iff _).2 ⟨hp.filter p, fun e he => hf e (List.mem_filter.1 he).1⟩

theorem wf_spoilMem {x : Word64} {before after : Memory} (h : after.wf = true) : (spoilMem x before after).wf = true :=
  List.foldlRecOn (motive := fun t : Memory => t.wf = true) _ _ h fun _ ht _ _ => Memory.wf_put _ _ _ ht

theorem wf_unflip {m before wrong : Memory} {a : Nat} (h : m.wf = true) : (m.unflip before wrong a).wf = true := by
  refine List.foldlRecOn (motive := fun t : Memory => t.wf = true) _ _ h fun t ht i _ => ?_
  split
  · exact Memory.wf_put _ _ _ ht
  · exact ht

end Memory

/-! ### The form of what an operation answers -/

/-- The state that the answer of a word holds has the form. -/
def Res.Safe : Res → Prop
  | .done s => s.Safe
  | .trap s _ _ => s.Safe
  | .wait s _ => s.Safe

/-- The state that a stage of a tree word leaves has the form. -/
def Micro.Safe : Micro → Prop
  | .go s _ => s.Safe
  | .done s _ => s.Safe
  | .trap s _ _ => s.Safe
  | .wait s _ => s.Safe

/-- The state that a test of a task's addresses leaves has the form. -/
def Test.Safe : Test → Prop
  | .pass _ s => s.Safe
  | .fail s => s.Safe
  | .hold s => s.Safe

/-- The next state, where there is one, has the form. -/
def NextSafe (r : Host.Outcome State Fault Refusal) : Prop := ∀ t, r = .next t → t.Safe

namespace State.Safe

/-- A fold keeps the form when its step does. -/
theorem foldl {α : Type} {s : State} {l : List α} {f : State → α → State} (h : s.Safe)
    (hf : ∀ t x, t.Safe → (f t x).Safe) : (l.foldl f s).Safe :=
  List.foldlRecOn l f h fun t ht x _ => hf t x ht

theorem of_eq {α : Type} {p : α × State} {a : α} {t : State} (h : p.2.Safe) (e : p = (a, t)) : t.Safe := by
  rw [e] at h
  exact h

theorem fst_of_eq {α : Type} {p : State × α} {a : α} {t : State} (h : p.1.Safe) (e : p = (t, a)) : t.Safe := by
  rw [e] at h
  exact h

theorem ite {s t : State} {c : Prop} [Decidable c] (hs : s.Safe) (ht : t.Safe) : (if c then s else t).Safe := by
  split
  · exact hs
  · exact ht

variable {s : State} (h : s.Safe)
include h

theorem done : (Res.done s).Safe := h

theorem trap {c d} : (Res.trap s c d).Safe := h

theorem wait {p} : (Res.wait s p).Safe := h

theorem next : NextSafe (.next s) := by
  rintro t ⟨⟩
  exact h

theorem mgo {st} : (Micro.go s st).Safe := h

theorem mdone {v} : (Micro.done s v).Safe := h

theorem mtrap {c d} : (Micro.trap s c d).Safe := h

theorem mwait {p} : (Micro.wait s p).Safe := h

theorem flip {a : Nat} {x : Word64} : State.Safe { s with mem := s.mem.flip a x } := Memory.wf_write _ _ _ _ h

end State.Safe

/-! ### Tables and the places of the state -/

namespace State.Safe

variable {s : State} (h : s.Safe)
include h

theorem setCore {c x} : (s.setCore c x).Safe := h

theorem setWarp {c k w} : (s.setWarp c k w).Safe := h.setCore

theorem setFrag {c k f x} : (s.setFrag c k f x).Safe := h.setWarp

theorem setWg {c g x} : (s.setWg c g x).Safe := h.setCore

theorem setQuad {c q x} : (s.setQuad c q x).Safe := h.setCore

theorem setDevice {d x} : (s.setDevice d x).Safe := h

theorem setQueue {d q x} : (s.setQueue d q x).Safe := h.setDevice

theorem setTask {t x} : (s.setTask t x).Safe := h

theorem setGroup {i g} : (s.setGroup i g).Safe := h

theorem setPort {p x} : (s.setPort p x).Safe := h

theorem send {o} : (s.send o).Safe := h

theorem setW {w} : (s.setW w).Safe := h.setWarp

theorem setF {f} : (s.setF f).Safe := h.setFrag

theorem setG {g} : (s.setG g).Safe := h.setWg

end State.Safe

/-! ### The named operations over the state -/

namespace State.Safe

variable {s : State} (h : s.Safe)
include h

theorem putFor {c k issue ord lat xs} : (s.putFor c k issue ord lat xs).Safe := h.setWarp

theorem putAll {lat xs} : (s.putAll lat xs).Safe := h.putFor

theorem put {lat x} : (s.put lat x).Safe := h.putAll

theorem putS {lat r v} : (s.putS lat r v).Safe := h.put

theorem putLanes {lat r m f} : (s.putLanes lat r m f).Safe := h.putAll

end State.Safe

theorem Res.Safe.bind {r : Res} (hr : r.Safe) {f : State → Res} (hf : ∀ t : State, t.Safe → (f t).Safe) :
    (Res.bind r f).Safe := by
  fun_cases Machine.Res.bind <;> grind [Res.Safe]

namespace State.Safe

variable {s : State} (h : s.Safe)
include h

theorem noteEntry {m seq} : (s.noteEntry m seq).Safe := h.setTask

theorem writeEvent {e task who} : (s.writeEvent e task who).Safe := by
  rw [State.Safe, State.writeEvent_mem]
  split
  · exact Memory.wf_write _ _ _ _ h
  · exact h

theorem logEvent {e} : (s.logEvent e).Safe := by
  rw [State.logEvent]
  refine State.Safe.writeEvent ?_
  exact h

theorem logWarp {c k e} : (s.logWarp c k e).Safe := h.logEvent

theorem setWatch {pa x} : (s.setWatch pa x).Safe := h.setDevice

theorem register {pa c} : (s.register pa c).1.Safe := by
  fun_cases State.register <;> grind [setDevice, setWatch]

theorem deregister {pa r} : (s.deregister pa r).Safe := by
  fun_cases State.deregister <;> grind [setWatch]

theorem wakeWord {pa} : (s.wakeWord pa).Safe := h.foldl fun _ _ ht => ht.setCore

theorem setPhase {r p} : (s.setPhase r p).Safe := by
  fun_cases State.setPhase <;> grind [setGroup, setTask]

theorem focusOn {c k f} : (s.focusOn c k f).Safe := h

theorem finishWith {c k f d v} : (s.finishWith c k f d v).Safe := h.putFor.setFrag

theorem completePhase {r} : (s.completePhase r).Safe := by
  fun_cases State.completePhase
  · exact h
  · exact h.setPhase.foldl fun _ _ ht => ht.finishWith.setWarp

theorem departFrom {r m fault} : (s.departFrom r m fault).Safe := by
  fun_cases State.departFrom
  grind [setPhase, setGroup, completePhase]

theorem departAll {m unit fault} : (s.departAll m unit fault).Safe :=
  (h.setTask.foldl fun _ _ ht => ht.departFrom).departFrom.departFrom

theorem freeSplit {c q key} : (s.freeSplit c q key).Safe := by
  fun_cases State.freeSplit <;> grind [setQuad]

theorem mergeAt {c k tok release} : (s.mergeAt c k tok release).Safe := by
  fun_cases State.mergeAt
  · exact h
  · exact h
  · exact h
  · exact h.setWarp.foldl fun _ _ ht => ht.freeSplit

theorem mergeAll {c k} : (s.mergeAll c k).Safe := h.setWarp.foldl fun _ _ ht => ht.mergeAt

theorem endWaiting {c k f} : (s.endWaiting c k f).Safe := by
  fun_cases State.endWaiting <;> grind [deregister, setFrag]

theorem stopWaiting : s.stopWaiting.Safe := h.endWaiting

theorem withdraw {c k f} : (s.withdraw c k f).Safe := by
  fun_cases State.withdraw
  · exact h.endWaiting.deregister
  · exact State.Safe.setWarp (h.endWaiting.foldl fun _ _ ht => .ite ht.setPhase ht)
  · exact h.endWaiting

theorem dropReqs {c k all} : (s.dropReqs c k all).Safe := h

theorem clearProgress {c k} : (s.clearProgress c k).Safe := h.setWarp.dropReqs

theorem endWarp {c k fault} : (s.endWarp c k fault).Safe :=
  ((h.foldl fun _ _ ht => ht.withdraw).dropReqs.departAll.foldl fun _ _ ht => ht.freeSplit).setTask.setWg.setCore

theorem taskFault {t status cause} : (s.taskFault t status cause).Safe := by
  fun_cases State.taskFault <;> grind [setTask]

theorem faultWarp {c k cause pc data aux} : (s.faultWarp c k cause pc data aux).Safe :=
  h.setWarp.logWarp.taskFault.endWarp

theorem exitLanes {c k key st} : (s.exitLanes c k key st).Safe := by
  fun_cases State.exitLanes <;> grind [setWarp, dropReqs, freeSplit, endWarp, mergeAll]

theorem enterHandler {decodeFault} : (s.enterHandler decodeFault).Safe := h.setW

theorem debugPark : s.debugPark.Safe := h.setF.setW.send

theorem takeTrap {cause data decodeFault} : (s.takeTrap cause data decodeFault).Safe := by
  fun_cases State.takeTrap <;> grind [setF, setW, debugPark, faultWarp, enterHandler, State.Safe]

end State.Safe

/-- Whatever a word answers, the state it leaves has the form. -/
theorem Res.Safe.out {r : Res} (hr : r.Safe) : NextSafe (Res.out r) := by
  fun_cases Machine.Res.out <;> grind [State.Safe.takeTrap, State.Safe.setF, NextSafe, Res.Safe, State.Safe]

namespace State.Safe

variable {s : State} (h : s.Safe)
include h

theorem returnFromTrap {next} : (s.returnFromTrap next).Safe := by
  fun_cases State.returnFromTrap <;> grind [setW, clearProgress, Res.Safe]

end State.Safe

/-! ### Classes, page tables and the TLB -/

namespace State.Safe

variable {s : State} (h : s.Safe)
include h

theorem tellCore {c key seen} : (s.tellCore c key seen).Safe := h.setCore

theorem recordPage {fn page key} : (s.recordPage fn page key).Safe := h

theorem unrecord {key} : (s.unrecord key).Safe := h

theorem reclassify {key c} : (s.reclassify key c).Safe := by
  refine State.Safe.foldl h fun t p ht => ?_
  cases p with
  | core n => exact ht.tellCore
  | inbound => exact ht.unrecord
  | _ => exact ht

theorem mapL1 {f} : (s.mapL1 f).Safe := h

theorem dropLines {a b} : (s.dropLines a b).Safe := h.mapL1

theorem dropPage {key} : (s.dropPage key).Safe := h.dropLines

theorem shareLine {line} : (s.shareLine line).Safe := h.mapL1

theorem fillLine {c line owned} : (s.fillLine c line owned).Safe := h.setCore

theorem markUsed {pfn accessed dirty} : (s.markUsed pfn accessed dirty).Safe := h

theorem cacheAccess {core mine write pa} : (s.cacheAccess core mine write pa).Safe := by
  fun_cases State.cacheAccess <;> grind [markUsed, dropLines, shareLine, fillLine]

theorem askDrain {key r} : (s.askDrain key r).Safe := by
  refine State.Safe.foldl h fun t p ht => ?_
  cases p with
  | core n => exact ht.setCore
  | _ => exact ht

theorem ctPage {pfn} : (s.ctPage pfn).2.Safe := by
  fun_cases State.ctPage <;> grind [State.Safe]

theorem ctAccess {pa write} : (s.ctAccess pa write).Safe := by
  fun_cases State.ctAccess
  grind [ctPage, reclassify, dropPage, cacheAccess, State.Safe]

theorem hostEnds : s.hostEnds.2.Safe := h

theorem walkEntry {dev va shift pa} : (s.walkEntry dev va shift pa).2.Safe := by
  fun_cases State.walkEntry <;> grind [ctAccess, hostEnds]

theorem walkFrom {dev va pa shifts} : (s.walkFrom dev va pa shifts).2.Safe := by
  fun_induction State.walkFrom <;> grind [walkEntry]

theorem countWalk {dev} : (s.countWalk dev).Safe := h.setDevice

theorem walkTable {dev va} : (s.walkTable dev va).2.Safe := by
  fun_cases State.walkTable <;> grind [countWalk, walkFrom]

theorem walkOn {dev va} : (s.walkOn dev va).2.Safe := by
  fun_cases State.walkOn <;> grind [walkTable, setDevice, walkFrom, countWalk]

theorem walkAhead {dev page} : (s.walkAhead dev page).Safe := by
  fun_cases State.walkAhead <;> grind [setDevice, walkEntry, countWalk]

theorem walk {dev va} : (s.walk dev va).2.Safe := by
  fun_cases State.walk <;> grind [walkOn]

theorem enterTlb {c va w} : (s.enterTlb c va w).Safe := by
  fun_cases State.enterTlb <;> grind [setCore]

theorem missWalk {c va} : (s.missWalk c va).2.Safe := by
  fun_cases State.missWalk <;> grind [walkFrom, countWalk, setCore, walkTable]

theorem tlbWalk {c va} : (s.tlbWalk c va).2.Safe := by
  fun_cases State.tlbWalk <;> grind [missWalk, enterTlb]

theorem stepWalk {c j} : (s.stepWalk c j).Safe := by
  fun_cases State.stepWalk <;> grind [setCore, walkEntry, enterTlb, countWalk]

theorem learn {c va l} : (s.learn c va l).Safe := by
  fun_cases State.learn <;> grind [setCore]

theorem invalRange {dev page n} : (s.invalRange dev page n).Safe := h

theorem classNow {p w key write queue} : (s.classNow p w key write queue).2.Safe := by
  fun_cases State.classNow <;> grind [askDrain, dropPage, reclassify, State.Safe]

theorem classAccess {p w drains key write} : (s.classAccess p w drains key write).2.Safe := by
  fun_cases State.classAccess <;> grind [classNow, State.Safe]

theorem nameMapping {key dev page} : (s.nameMapping key dev page).Safe := by
  fun_cases State.nameMapping <;> grind [dropPage, State.Safe]

end State.Safe

/-! ### The control windows -/

namespace State.Safe

variable {s : State} (h : s.Safe)
include h

theorem ringPages {d pages} : (s.ringPages d pages).2.Safe := by
  fun_induction State.ringPages <;> grind [walk]

theorem ringFrames {d base n} : (s.ringFrames d base n).2.Safe := by
  fun_cases State.ringFrames <;> grind [ringPages]

theorem enableQueue {d q} : (s.enableQueue d q).Safe := by
  fun_cases State.enableQueue <;> grind [setQueue, ringFrames]

theorem disableQueue {d q} : (s.disableQueue d q).Safe := h.setQueue

theorem writeQtail {d q v} : (s.writeQtail d q v).Safe := by
  fun_cases State.writeQtail <;> grind [setQueue, logEvent]

theorem writeQchead {d q v} : (s.writeQchead d q v).Safe := by
  fun_cases State.writeQchead <;> grind [setQueue]

theorem enableLog : s.enableLog.Safe := by
  fun_cases State.enableLog
  · exact h
  · exact State.Safe.foldl h fun _ _ ht => ht.writeEvent

theorem writeElhead {v} : (s.writeElhead v).Safe := by
  fun_cases State.writeElhead <;> grind [State.Safe]

theorem unparkWaiter {w} : (s.unparkWaiter w).Safe := by
  fun_cases State.unparkWaiter <;> grind [setFrag]

theorem wakeWaiter {w} : (s.wakeWaiter w).Safe := by
  fun_cases State.wakeWaiter <;> grind [setFrag, setTask, setDevice, setCore, State.Safe]

theorem noteRetrain {p} : (s.noteRetrain p).Safe := h.setPort

theorem reroute {i r} : (s.reroute i r).Safe := by
  fun_cases State.reroute <;> grind [unparkWaiter, State.Safe]

theorem linkDown {p} : (s.linkDown p).Safe := by
  have hs : (if (s.port p).state = 3 then s.noteRetrain p else s).Safe := .ite h.noteRetrain h
  exact (hs.setPort.logEvent.foldl fun _ _ ht => ht.send).foldl fun _ _ ht => .ite ht.reroute ht

theorem startRetrain {p} : (s.startRetrain p).Safe := by
  fun_cases State.startRetrain <;> grind [logEvent, send, setPort]

theorem forceRetrain {p} : (s.forceRetrain p).Safe := h.setPort.startRetrain

theorem writePortEn {p en} : (s.writePortEn p en).Safe := by
  fun_cases State.writePortEn <;> grind [setPort, linkDown]

theorem startCommand {d} : (s.startCommand d).Safe := by
  fun_cases State.startCommand <;> grind [setDevice]

theorem endMailbox {st} : (s.endMailbox st).Safe := by
  fun_cases State.endMailbox <;> grind [send, State.Safe]

theorem startMailbox : s.startMailbox.Safe := by
  fun_cases State.startMailbox <;> grind [endMailbox, State.Safe]

theorem startPreempt {d} : (s.startPreempt d).Safe := by
  fun_cases State.startPreempt <;> grind [setDevice]

theorem writeHalt {d on} : (s.writeHalt d on).Safe := by
  fun_cases State.writeHalt <;> grind [logEvent, setDevice]

theorem writeQueueReg {d q o v m} : (s.writeQueueReg d q o v m).Safe := by
  fun_cases State.writeQueueReg <;> grind [setQueue, disableQueue, enableQueue, writeQtail, writeQchead]

theorem resetModule : s.resetModule.Safe := Memory.wf_filter h _

theorem startReset {d} : (s.startReset d).Safe := h

theorem writeModule {o v mask} : (s.writeModule o v mask).Safe := by
  fun_cases State.writeModule <;> grind [enableLog, writeElhead, startReset, resetModule, startMailbox, State.Safe]

theorem writeIo {o v m} : (s.writeIo o v m).Safe := by
  fun_cases State.writeIo <;> grind [writeModule, setPort, writePortEn, forceRetrain, State.Safe]

theorem writeDev {d o v m} : (s.writeDev d o v m).Safe := by
  fun_cases State.writeDev <;> grind [setDevice, startCommand, startPreempt, writeHalt]

theorem writeReg {d o v m} : (s.writeReg d o v m).Safe := by
  fun_cases State.writeReg <;> grind [writeIo, writeQueueReg, setQueue, writeDev]

theorem hostWrite {d o} {t : State} (ht : t.Safe) : (s.hostWrite d o t).Safe := by
  fun_cases State.hostWrite <;> grind

theorem ctlWrite {d o n v} : (s.ctlWrite d o n v).Safe := by
  fun_cases State.ctlWrite
  grind [hostWrite, writeReg]

theorem windowRead {d o n} : (s.windowRead d o n).Safe := h.hostWrite h.send

theorem inOrder {x} {t : State} (ht : t.Safe) : (s.inOrder x t).Safe := by
  fun_cases State.inOrder <;> grind

end State.Safe

/-! ### One memory access -/

namespace State.Safe

variable {s : State} (h : s.Safe)
include h

theorem perform {pa type op} : (s.perform pa type op).2.Safe := by
  have hw (n v : Nat) : State.Safe { s with mem := s.mem.write pa n v } := Memory.wf_write _ _ _ _ h
  cases op with
  | read n => exact h
  | write n v => exact hw _ _
  | atm o tag x y => exact hw _ _
  | atms o tag xs => exact hw _ _
  | xadd x => exact hw _ _
  | xrd rm f => exact h
  | xclr => exact hw _ _
  | cwAdd v sat =>
    simp only [State.perform]
    split
    · exact (hw _ _).wakeWord
    · split
      · exact (hw _ _).wakeWord
      · exact h
  | cwSet v =>
    simp only [State.perform]
    split
    · exact h
    · exact hw _ _
  | cwRead => exact h
  | node op => exact hw _ _

theorem readPager {dev i type} : (s.readPager dev i type).2.Safe := by
  fun_cases State.readPager <;> grind [ctAccess, hostEnds]

theorem pagerLost {a dev i va c} : (s.pagerLost a dev i va c).2.Safe := by
  fun_cases State.pagerLost
  grind [logEvent]

theorem notPresent {dev pgr va a here} : (s.notPresent dev pgr va a here).2.Safe := by
  fun_cases State.notPresent <;> grind [readPager, pagerLost, setDevice]

theorem reportFirst {before x va} : (s.reportFirst before x va).Safe := by
  fun_cases State.reportFirst <;> grind [setDevice]

theorem dropReq {i} : (s.dropReq i).Safe := h

theorem hostLoad {a pa op} : (s.hostLoad a pa op).2.Safe := by
  fun_cases State.hostLoad <;> grind [dropReq, State.Safe]

theorem performFor {a pa va op} : (s.performFor a pa va op).2.Safe := by
  fun_cases State.performFor <;> grind [perform, logEvent]

theorem hostNow {a pa va op} : (s.hostNow a pa va op).2.Safe := by
  fun_cases State.hostNow <;> grind [hostEnds, performFor]

theorem classFor {a l va write} : (s.classFor a l va write).2.Safe := by
  fun_cases State.classFor <;> grind [classAccess, nameMapping]

theorem unreadable {a pa va} : (s.unreadable a pa va).2.Safe := h.logEvent

theorem meet {a hit} : (s.meet a hit).2.Safe := by
  fun_cases State.meet <;> grind [State.Safe]

theorem homeAccessAt {a l va op} : (s.homeAccessAt a l va op).2.Safe := by
  fun_cases State.homeAccessAt <;> grind [ctlWrite, hostNow, hostLoad, performFor, classFor, meet, unreadable,
      cacheAccess, learn, State.Safe]

theorem performNow {a l va op} : (s.performNow a l va op).2.Safe := by
  fun_cases State.performNow <;> grind [unreadable, performFor, cacheAccess]

theorem targetFault {dev a va c} : (s.targetFault dev a va c).2.Safe := by
  fun_cases State.targetFault <;> grind [logEvent]

theorem targetLeaf {dev a va op} : (s.targetLeaf dev a va op).2.Safe := by
  fun_cases State.targetLeaf <;> grind [targetFault, walk, unreadable, notPresent]

theorem targetAccess {dev a va op} : (s.targetAccess dev a va op).2.Safe := by
  fun_cases State.targetAccess <;> grind [targetLeaf, homeAccessAt, targetFault]

theorem remoteAccess {a e va op} : (s.remoteAccess a e va op).2.Safe := by
  fun_cases State.remoteAccess <;> grind [dropReq, State.Safe]

theorem nearAccess {a e page va op} : (s.nearAccess a e page va op).2.Safe := by
  fun_cases State.nearAccess <;> grind [dropReq, targetAccess, State.Safe]

theorem peerAccess {a l va op} : (s.peerAccess a l va op).2.Safe := by
  fun_cases State.peerAccess <;> grind [nearAccess, remoteAccess]

theorem accessLeaf {a l va op} : (s.accessLeaf a l va op).2.Safe := by
  fun_cases State.accessLeaf <;> grind [peerAccess, homeAccessAt]

theorem translate {a va} : (s.translate a va).2.Safe := by
  fun_cases State.translate <;> grind [tlbWalk, walk]

theorem takeFailed {a va} : (s.takeFailed a va).2.Safe := by
  fun_cases State.takeFailed <;> grind [setFrag]

theorem dropWaiter {w} : (s.dropWaiter w).Safe := h

theorem dropNear {w} : (s.dropNear w).Safe := h

theorem access {a via va op} : (s.access a via va op).2.Safe := by
  fun_cases State.access <;> grind [takeFailed, accessLeaf, dropNear, translate, unreadable, notPresent]

theorem readPieces {a pieces sh acc} : (s.readPieces a pieces sh acc).2.Safe := by
  fun_induction State.readPieces <;> grind [access]

theorem readBytes {a va n} : (s.readBytes a va n).2.Safe := by
  fun_cases State.readBytes <;> grind [readPieces]

theorem writePieces {a pieces v} : (s.writePieces a pieces v).2.Safe := by
  fun_induction State.writePieces <;> grind [access]

theorem writeBytes {a va n v} : (s.writeBytes a va n v).2.Safe := by
  fun_cases State.writeBytes <;> grind [writePieces]

theorem stop {r data} : (Acc.stop r s data).Safe := by
  fun_cases Machine.Acc.stop <;> grind [Res.Safe]

end State.Safe

/-! ### Vector operands -/

namespace State.Safe

variable {s : State} (h : s.Safe)
include h

theorem run {α : Type} {c} {f : α → Res} (hf : ∀ a, (f a).Safe) : (Chk.run c s f).Safe := by
  fun_cases Machine.Chk.run <;> grind [Res.Safe]

theorem putElems {lat d t f} : (s.putElems lat d t f).Safe := h.putAll

end State.Safe

/-! ### Scalar instructions -/

namespace State.Safe

variable {s : State} (h : s.Safe)
include h

theorem scalarR {o lat f} : (s.scalarR o lat f).Safe := h.putS.done

theorem scalarI {o lat f} : (s.scalarI o lat f).Safe := h.putS.done

theorem execMfs {o} : NextSafe (execMfs o s) := by
  fun_cases Machine.execMfs
  grind [Res.Safe.out, putLanes, putS, Res.Safe]

end State.Safe

/-! ### Control transfer -/

namespace State.Safe

variable {s : State} (h : s.Safe)
include h

theorem transfer {t} : (s.transfer t).Safe := h.setF

theorem execBrc {o} : NextSafe (execBrc o s) := by
  fun_cases Machine.execBrc
  grind [Res.Safe.out, transfer, Res.Safe]

theorem split {t target e} : (s.split t target e).Safe := h.setQuad.setF.setFrag

theorem execBrv {o} : NextSafe (execBrv o s) := by
  fun_cases Machine.execBrv
  grind [Res.Safe.out, run, split, setF, transfer, Res.Safe]

theorem execRcv {o} : NextSafe (execRcv o s) := by
  fun_cases Machine.execRcv
  grind [Res.Safe.out, setW, setF, NextSafe, Res.Safe]

theorem execJmpi {o} : NextSafe (execJmpi o s) := by
  fun_cases Machine.execJmpi
  grind [putS, Res.Safe.out, transfer, Res.Safe]

end State.Safe

/-! ### Memory instructions -/

namespace State.Safe

variable {s : State} (h : s.Safe)
include h

theorem backingOp {c task va op} : (s.backingOp c task va op).2.Safe := by
  fun_cases State.backingOp <;> grind [translate, walkTable, unreadable, accessLeaf, performNow]

theorem backingLines {c task va n} : (s.backingLines c task va n).2.Safe := by
  fun_induction State.backingLines <;> grind [backingOp]

theorem backingStore {c task va n v} : (s.backingStore c task va n v).2.Safe := by
  fun_induction State.backingStore with
  | case1 => exact h
  | case2 s va n v r t e ih => exact ih (h.backingOp.of_eq e)
  | case3 s va n v c t e => exact h.backingOp.of_eq e

theorem writeBacking {c task ps v} : (s.writeBacking c task ps v).2.Safe := by
  fun_induction State.writeBacking <;> grind [backingStore, State.Safe]

theorem readBacking {c task ps sh acc} : (s.readBacking c task ps sh acc).2.Safe := by
  fun_induction State.readBacking <;> grind [backingLines]

theorem pin {c g ps} : (s.pin c g ps).Safe := by
  fun_induction State.pin <;> grind [readBacking, setWg]

theorem scratchOp {c g off op} : (s.scratchOp c g off op).2.Safe := by
  fun_cases State.scratchOp <;> grind [pin, setWg]

theorem scratchRead {c g off n} : (s.scratchRead c g off n).2.Safe := h.scratchOp

theorem scratchWrite {c g off n v} : (s.scratchWrite c g off n v).Safe := h.scratchOp

theorem commit : s.commit.Safe := h.setW

theorem logAll {rs} : ∀ t, s.logAll rs = some t → t.Safe := by
  fun_cases State.logAll <;> grind [setCore]

end State.Safe

theorem Pass.step_safe {p : Pass} (hp : p.s.Safe) {r rest} : (Pass.step p r rest).s.Safe := by
  fun_cases Machine.Pass.step <;> grind [State.Safe.meet, State.Safe.scratchOp, State.Safe.access, State.Safe.commit,
      State.Safe.reportFirst]

theorem Pass.run_safe {p : Pass} (hp : p.s.Safe) {may reqs} : (Pass.run p may reqs).s.Safe := by
  fun_induction Machine.Pass.run <;> grind [Pass.step_safe]

namespace State.Safe

variable {s : State} (h : s.Safe)
include h

theorem passPage {fl page rest} : (s.passPage fl page rest).s.Safe := by
  fun_cases State.passPage <;> grind [Pass.run_safe, logAll, commit]

theorem keepFlight {fl} : (s.keepFlight fl).Safe := by
  fun_cases State.keepFlight <;> grind [setW, putAll]

theorem dropImage {fl p} : (s.dropImage fl p).Safe := by
  fun_cases State.dropImage <;> grind [State.Safe]

theorem landed : s.landed.Safe := h.setF

theorem fly {n fl} : (s.fly n fl).Safe := by
  fun_induction State.fly <;> grind [setF, keepFlight, passPage, dropImage, Res.Safe, State.Safe]

theorem begun {commits fl reqs} : (s.begun commits fl reqs).Safe := by
  fun_cases State.begun <;> grind [commit]

theorem noting {strict} : (s.noting strict).Safe := h

theorem runFlight {begin_ commits} {done : State → Flight → Res} (hdone : ∀ (t : State) fl, t.Safe → (done t fl).Safe) :
    (s.runFlight begin_ commits done).Safe := by
  fun_cases State.runFlight <;> grind [Res.Safe.bind, landed, noting, setW, fly, run, commit, begun, Res.Safe]

theorem load {fm u d w} : (s.load fm u d w).Safe := by
  rw [State.load]
  exact h.runFlight fun _ _ ht => ht.putAll.done

theorem store {fm u d w} : (s.store fm u d w).Safe := h.runFlight fun _ _ ht => ht.done

theorem atomic {fm u op d} : (s.atomic fm u op d).Safe := by
  rw [State.atomic]
  exact h.runFlight fun _ _ ht => ht.putAll.done

theorem exactAdd {fm u d} : (s.exactAdd fm u d).Safe := h.runFlight fun _ _ ht => ht.done

theorem exactRead {fm u d w} : (s.exactRead fm u d w).Safe := by
  rw [State.exactRead]
  exact h.runFlight fun _ _ ht => ht.putAll.done

end State.Safe

/-! ### Base registers, class hints and rings -/

namespace State.Safe

variable {s : State} (h : s.Safe)
include h

theorem runPages {c va l seen n i} : (s.runPages c va l seen n i).2.Safe := by
  fun_induction State.runPages <;> grind [tlbWalk]

theorem execBtl {o} : NextSafe (execBtl o s) := by
  fun_cases Machine.execBtl
  grind [putAll, Res.Safe.out, tlbWalk, unreadable, runPages, Res.Safe]

theorem hintPage {page shared mine} : (s.hintPage page shared mine).2.Safe := by
  fun_cases State.hintPage <;> grind [tlbWalk, nameMapping, reclassify, askDrain]

theorem hintPages {shared n p left k mine} : (s.hintPages shared n p left k mine).1.Safe := by
  fun_induction State.hintPages <;> grind [State.Safe.hintPage, State.Safe.setF, Res.Safe]

theorem hint {d a len shared} : (s.hint d a len shared).Safe := h.hintPages.bind fun _ ht => ht.putS.done

theorem execClassR {o} : NextSafe (execClassR o s) := by
  fun_cases Machine.execClassR
  grind [Res.Safe.out, hint, Res.Safe]

theorem ringAt {c g ofs} : (s.ringAt c g ofs).2.Safe := by
  fun_cases State.ringAt <;> grind [scratchRead]

theorem wakeRing {c g ofs held} : (s.wakeRing c g ofs held).Safe := by
  refine State.Safe.foldl h fun t e ht => .ite (ht.foldl fun u x hu => ?_) ht
  split
  · exact .ite hu.finishWith hu
  · exact hu

theorem deliver {c g ofs payload} : (s.deliver c g ofs payload).2.Safe := by
  fun_cases State.deliver <;> grind [ringAt, scratchWrite, wakeRing]

theorem execSend {o} : NextSafe (execSend o s) := by
  fun_cases Machine.execSend
  grind [commit, Res.Safe.out, run, deliver, putS, Res.Safe]

theorem ownRing {a} {f : State → Nat → Ring → Res} (hf : ∀ (t : State) n r, t.Safe → (f t n r).Safe) :
    (s.ownRing a f).Safe := by
  fun_cases State.ownRing <;> grind [ringAt, Res.Safe]

theorem execRpop {o} : NextSafe (execRpop o s) := by
  fun_cases Machine.execRpop
  grind [Res.Safe.out, ownRing, putS, scratchRead, scratchWrite, putLanes, Res.Safe, NextSafe]

theorem execRwait {o} : NextSafe (execRwait o s) := by
  fun_cases Machine.execRwait
  grind [Res.Safe.out, ownRing, putS, Res.Safe]

end State.Safe

/-! ### Count words -/

namespace State.Safe

variable {s : State} (h : s.Safe)
include h

theorem namedCount {a va} {next : State → Res} (hnext : ∀ t : State, t.Safe → (next t).Safe) :
    (s.namedCount a va next).Safe := by
  fun_cases State.namedCount <;> grind [takeFailed, translate, unreadable, stop, notPresent, Res.Safe]

theorem countOp {type va commits op} {next : Nat → State → Res} (hnext : ∀ n (t : State), t.Safe → (next n t).Safe) :
    (s.countOp type va commits op next).Safe := by
  fun_cases State.countOp <;> grind [commit, access, stop, Res.Safe]

theorem changeCount {va op} {next : Nat → State → Res} (hnext : ∀ n (t : State), t.Safe → (next n t).Safe) :
    (s.changeCount va op next).Safe := by
  fun_cases State.changeCount <;> grind [setW, countOp, Res.Safe]

theorem signal {d a v} : (s.signal d a v).Safe := h.changeCount fun _ _ ht => ht.putS.done

theorem countHome {c va} : (s.countHome c va).2.Safe := by
  fun_cases State.countHome <;> grind [tlbWalk]

theorem waitOn {c va target d} : (s.waitOn c va target d).1.Safe := by
  fun_cases State.waitOn <;> grind [countHome, register, setDevice]

theorem waitAgain {c va target d} : (s.waitAgain c va target d).1.Safe := by
  fun_cases State.waitAgain <;> grind [setF, waitOn, stopWaiting]

theorem countWait {d a t} : (s.countWait d a t).Safe := by
  fun_cases State.countWait <;> grind [countOp, putS, stopWaiting, waitAgain, Res.Safe]

theorem holdAt {r data} : (s.holdAt r data).Safe := by
  fun_cases State.holdAt <;> grind [stop, setF, Res.Safe]

theorem recheck {c k f} : (s.recheck c k f).Safe := by
  fun_cases State.recheck <;> grind [focusOn, access, finishWith, deregister, waitOn, setF, takeTrap, holdAt]

theorem execCountWordWake {core word} : NextSafe (execCountWordWake core word s) := by
  fun_cases execCountWordWake
  · exact (h.setCore.foldl fun _ _ ht => ht.recheck).next
  · exact h.next

theorem execWaitRepoll {f} : NextSafe (execWaitRepoll f s) := by
  fun_cases Machine.execWaitRepoll <;> grind [recheck, NextSafe]

theorem execRemoteCwwaitPoll {f} : NextSafe (execRemoteCwwaitPoll f s) := by
  fun_cases Machine.execRemoteCwwaitPoll <;> grind [recheck, NextSafe, Res.Safe]

end State.Safe

/-! ### Shapes, copies and shuffles -/

namespace State.Safe

variable {s : State} (h : s.Safe)
include h

theorem execLdshape {o} : NextSafe (execLdshape o s) := by
  fun_cases Machine.execLdshape
  grind [Res.Safe.out, runFlight, put, Res.Safe]

theorem copyChecks {x hs hd} {next : State → Res} (hnext : ∀ t : State, t.Safe → (next t).Safe) :
    (s.copyChecks x hs hd next).Safe := by
  fun_cases State.copyChecks
  grind [namedCount, Res.Safe]

theorem forkCopy {x} : (s.forkCopy x).Safe := by
  fun_cases State.forkCopy <;> grind [setCore, Res.Safe]

theorem startCopy {x hs hd} : (s.startCopy x hs hd).Safe := by
  fun_cases State.startCopy
  grind [copyChecks, forkCopy, Res.Safe]

theorem execCpym {o} : NextSafe (execCpym o s) := by
  fun_cases Machine.execCpym
  grind [commit, runFlight, forkCopy, Res.Safe.out, run, copyChecks, Res.Safe]

theorem setCopy {c k x} : (s.setCopy c k x).Safe := h.setCore

theorem stopCopy {r c slot x at_} : (Acc.stopCopy r s c slot x at_).Safe := by
  fun_cases Machine.Acc.stopCopy <;> grind [setCopy]

theorem copyRead {c slot x k} : (s.copyRead c slot x k).Safe := by
  fun_cases State.copyRead <;> grind [scratchRead, setCopy, access, stopCopy]

theorem peerTest {a l va n} : (s.peerTest a l va n).2.Safe := by
  fun_cases State.peerTest <;> grind [targetLeaf, unreadable]

theorem secondLeaf {a va n} : (s.secondLeaf a va n).2.Safe := by
  fun_cases State.secondLeaf <;> grind [translate, unreadable, notPresent, peerTest]

theorem copyPut {c slot x k v} : (s.copyPut c slot x k v).Safe := by
  fun_cases State.copyPut <;> grind [accessLeaf, setCopy, stopCopy, access, secondLeaf]

theorem copyWrite {c slot x k} : (s.copyWrite c slot x k).Safe := by
  fun_cases State.copyWrite <;> grind [setCopy, scratchWrite, copyPut]

theorem landWrite {c slot x m k} : (s.landWrite c slot x m k).Safe := by
  fun_cases State.landWrite <;> grind [scratchWrite, setCopy]

theorem execCopyLineRequest {core sel} : NextSafe (execCopyLineRequest core sel s) := by
  fun_cases Machine.execCopyLineRequest <;> grind [setCore, copyWrite, copyRead, landWrite, NextSafe, Res.Safe]

theorem addFailed {a cw c} : (s.addFailed a cw c).Safe := h.logEvent

theorem engineAdd {a cw v item} : (s.engineAdd a cw v item).2.Safe := by
  fun_cases State.engineAdd <;> grind [access, addFailed]

theorem dropCopyReqs {c slot} : (s.dropCopyReqs c slot).Safe := h

theorem freeCopy {c slot x} : (s.freeCopy c slot x).Safe := by
  fun_cases State.freeCopy <;> grind [setCore, dropCopyReqs, setTask]

theorem endCopy {c slot x} : (s.endCopy c slot x).Safe := by
  fun_cases State.endCopy
  grind [logEvent, freeCopy]

theorem endItem {c slot x item it} : (s.endItem c slot x item it).Safe := by
  fun_cases State.endItem
  grind [logEvent, setCopy]

theorem execCopyCompletion {core slot} : NextSafe (execCopyCompletion core slot s) := by
  fun_cases Machine.execCopyCompletion <;> grind [freeCopy, engineAdd, dropCopyReqs, endCopy, setCopy, NextSafe, Res.Safe]

theorem execMulticastItem {core slot item} : NextSafe (execMulticastItem core slot item s) := by
  fun_cases Machine.execMulticastItem <;> grind [dropCopyReqs, engineAdd, endItem, setCopy, NextSafe]

theorem startShuffle {ofs cw steps} : (s.startShuffle ofs cw steps).Safe := by
  fun_cases State.startShuffle <;> grind [namedCount, setCore, Res.Safe]

theorem execShuffleExecute {core sel} : NextSafe (execShuffleExecute core sel s) := by
  fun_cases Machine.execShuffleExecute <;> grind [setCore, engineAdd, logEvent, scratchRead, scratchWrite, NextSafe,
      Res.Safe]

end State.Safe

/-! ### Groups -/

namespace State.Safe

variable {s : State} (h : s.Safe)
include h

theorem execGnew {o} : NextSafe (execGnew o s) := by
  fun_cases Machine.execGnew
  grind [commit, putAll, Res.Safe.out, setDevice, setGroup, NextSafe, Res.Safe]

theorem execGjoin {o} : NextSafe (execGjoin o s) := by
  fun_cases Machine.execGjoin
  grind [commit, Res.Safe.out, run, putAll, setGroup, Res.Safe]

theorem execGleave {o} : NextSafe (execGleave o s) := by
  fun_cases Machine.execGleave
  grind [commit, Res.Safe.out, run, setW, departFrom, putS, Res.Safe]

theorem execGfree {o} : NextSafe (execGfree o s) := by
  fun_cases Machine.execGfree
  grind [commit, Res.Safe.out, run, putS, setGroup, Res.Safe]

theorem arrive {d a kind v} : (s.arrive d a kind v).Safe := by
  fun_cases State.arrive
  grind [run, setPhase, completePhase, setF, Res.Safe]

theorem execGstat {o} : NextSafe (execGstat o s) := by
  fun_cases Machine.execGstat
  grind [putS, Res.Safe.out, run, Res.Safe]

end State.Safe

/-! ### The matrix unit -/

namespace State.Safe

variable {s : State} (h : s.Safe)
include h

theorem noteTile {t} : (s.noteTile t).Safe := h.setG

theorem tileWrite {t} {next : State → Res} (hnext : ∀ t : State, t.Safe → (next t).Safe) :
    (s.tileWrite t next).Safe := by
  fun_cases State.tileWrite <;> grind [writeBacking, setG, Res.Safe]

theorem execMprog {o} : NextSafe (execMprog o s) := by
  fun_cases Machine.execMprog
  grind [Res.Safe.out, setW, NextSafe, Res.Safe]

theorem putScales {t first n a fl} : (s.putScales t first n a fl).Safe := h.setG

theorem mscl {o} : (s.mscl o).Safe := by
  rw [State.mscl]
  exact h.runFlight fun _ _ ht => ht.putScales.done

theorem execMsclScaleWrite {f} : NextSafe (execMsclScaleWrite f s) := by
  fun_cases Machine.execMsclScaleWrite <;> grind [focusOn, putScales, setF, NextSafe]

theorem mmaControl {x ctl gamma} : (s.mmaControl x ctl gamma).Safe := by
  fun_cases State.mmaControl <;> grind [setG]

theorem mmaBlock {x fl i} : (s.mmaBlock x fl i).Safe := h.setG

theorem mmaBlocks {x n fl} : (s.mmaBlocks x n fl).Safe := by
  fun_induction State.mmaBlocks <;> grind [fly, mmaBlock, landed, Res.Safe, State.Safe]

theorem mmaApply {x n fl} : (s.mmaApply x n fl).1.Safe := by
  fun_induction State.mmaApply <;> grind [mmaBlock]

theorem mmaGo {x fl} : (s.mmaGo x fl).Safe := by
  fun_cases State.mmaGo <;> grind [mmaBlocks, fly, mmaApply, landed, setF, Res.Safe]

theorem endRows : s.endRows.Safe := by
  fun_cases State.endRows <;> grind [landed, setW]

theorem mma {o} : (s.mma o).Safe := by
  fun_cases State.mma <;> grind [Res.Safe.bind, mmaGo, endRows, run, tileWrite, mmaControl, Res.Safe]

theorem mrd {d t idx} : (s.mrd d t idx).Safe := h.noteTile.putLanes.done

theorem mwr {t a idx} : (s.mwr t a idx).Safe := h.noteTile.run fun _ => h.noteTile.tileWrite fun _ ht => ht.setG.done

theorem execMwrR {o} : NextSafe (execMwrR o s) := (h.run fun _ => h.mwr).out

theorem execMwrI {o} : NextSafe (execMwrI o s) := h.mwr.out

theorem execMzero {o} : NextSafe (execMzero o s) :=
  (h.noteTile.run fun _ => h.noteTile.tileWrite fun _ ht => ht.setG.done).out

theorem mstRows {t bf scr addr n fl} : (s.mstRows t bf scr addr n fl).Safe := by
  fun_induction State.mstRows <;> grind [fly, landed, Res.Safe, State.Safe]

theorem mstGo {t bf scr addr fl} : (s.mstGo t bf scr addr fl).Safe := by
  fun_cases State.mstGo <;> grind [mstRows, fly, landed, setF, Res.Safe]

theorem execMst {o} : NextSafe (execMst o s) := by
  fun_cases Machine.execMst
  grind [noteTile, Res.Safe.bind, mstGo, endRows, Res.Safe.out, run, begun, Res.Safe]

end State.Safe

/-! ### The Spinel engine -/

namespace State.Safe

variable {s : State} (h : s.Safe)
include h

theorem setSpinel {d x} : (s.setSpinel d x).Safe := h.setDevice

theorem setCtx {i x} : (s.setCtx i x).Safe := h.setSpinel

theorem setSlot {i x} : (s.setSlot i x).Safe := h.setSpinel

theorem freeSlot {i} : (s.freeSlot i).Safe := h.setSlot

theorem lockTree {i} : (s.lockTree i).Safe := h.setCtx

theorem unlockTree {i} : (s.unlockTree i).Safe := h.setCtx

theorem micro {r va} {next : Nat → Micro} (hnext : ∀ n, (next n).Safe) {fail : BitVec 10 → Word64 → Micro} (hfail : ∀ c
    d, (fail c d).Safe) :
    (Acc.micro r s va next fail).Safe := by
  fun_cases Machine.Acc.micro <;> grind [Micro.Safe]

theorem descFail {slot pend c d} : (s.descFail slot pend c d).Safe := by
  fun_cases State.descFail
  grind [Micro.Safe]

theorem descEnd {slot st} : (s.descEnd slot st).Safe := by
  fun_cases State.descEnd
  grind [setSlot, Micro.Safe]

theorem visitNode {slot x} : (s.visitNode slot x).Safe := by
  fun_cases State.visitNode <;> grind [descFail, access, micro, setSlot, descEnd, Micro.Safe]

theorem readKids_go {child t a got l} : (State.readKids.go child t a s got l).1.Safe := by
  fun_induction State.readKids.go <;> grind [access]

theorem readKids {slot n child nch} : (s.readKids slot n child nch).Safe := by
  unfold State.readKids
  dsimp only
  split
  · exact h.readKids_go.setF.micro (fun _ => h.readKids_go.mwait) fun _ _ => h.readKids_go.descFail
  · split
    · exact h.readKids_go.setF
    · exact h.readKids_go.setF

theorem rootOf {slot} : (s.rootOf slot).Safe := by
  fun_cases State.rootOf
  grind [access, micro, descFail, Micro.Safe]

theorem appendStep {st} : (s.appendStep st).Safe := by
  unfold State.appendStep
  cases st with
  | descEntry slot act =>
    dsimp only
    split
    · exact h
    · refine h.lockTree.access.micro (fun v => ?_) fun _ _ => h.lockTree.access.unlockTree.descFail
      split
      · exact h.lockTree.access.unlockTree
      · exact h.lockTree.access
  | descWrite slot act tail =>
    dsimp only
    exact h.access.micro (fun _ => h.access.mgo) fun _ _ => h.access.unlockTree.descFail
  | descTail slot tail =>
    dsimp only
    exact h.access.micro (fun _ => h.access.mgo) fun _ _ => h.access.unlockTree.descFail
  | descCount slot =>
    dsimp only
    split
    · exact h.unlockTree.descEnd
    · exact h.access.micro (fun _ => h.access.unlockTree.descEnd) fun _ _ => h.access.unlockTree.descFail
  | descFull slot =>
    dsimp only
    exact h.access.micro (fun _ => h.access.descEnd) fun _ _ => h.access.descFail
  | _ => exact h

theorem undoStep {slot j pend c d} : (s.undoStep slot j pend c d).Safe := by
  unfold State.undoStep
  cases j with
  | zero => exact h.freeSlot
  | succ j =>
    dsimp only
    refine h.access.micro (fun _ => ?_) fun _ _ => ?_
    · exact h.access
    · exact h.access

theorem expStep {slot n st} : (s.expStep slot n st).Safe := by
  unfold State.expStep
  cases st with
  | expAlloc =>
    dsimp only
    split
    · exact h
    · refine h.lockTree.access.micro (fun v => ?_) fun _ _ => h.lockTree.access.unlockTree
      split
      · exact h.lockTree.access
      · split
        · exact h.lockTree.access
        · exact h.lockTree.access.unlockTree
  | expHead gen head =>
    dsimp only
    exact h.access.micro (fun _ => h.access.mgo) fun _ _ => h.access.unlockTree.mtrap
  | expTake gen blk off v =>
    dsimp only
    exact h.access.micro (fun _ => h.access.unlockTree.mgo) fun _ _ => h.access.unlockTree.mtrap
  | expNodes blk gen i =>
    dsimp only
    split
    · exact h
    · exact h.access.micro (fun _ => h.access.mgo) fun _ _ => h.access.mgo
  | expLink blk =>
    dsimp only
    refine h.access.micro (fun old => ?_) fun _ _ => h.access
    split <;> exact h.access
  | expFree blk after k head =>
    dsimp only
    split
    · exact h
    · refine h.lockTree.access.micro (fun v => ?_) fun c v => ?_
      · split
        · exact h.lockTree.access
        · cases after <;> exact h.lockTree.access.unlockTree
      · cases after <;> exact h.lockTree.access.unlockTree
  | expUndo j =>
    cases j with
    | zero =>
      dsimp only
      split
      · exact h
      · exact h.freeSlot
    | succ j =>
      dsimp only
      exact h.access.micro (fun _ => h.access.mgo) fun _ _ => h.access.mgo
  | expRedo j c d =>
    dsimp only
    split
    · exact h
    · exact h.access.micro (fun _ => h.access.mgo) fun _ _ => h.access.mgo
  | expPend =>
    dsimp only
    exact h.access.micro (fun _ => h.access.freeSlot.mdone) fun _ _ => h.access.mgo
  | _ => exact h

theorem backStep {slot x rel} : (s.backStep slot x rel).Safe := by
  unfold State.backStep
  dsimp only
  split
  · exact h.freeSlot
  · refine h.access.micro (fun _ => ?_) fun _ _ => h.access
    split
    · exact h.access.setSlot.freeSlot
    · exact h.access.setSlot

theorem probe {a va op} : (s.probe a va op).2.Safe := by
  fun_cases State.probe <;> grind [takeFailed, dropNear, translate, unreadable, notPresent, accessLeaf, targetLeaf]

theorem rootStep {i k reclaim st} : (s.rootStep i k reclaim st).Safe := by
  unfold State.rootStep
  cases st with
  | rootNode p =>
    dsimp only
    refine h.access.micro (fun old => ?_) fun _ _ => h.access
    split <;> exact h.access
  | rootProbe child nch =>
    dsimp only
    exact h.probe.micro (fun _ => h.probe.mgo) fun _ _ => h.probe.mtrap
  | rootSwap child nch =>
    dsimp only
    exact h.access.micro (fun _ => h.access.mgo) fun _ _ => h.access.mtrap
  | rootParent child nch ob og =>
    dsimp only
    exact h.access.micro (fun _ => (State.Safe.ite h.access.setCtx h.access).mdone) fun _ _ => h.access.mtrap
  | _ => exact h

theorem setStage {st} : (s.setStage st).Safe := h.setF

theorem runTree {d} {step : State → TreeStage → Micro} (hstep : ∀ (t : State) st, t.Safe → (step t st).Safe)
    {n st} :
    (s.runTree d step n st).Safe := by
  induction n generalizing s st with
  | zero => exact h.setStage
  | succ n ih =>
    have hm := hstep _ st (h.setStage (st := st))
    rw [State.runTree]
    split <;> rename_i e <;> rw [e] at hm
    · exact hm.setF.putS
    · exact hm.setF
    · exact hm
    · split
      · exact ih hm
      · exact hm.setStage

theorem startTree {d} {step : State → TreeStage → Micro} (hstep : ∀ (t : State) st, t.Safe → (step t st).Safe) {st} :
    (s.startTree d step st).Safe := by
  fun_cases State.startTree <;> grind [runTree, setStage, Res.Safe]

theorem bindStep {va st} : (s.bindStep va st).Safe := by
  fun_cases State.bindStep <;> grind [access, unlockTree, micro, setCtx, Micro.Safe]

theorem bind {d sa} : (s.bind d sa).Safe := by
  fun_cases State.bind <;> grind [runTree, bindStep, commit, access, namedCount, putS, startTree, lockTree, stop,
      Res.Safe]

theorem unbindStep {st} : (s.unbindStep st).Safe := by
  unfold State.unbindStep
  cases st with
  | unbindOwn i =>
    dsimp only
    refine h.access.micro (fun _ => ?_) fun _ _ => ?_
    · exact h.access.setCtx
    · exact h.access
  | _ => exact h

theorem unbind {d sa} : (s.unbind d sa).Safe := by
  fun_cases State.unbind <;> grind [unbindStep, runTree, run, commit, putS, startTree, Res.Safe, Micro.Safe]

theorem execTsbind {o} : NextSafe (execTsbind o s) := by
  fun_cases Machine.execTsbind
  grind [Res.Safe.out, unbind, bind, Res.Safe, NextSafe]

theorem descStep {st} : (s.descStep st).Safe := by
  fun_cases State.descStep <;> grind [rootOf, visitNode, readKids, undoStep, appendStep, Micro.Safe]

theorem descend {d x} : (s.descend d x).Safe := by
  fun_cases State.descend <;> grind [runTree, descStep, run, commit, putS, startTree, setSlot, Res.Safe]

theorem leafStep {i st} : (s.leafStep i st).Safe := by
  unfold State.leafStep
  cases st with
  | leafRing =>
    dsimp only
    split
    · exact h
    · refine h.lockTree.access.micro (fun v => ?_) fun _ _ => h.lockTree.access.unlockTree
      split
      · exact h.lockTree.access.unlockTree
      · exact h.lockTree.access
  | leafEntry head =>
    dsimp only
    exact h.access.micro (fun _ => h.access.mgo) fun _ _ => h.access.unlockTree.mtrap
  | leafHead head e =>
    dsimp only
    exact h.access.micro (fun _ => h.access.unlockTree.mdone) fun _ _ => h.access.unlockTree.mtrap
  | _ => exact h

theorem execTsleaf {o} : NextSafe (execTsleaf o s) := by
  fun_cases Machine.execTsleaf
  grind [Res.Safe.out, run, commit, leafStep, runTree, startTree, Res.Safe]

theorem priorReads {sb n got} : (s.priorReads sb n got).1.Safe := by
  refine List.foldlRecOn (motive := fun r : State × Tab Nat × Option (Acc × Nat) => r.1.Safe) _ _ h fun r hr i _ => ?_
  split
  · exact hr
  · dsimp only
    split
    · rename_i e
      exact hr.access.of_eq e
    · rename_i e
      exact hr.access.of_eq e

theorem termStep {slot} : (s.termStep slot).Safe := by
  fun_cases State.termStep
  grind [access, micro, Micro.Safe]

theorem execTsexp {o} : NextSafe (execTsexp o s) := by
  refine Res.Safe.out ?_
  dsimp only
  split
  · exact h.commit
  · have hterm (slot) : ∀ (t : State) (st : TreeStage), t.Safe → (t.termStep slot).Safe := fun _ _ ht => ht.termStep
    have hexp (slot n) : ∀ (t : State) (st : TreeStage), t.Safe → (t.expStep slot n st).Safe := fun _ _ ht => ht.expStep
    split
    · exact h.commit
    · split
      · split
        · exact h.commit.runTree (hterm _)
        · exact h.commit.startTree (hterm _)
      · split
        · exact h.commit.runTree (hexp _ _)
        · split
          · exact h.commit
          · split
            · rename_i e
              have ht := h.commit.priorReads.fst_of_eq e
              split
              · exact ht.setF
              · exact ht.setF.stop
            · rename_i e
              have ht := h.commit.priorReads.fst_of_eq e
              split
              · exact ht.setF.startTree (hexp _ _)
              · exact ht.setF

theorem execTsback {o} : NextSafe (execTsback o s) := by
  fun_cases Machine.execTsback
  grind [Res.Safe.out, run, commit, runTree, backStep, Res.Safe, Micro.Safe, NextSafe]

theorem execTsroot {o} : NextSafe (execTsroot o s) := by
  fun_cases Machine.execTsroot
  grind [Res.Safe.out, run, commit, rootStep, runTree, putS, access, startTree, stop, Res.Safe, Micro.Safe, NextSafe]

theorem execReclaimWalk {die ctx} : NextSafe (execReclaimWalk die ctx s) := by
  fun_cases Machine.execReclaimWalk <;> grind [setSpinel, logEvent, access, NextSafe]

theorem execTsstat {o} : NextSafe (execTsstat o s) := by
  fun_cases Machine.execTsstat
  grind [Res.Safe.out, run, access, putS, stop, Res.Safe]

end State.Safe

/-! ### Instruction fetch -/

namespace State.Safe

variable {s : State} (h : s.Safe)
include h

theorem codeWord {a l va fresh} : (s.codeWord a l va fresh).2.Safe := by
  fun_cases State.codeWord <;> grind [setCore, peerAccess, meet, unreadable, markUsed]

theorem readAhead {c va} : (s.readAhead c va).Safe := by
  fun_cases State.readAhead <;> grind [setCore]

theorem fetchWord {va fresh} : (s.fetchWord va fresh).2.Safe := by
  fun_cases State.fetchWord <;> grind [takeFailed, tlbWalk, unreadable, notPresent, codeWord, State.Safe]

theorem fetchWords {va n ws} : (s.fetchWords va n ws).elim (·.2.Safe) (·.2.Safe) := by
  fun_induction State.fetchWords <;> grind [fetchWord]

theorem fetchPacket {va} {next : List Word32 → State → Res} (hnext : ∀ l (t : State), t.Safe → (next l t).Safe) :
    (s.fetchPacket va next).Safe := by
  fun_cases State.fetchPacket <;> grind [fetchWords, stop]

end State.Safe

/-! ### System words -/

namespace State.Safe

variable {s : State} (h : s.Safe)
include h

theorem setMark {mask} : (s.setMark mask).Safe := h.setG.setW

theorem execRegion {o} : NextSafe (execRegion o s) := by
  fun_cases Machine.execRegion
  grind [runFlight, setMark, Res.Safe.out, fetchPacket, Res.Safe]

theorem releaseFrags {d e fail} : (s.releaseFrags d e fail).Safe := h

theorem releaseEngines {c d e fail} : (s.releaseEngines c d e fail).Safe := by
  unfold State.releaseEngines
  extract_lets u
  have hu : u.Safe := by
    refine h.foldl fun t k ht => ?_
    grind [State.Safe.setCopy, State.Safe.addFailed, State.Safe.endItem, State.Safe.endCopy]
  clear_value u
  grind [State.Safe.setCore, State.Safe.logEvent]

theorem releaseWalks {d e fail} : (s.releaseWalks d e fail).Safe := by
  refine State.Safe.foldl h fun t v ht => ht.foldl fun u k hu => ?_
  grind [State.Safe.setDevice, State.Safe.logEvent, State.Safe.dropWaiter]

theorem releasePeers {d e fail} : (s.releasePeers d e fail).Safe := by
  fun_cases State.releasePeers
  · exact State.Safe.foldl h fun _ _ ht => ht.logEvent.send
  · exact h

theorem releaseTasks {d e fail} : (s.releaseTasks d e fail).Safe := by
  refine State.Safe.foldl h fun t k ht => ?_
  grind [State.Safe.addFailed, State.Safe.setTask]

theorem releaseEntry {d e fail} : (s.releaseEntry d e fail).Safe :=
  (h.releaseFrags.releaseTasks.foldl fun _ _ ht => ht.releaseEngines).releaseWalks.releasePeers

theorem freeEntry {d e} : (s.freeEntry d e).Safe := h.setDevice

theorem discardLog {c es} : (s.discardLog c es).Safe := h.foldl fun _ _ ht => .ite ht.logEvent.taskFault ht

theorem takeLog {c page} {f : State → List LogEntry → State} (hf : ∀ (t : State) l, t.Safe → (f t l).Safe) :
    (s.takeLog c page f).Safe := by
  fun_cases State.takeLog <;> grind [setCore]

theorem replayLog {c l es} : (s.replayLog c l es).Safe := by
  refine State.Safe.foldl h fun t e ht => ?_
  grind [State.Safe.discardLog, State.Safe.performNow, State.Safe.classFor, State.Safe.accessLeaf]

theorem failEntry {d e u} : (s.failEntry d e u).Safe :=
  (h.releaseEntry.foldl fun _ _ ht => ht.takeLog fun _ _ hu => hu.discardLog).logEvent.freeEntry

theorem execPgsupply {o} : NextSafe (execPgsupply o s) := by
  refine Res.Safe.out ?_
  dsimp only
  split
  · exact h.putS
  · split
    · exact h.putS
    · split
      · rename_i e
        exact (h.readPager.of_eq e).pagerLost
      · rename_i e
        have ht := h.readPager.of_eq e
        split
        · exact ht
        · split
          · exact ht.failEntry.putS
          · split <;> rename_i e <;> have hu := ht.walkOn.of_eq e
            · exact (hu.foldl fun _ _ hv => hv.takeLog fun _ _ hw => hw.replayLog).releaseEntry.freeEntry.putS
            · exact hu.putS
            · exact hu.unreadable.failEntry.putS
            · exact hu.failEntry.putS
            · exact hu.failEntry.putS
            · exact hu.putS

theorem ctTouch {pa n write} : (s.ctTouch pa n write).Safe := .ite (h.foldl fun _ _ ht => ht.ctAccess) h

theorem ctLost {pa} : (s.ctLost pa).Safe := h.logEvent

theorem ctWrite {pa n v} : (s.ctWrite pa n v).Safe := .ite h.ctTouch.ctLost (Memory.wf_write _ _ _ _ h.ctTouch)

theorem queueStep {d q bytes} : (s.queueStep d q bytes).2.Safe := by
  fun_cases State.queueStep <;> grind [ctWrite, setQueue]

theorem execEnq {o} : NextSafe (execEnq o s) := by
  fun_cases Machine.execEnq
  grind [queueStep, putS, runFlight, commit, Res.Safe.out, access, stop, Res.Safe, NextSafe]

end State.Safe

/-! ### Queues -/

namespace State.Safe

variable {s : State} (h : s.Safe)
include h

theorem execQueueEnable {by_ q} : NextSafe (execQueueEnable by_ q s) := by
  fun_cases Machine.execQueueEnable
  grind [inOrder, hostWrite, enableQueue, NextSafe]

theorem windowWrite {dev off n value} : (s.windowWrite dev off n value).Safe := by
  fun_cases State.windowWrite <;> grind [ctlWrite, setDevice, send, logEvent]

theorem endTask {t status detail} : (s.endTask t status detail).Safe := h.setTask

theorem makeEligible {t failed} : (s.makeEligible t failed).Safe := by
  fun_cases State.makeEligible <;> grind [endTask, setTask, setDevice]

theorem setHeld {d i x} : (s.setHeld d i x).Safe := h.setDevice

theorem arriveHeld {t} : (s.arriveHeld t).Safe := by
  fun_cases State.arriveHeld <;> grind [endTask, setHeld, makeEligible]

theorem decrement {d handle fail} : (s.decrement d handle fail).2.Safe := by
  fun_cases State.decrement <;> grind [setHeld, makeEligible]

theorem packetWords {pa} : (s.packetWords pa).2.Safe := by
  fun_cases State.packetWords <;> grind [ctTouch, ctLost]

theorem take {d q} : (s.take d q).Safe := by
  fun_cases State.take <;> grind [packetWords, setTask, setDevice, endTask, setQueue, makeEligible, arriveHeld,
      State.Safe]

theorem execPacketIntake {dev} : NextSafe (execPacketIntake dev s) := by
  fun_cases Machine.execPacketIntake <;> grind [take, NextSafe]

theorem sendDecrements {t fail hs n} : (s.sendDecrements t fail hs n).2.Safe := by
  fun_induction State.sendDecrements <;> grind [decrement, logEvent]

theorem signalQueue {d q late} : (s.signalQueue d q late).Safe := by
  fun_cases State.signalQueue <;> grind [send, setQueue]

theorem writeRecord {t status detail} : (s.writeRecord t status detail).Safe := h.ctWrite.setQueue.signalQueue

theorem retireTask {t} : (s.retireTask t).Safe := by
  fun_cases State.retireTask
  grind [sendDecrements, writeRecord, setQueue, State.Safe]

theorem signalAdd {t} : (s.signalAdd t).Safe := by
  fun_cases State.signalAdd <;> grind [setTask, engineAdd]

theorem execTaskCompletion {task} : NextSafe (execTaskCompletion task s) := by
  fun_cases Machine.execTaskCompletion <;> grind [signalAdd, retireTask, NextSafe]

theorem execUpcallPost {dev entry} : NextSafe (execUpcallPost dev entry s) := by
  fun_cases Machine.execUpcallPost <;> grind [queueStep, setDevice, logEvent, NextSafe]

end State.Safe

/-! ### Dispatch and placement -/

namespace State.Safe

variable {s : State} (h : s.Safe)
include h

theorem holdTask {t x} : (s.holdTask t x).Safe := h.setTask

theorem testAddr {t va} : (s.testAddr t va).Safe := by
  fun_cases State.testAddr <;> grind [walk, unreadable, notPresent, holdTask, Test.Safe]

theorem testRead {t va n} : (s.testRead t va n).elim (·.2.Safe) Test.Safe := by
  fun_cases State.testRead <;> grind [testAddr, readBytes, holdTask, Test.Safe]

theorem testAll {t as} : (s.testAll t as).Safe := by
  fun_induction State.testAll <;> grind [testAddr, Test.Safe]

theorem freshCode {d} : (s.freshCode d).Safe := h

theorem dispatchKernel {t} : (s.dispatchKernel t).Safe := by
  fun_cases State.dispatchKernel <;> grind [endTask, testRead, setTask, testAll, freshCode, Test.Safe]

theorem testCount {t cw remote} : (s.testCount t cw remote).Safe := by
  fun_cases State.testCount <;> grind [testAddr, Test.Safe]

theorem dispatchCopy {t} : (s.dispatchCopy t).Safe := by
  fun_cases State.dispatchCopy <;> grind [endTask, testAll, testCount, setTask, Test.Safe]

theorem dispatchSignal {t} : (s.dispatchSignal t).Safe := by
  fun_cases State.dispatchSignal <;> grind [endTask, testCount, signalAdd, Test.Safe]

theorem execTaskDispatch {dev} : NextSafe (execTaskDispatch dev s) := by
  fun_cases Machine.execTaskDispatch <;> grind [dispatchKernel, dispatchCopy, dispatchSignal, NextSafe]

theorem reserve {d first} : (s.reserve d first).Safe := by
  fun_cases State.reserve <;> grind [setDevice]

theorem keepReserv {d} : (s.keepReserv d).Safe := h.setDevice

theorem choose {d} : (s.choose d).2.Safe := by
  fun_cases State.choose <;> grind [keepReserv, reserve]

theorem placeWg {c t unit rank old} : (s.placeWg c t unit rank old).Safe := by
  fun_cases State.placeWg <;> grind [setCore, setDevice, setTask]

theorem loadTiles {c e} : (s.loadTiles c e).Safe := by
  refine State.Safe.foldl h fun t i ht => .ite ht ?_
  split
  · rename_i e
    exact (ht.readBacking.of_eq e).setWg
  · rename_i e
    exact (ht.readBacking.of_eq e).setWg

theorem dropReserv {d c} : (s.dropReserv d c).Safe := by
  fun_cases State.dropReserv <;> grind [setDevice]

theorem placeUnit {d c cs} : (s.placeUnit d c cs).Safe := h.dropReserv.setTask.foldl fun _ _ ht => ht.placeWg

theorem placeCopy {d c core} : (s.placeCopy d c core).Safe := h.dropReserv.setTask.setCopy

theorem departSaved {u} : (s.departSaved u).Safe := h.foldl fun _ _ ht => ht.foldl fun _ _ hv => .ite hv.departAll hv

theorem refuseUnits {t status} : (s.refuseUnits t status).Safe := by
  fun_cases State.refuseUnits
  · exact (h.setDevice.foldl fun _ _ hu => hu.departSaved).setTask.logEvent
  · exact (h.setDevice.foldl fun _ _ hu => hu.departSaved).setTask

theorem restoreRegs {c k n} : (s.restoreRegs c k n).Safe := by
  fun_induction State.restoreRegs <;> grind [focusOn, access, setWarp, setF, faultWarp]

theorem restoreUnit {d c cs} : (s.restoreUnit d c cs).Safe := by
  fun_cases State.restoreUnit
  · exact h
  · exact (h.dropReserv.setDevice.foldl fun _ _ ht => ht.placeWg).logEvent.foldl fun _ _ ht =>
      ht.foldl fun _ _ hu => .ite (hu.loadTiles.foldl fun _ _ hv => hv.restoreRegs) hu

theorem settleUnit {d c cs} : (s.settleUnit d c cs).Safe := by
  fun_cases State.settleUnit <;> grind [restoreUnit, placeCopy, placeUnit]

theorem refuseNever {d} : (s.refuseNever d).Safe := by
  refine State.Safe.foldl h fun t c ht => ?_
  split
  · exact .ite ht.refuseUnits ht
  · exact ht

theorem dispatcherStep {d want} : (s.dispatcherStep d want).Safe := by
  fun_cases State.dispatcherStep <;> grind [choose, refuseNever, settleUnit]

omit h in
theorem serveFreed {after : State} (hafter : after.Safe) : (s.serveFreed after).Safe := by
  fun_cases State.serveFreed
  grind [dispatcherStep]

theorem execWorkgroupRelease {core wg} : NextSafe (execWorkgroupRelease core wg s) := by
  fun_cases Machine.execWorkgroupRelease <;> grind [setCore, setDevice, setTask, NextSafe]

end State.Safe

/-! ### Pre-emption -/

namespace State.Safe

variable {s : State} (h : s.Safe)
include h

theorem performLoads {c k f key} : (s.performLoads c k f key).Safe := by
  fun_cases State.performLoads
  · exact h
  · refine h.focusOn.foldl fun t r ht => ?_
    split
    · exact .ite ht ht.access
    · exact ht

theorem finishTile {w} : (s.finishTile w).Safe := by
  fun_cases State.finishTile <;> grind [execMwrR, execMwrI, execMzero, putScales, NextSafe]

theorem finishTiles {c k key} : (s.finishTiles c k key).Safe := h.foldl fun _ _ ht => ht.focusOn.finishTile

theorem discardWarp {c k} : (s.discardWarp c k).Safe :=
  ((((h.foldl fun _ _ ht => ht.performLoads).foldl fun _ _ ht => ht.finishTiles).foldl
    fun _ _ ht => ht.withdraw).dropReqs.foldl fun _ _ ht => ht.freeSplit).setWarp

theorem requestWarp {c k} : (s.requestWarp c k).Safe := by
  fun_cases State.requestWarp <;> grind [setWarp, discardWarp]

theorem requestUnit {t unit} : (s.requestUnit t unit).Safe :=
  h.foldl fun _ _ ht => .ite ht (ht.setWg.foldl fun _ _ hu => hu.requestWarp)

theorem execPreemptionRequest {dev} : NextSafe (execPreemptionRequest dev s) := by
  fun_cases Machine.execPreemptionRequest <;> grind [requestUnit, NextSafe]

theorem savePage {c e p} : (s.savePage c e p).Safe := by
  fun_cases State.savePage <;> grind [writeBacking, setWg]

theorem saveTile {c e t} : (s.saveTile c e t).Safe := by
  fun_cases State.saveTile <;> grind [writeBacking, setWg]

theorem saveData {c e} : (s.saveData c e).Safe := (h.foldl fun _ _ ht => ht.savePage).foldl fun _ _ ht => ht.saveTile

theorem leaveCore {c e} : (s.leaveCore c e).Safe :=
  (h.foldl fun _ _ ht => ht.foldl fun _ _ hu => hu.freeSplit).setCore

theorem saveUnit {d t unit wgs} : (s.saveUnit d t unit wgs).Safe :=
  (h.setDevice.foldl fun _ _ ht => ht.leaveCore).logEvent

theorem execPreemptionSave {core wg} : NextSafe (execPreemptionSave core wg s) := by
  have hs (wgs : List (Nat × Nat)) : (wgs.foldl (fun s p => s.saveData p.1 p.2) s).Safe :=
    h.foldl fun _ _ ht => ht.saveData
  fun_cases execPreemptionSave
  · exact h.next
  · exact h.next
  · exact (hs _).next
  · exact (hs _).saveUnit.next

theorem execPreemptDeadline {core slot} : NextSafe (execPreemptDeadline core slot s) := by
  fun_cases Machine.execPreemptDeadline <;> grind [faultWarp, setDevice, NextSafe]

theorem stopWaits {c k f} : (s.stopWaits c k f).Safe :=
  ((h.foldl fun _ _ ht => ht.withdraw).foldl fun _ _ ht => ht.setFrag).setFrag

theorem deadlockWarps {warps} : (s.deadlockWarps warps).Safe :=
  (h.foldl fun _ _ ht => ht.stopWaits).foldl fun _ _ ht => ht.focusOn.takeTrap

theorem execResidencyDeadlock {dev} : NextSafe (execResidencyDeadlock dev s) := by
  fun_cases Machine.execResidencyDeadlock <;> grind [setDevice, logEvent, deadlockWarps, NextSafe]

theorem execAgeingInterval {dev} : NextSafe (execAgeingInterval dev s) := by
  fun_cases Machine.execAgeingInterval <;> grind [requestUnit, setDevice, NextSafe]

end State.Safe

/-! ### The debugger, timers and the event log -/

namespace State.Safe

variable {s : State} (h : s.Safe)
include h

theorem dopDone {d} : (s.dopDone d).Safe := h.setDevice

theorem dopFail {d} : (s.dopFail d).Safe := h.dopDone.setDevice

theorem execDebugRegRead {dev} : NextSafe (execDebugRegRead dev s) := by
  fun_cases Machine.execDebugRegRead <;> grind [dopFail, dopDone, setDevice, NextSafe]

theorem execDebugRegWrite {dev} : NextSafe (execDebugRegWrite dev s) := by
  fun_cases Machine.execDebugRegWrite <;> grind [dopFail, dopDone, setWarp, NextSafe, Res.Safe]

theorem debugResume {d next} : (s.debugResume d next).Safe := by
  fun_cases State.debugResume <;> grind [dopFail, dopDone, setWarp, clearProgress]

theorem execDebugResumeNext {dev} : NextSafe (execDebugResumeNext dev s) := by
  fun_cases Machine.execDebugResumeNext <;> grind [debugResume, NextSafe]

theorem execDebugResumeTret {dev} : NextSafe (execDebugResumeTret dev s) := by
  fun_cases Machine.execDebugResumeTret <;> grind [debugResume, NextSafe, Res.Safe]

theorem execDebugKill {dev} : NextSafe (execDebugKill dev s) := by
  fun_cases Machine.execDebugKill <;> grind [faultWarp, dopDone, dopFail, NextSafe]

theorem execJoinRelease {f} : NextSafe (execJoinRelease f s) := by
  fun_cases Machine.execJoinRelease <;> grind [mergeAt, NextSafe]

theorem execSleepExpiry {f} : NextSafe (execSleepExpiry f s) := by
  fun_cases Machine.execSleepExpiry <;> grind [setFrag, NextSafe]

theorem execGroupWatchdog {index} : NextSafe (execGroupWatchdog index s) := by
  fun_cases Machine.execGroupWatchdog <;> grind [setGroup, logEvent, NextSafe]

end State.Safe

/-! ### Issue -/

namespace State.Safe

variable {s : State} (h : s.Safe)
include h

theorem advance {n} : (s.advance n).Safe := by
  fun_cases State.advance <;> grind [State.Safe]

theorem joinTest {n} : (s.joinTest n).2.Safe := by
  fun_induction State.joinTest <;> grind [setF, setW, mergeAt]

theorem decodeFrag : s.decodeFrag.Safe := by
  fun_cases State.decodeFrag <;> grind [setF, takeTrap, fetchWords]

theorem prepare : s.prepare.Safe := by
  fun_cases State.prepare <;> grind [setF, joinTest, decodeFrag]

theorem markSplits {c q} : (s.markSplits c q).Safe := by
  refine State.Safe.foldl h fun t r ht => ?_
  dsimp only
  split
  · exact .ite ht.setFrag ht
  · exact ht

theorem passSplits {c q} : (s.passSplits c q).Safe := h.markSplits.foldl fun _ _ ht => .ite ht ht.freeSplit

theorem issueGroup {ws rest} : (s.issueGroup ws rest).Safe := h.setQuad.setW.setF

theorem boardCheck {ws} : ∀ t, s.boardCheck ws = some t → t.Safe := by
  intro t e
  rw [State.boardCheck] at e
  split at e
  · cases e
  · obtain ⟨c, -, rfl⟩ := Option.map_eq_some_iff.1 e
    exact h.takeTrap

theorem tryIssue {c lanes slow rs} : (s.tryIssue c lanes slow rs).1.Safe := by
  fun_induction State.tryIssue <;> grind [focusOn, prepare, issueGroup, boardCheck, setF, State.Safe]

theorem restoreQuad {c q} : (s.restoreQuad c q).Safe := h.foldl fun _ _ ht => .ite ht.restoreRegs ht

theorem breakUnit {t unit cause} : (s.breakUnit t unit cause).Safe :=
  h.foldl fun _ _ hu => hu.foldl fun _ _ hv => .ite (hv.foldl fun _ _ hw => hw.faultWarp).setWg hv

theorem settle : s.settle.Safe := by
  refine .ite h (h.foldl fun t c ht => ht.foldl fun u e hu => ?_)
  split
  · exact hu.breakUnit
  · exact hu

end State.Safe

/-! ### The memory side's own steps -/

namespace State.Safe

variable {s : State} (h : s.Safe)
include h

theorem execPacketDecode {f} : NextSafe (execPacketDecode f s) := by
  fun_cases Machine.execPacketDecode <;> grind [prepare, focusOn, NextSafe]

theorem execPageWalk {core va} : NextSafe (execPageWalk core va s) := by
  fun_cases Machine.execPageWalk <;> grind [stepWalk, setCore, NextSafe]

theorem serveLane {f lane} : NextSafe (s.serveLane f lane) := by
  fun_cases State.serveLane <;> grind [focusOn, fly, setF, Res.Safe.out, Res.Safe, NextSafe, State.Safe]

theorem answerReq {i r x} : (s.answerReq i r x).Safe := by
  rw [State.answerReq]
  refine State.Safe.unparkWaiter ?_
  exact h

theorem execHostCompletion {dev req error} : NextSafe (execHostCompletion dev req error s) := by
  fun_cases Machine.execHostCompletion <;> grind [answerReq, NextSafe, Res.Safe]

theorem execHostCompletionTimeout {dev req} : NextSafe (execHostCompletionTimeout dev req s) := by
  fun_cases Machine.execHostCompletionTimeout <;> grind [answerReq, NextSafe]

theorem endDrain {p key} : (s.endDrain p key).Safe := by
  fun_cases State.endDrain <;> grind [setCore, State.Safe]

theorem execClassDrain {p page} : NextSafe (execClassDrain p page s) := by
  fun_cases Machine.execClassDrain <;> grind [endDrain, NextSafe, State.Safe]

theorem execReclassificationPoint {page} : NextSafe (execReclassificationPoint page s) := by
  fun_cases Machine.execReclassificationPoint <;> grind [dropPage, reclassify, NextSafe, State.Safe]

theorem endCommand {d st} : (s.endCommand d st).Safe := h.setDevice

theorem failCommand {d c va} : (s.failCommand d c va).Safe := h.logEvent.endCommand

theorem untouch {d page n} : (s.untouch d page n).Safe := State.Safe.foldl h fun _ _ ht => ht.dropPage

theorem execInval {dev} : NextSafe (execInval dev s) := by
  fun_cases Machine.execInval <;> grind [endCommand, untouch, invalRange, NextSafe, Res.Safe]

theorem usage {d page n} : (s.usage d page n).2.Safe := by
  fun_induction State.usage <;> grind [walkOn]

theorem execHarvest {dev} : NextSafe (execHarvest dev s) := by
  fun_cases Machine.execHarvest <;> grind [usage, failCommand, writeBytes, endCommand, NextSafe, State.Safe]

theorem rehome {c p a b} : (s.rehome c p a b).2.Safe := by
  fun_cases State.rehome <;> grind [register, deregister]

theorem moveWaiter {c k f a b} : (s.moveWaiter c k f a b).Safe := h.rehome.rehome.setFrag

theorem moveWaiters {a b} : (s.moveWaiters a b).Safe :=
  h.foldl fun _ _ ht => ht.foldl fun _ _ hu => hu.foldl fun _ _ hv => hv.moveWaiter

theorem movePage {entry old new} : (s.movePage entry old new).Safe := by
  refine .moveWaiters (.dropPage (.dropPage ?_))
  rw [State.Safe]
  dsimp only
  exact Memory.wf_write _ _ _ _ (Memory.wf_write _ _ _ _ h)

theorem execMigrate {dev} : NextSafe (execMigrate dev s) := by
  fun_cases Machine.execMigrate <;> grind [endCommand, walkOn, failCommand, invalRange, movePage, NextSafe]

theorem execMopBadArg {dev} : NextSafe (execMopBadArg dev s) := by
  fun_cases Machine.execMopBadArg
  grind [hostWrite, startCommand, NextSafe]

end State.Safe

/-! ### The torus, the links and the host port -/

namespace State.Safe

variable {s : State} (h : s.Safe)
include h

theorem fatalEvent {c src logged} : (s.fatalEvent c src logged).Safe := by
  fun_cases State.fatalEvent <;> grind [logEvent, send, State.Safe]

theorem execTorusPacketArrival {stop input flit} : NextSafe (execTorusPacketArrival stop input flit s) := by
  fun_cases Machine.execTorusPacketArrival <;> grind [fatalEvent, NextSafe, Res.Safe, State.Safe]

theorem resend {p} : (s.resend p).Safe := h.foldl fun _ _ ht => ht.send

theorem replayFrom {p n} : (s.replayFrom p n).Safe := by
  fun_cases State.replayFrom <;> grind [resend, setPort, startRetrain]

theorem sendNack {p} : (s.sendNack p).Safe := h.setPort.send

theorem takeLink {p f} : (s.takeLink p f).Safe := by
  fun_cases State.takeLink <;> grind [setPort, State.Safe]

theorem execLinkFlitReceive {port flit} : NextSafe (execLinkFlitReceive port flit s) := by
  fun_cases Machine.execLinkFlitReceive <;> grind [sendNack, setPort, takeLink, replayFrom, startRetrain, NextSafe,
      Res.Safe]

theorem sendIdle {p} : (s.sendIdle p).Safe := h.setPort.send

theorem linkSend {p cls} : (s.linkSend p cls).Safe := by
  fun_cases State.linkSend <;> grind [sendIdle, send, setPort]

theorem linkPacket {p cls flits req} : (s.linkPacket p cls flits req).Safe := by
  fun_cases State.linkPacket <;> grind [setPort]

theorem torusSend {src dst cls flits} : (s.torusSend src dst cls flits).Safe := by
  fun_cases State.torusSend <;> grind [State.Safe]

theorem torusHop {i} : (s.torusHop i).Safe := by
  fun_cases State.torusHop <;> grind [State.Safe]

theorem execNackReceive {port lseq} : NextSafe (execNackReceive port lseq s) := by
  fun_cases Machine.execNackReceive <;> grind [replayFrom, NextSafe]

theorem upForced {p} : (s.upForced p).Safe := by
  fun_cases State.upForced <;> grind [startRetrain]

theorem execRetrainEnd {port partnerExpects} : NextSafe (execRetrainEnd port partnerExpects s) := by
  fun_cases Machine.execRetrainEnd <;> grind [noteRetrain, upForced, resend, setPort, NextSafe, Res.Safe]

theorem execLinkDownEvent {port} : NextSafe (execLinkDownEvent port s) := by
  fun_cases Machine.execLinkDownEvent <;> grind [linkDown, NextSafe]

theorem execLinkTrained {port peerMod peerPort} : NextSafe (execLinkTrained port peerMod peerPort s) := by
  fun_cases Machine.execLinkTrained <;> grind [upForced, setPort, NextSafe]

theorem execPeerTagAssign {req} : NextSafe (execPeerTagAssign req s) := by
  fun_cases Machine.execPeerTagAssign <;> grind [unparkWaiter, NextSafe, Res.Safe, State.Safe]

theorem execPeerResponse {req r} : NextSafe (execPeerResponse req r s) := by
  fun_cases Machine.execPeerResponse <;> grind [answerReq, logEvent, NextSafe]

theorem execPeerTimeout {req} : NextSafe (execPeerTimeout req s) := by
  fun_cases Machine.execPeerTimeout <;> grind [logEvent, wakeWaiter, send, NextSafe, State.Safe]

theorem keepResult {srcMod srcDev dev t v} : (s.keepResult srcMod srcDev dev t v).Safe := h

theorem execPeerTargetRequest {req} : NextSafe (execPeerTargetRequest req s) := by
  fun_cases Machine.execPeerTargetRequest <;> grind [send, targetAccess, keepResult, NextSafe, State.Safe]

theorem execPeerCancel {srcMod srcDev dev tag} : NextSafe (execPeerCancel srcMod srcDev dev tag s) := by
  fun_cases Machine.execPeerCancel <;> grind [send, NextSafe, State.Safe]

theorem cancelLoad {req} : (s.cancelLoad req).Safe := by
  fun_cases State.cancelLoad <;> grind [send, State.Safe]

theorem inboundPiece {fn type va drains op} : (s.inboundPiece fn type va drains op).2.Safe := by
  fun_cases State.inboundPiece <;> grind [walk, accessLeaf, recordPage, unreadable]

theorem dropWrite {fn va} : (s.dropWrite fn va).Safe := h.setDevice.logEvent.send

theorem endPiece {i j bad} : (s.endPiece i j bad).Safe := h

theorem placePiece {i j} : (s.placePiece i j).Safe := by
  fun_cases State.placePiece <;> grind [inboundPiece, endPiece, dropWrite]

theorem placeNext {fn requester sel} : (s.placeNext fn requester sel).Safe := by
  fun_cases State.placeNext <;> grind [placePiece]

theorem execInboundWrite {fn requester off data} : NextSafe (execInboundWrite fn requester off data s) := by
  fun_cases Machine.execInboundWrite <;> grind [placePiece, NextSafe, State.Safe]

theorem readOn {r others} : (s.readOn r others).Safe := by
  fun_cases State.readOn <;> grind [send, inboundPiece, State.Safe]

theorem execInboundRead {fn requester off len} : NextSafe (execInboundRead fn requester off len s) := by
  fun_cases Machine.execInboundRead <;> grind [readOn, NextSafe]

theorem execHostPortLinkChange {dev speed width} : NextSafe (execHostPortLinkChange dev speed width s) := by
  refine State.Safe.next ?_
  exact h

end State.Safe

/-! ### Management -/

namespace State.Safe

variable {s : State} (h : s.Safe)
include h

theorem setSlice {die slice x} : (s.setSlice die slice x).Safe := h

theorem execScrubPass {die slice corrected lost} : NextSafe (execScrubPass die slice corrected lost s) :=
  State.Safe.next (h.setSlice.foldl fun _ _ ht => ht.logEvent)

theorem execBankRetired {die slice bank} : NextSafe (execBankRetired die slice bank s) := by
  fun_cases Machine.execBankRetired <;> grind [logEvent, setSlice, NextSafe, Res.Safe]

theorem startImage {slot version counter} : (s.startImage slot version counter).Safe :=
  State.Safe.foldl (Memory.wf_filter h _) fun _ _ ht => ht.writePortEn

theorem execBringup : NextSafe (execBringup s) := by
  fun_cases Machine.execBringup <;> grind [startImage, send, logEvent, NextSafe, State.Safe]

theorem abandon {c a cw item task} : (s.abandon c a cw item task).Safe := by
  fun_cases State.abandon
  grind [access, logEvent]

theorem abandonCore {c} : (s.abandonCore c).Safe := by
  refine State.Safe.setCore (State.Safe.foldl (State.Safe.foldl h fun t k ht => ?_) fun _ _ ht => ht.abandon)
  exact .ite ht.abandon (ht.foldl fun _ _ hu => .ite hu hu.abandon)

theorem abandonWalks {d} : (s.abandonWalks d).Safe := (h.foldl fun _ _ ht => .ite ht.logEvent ht).setDevice

theorem execEngineDrainTimeout {dev} : NextSafe (execEngineDrainTimeout dev s) := by
  fun_cases execEngineDrainTimeout
  · exact (h.foldl fun _ _ ht => ht.abandonCore).abandonWalks.next
  · exact h.next

theorem resetGroups {d} : (s.resetGroups d).Safe := h.foldl fun _ _ ht => ht.foldl fun _ _ hu => hu.departFrom

theorem clearDevice {d} : (s.clearDevice d).Safe := h.resetGroups.foldl fun _ _ ht => ht.send

theorem writebackLost {d line} : (s.writebackLost d line).Safe := by
  fun_cases State.writebackLost <;> grind [logEvent, State.Safe]

theorem execDeviceReset {dev} : NextSafe (execDeviceReset dev s) := by
  fun_cases Machine.execDeviceReset <;> grind [startReset, clearDevice, NextSafe]

theorem execAttest : NextSafe (execAttest s) := by
  fun_cases Machine.execAttest <;> grind [endMailbox, NextSafe, State.Safe]

theorem execCert : NextSafe (execCert s) := by
  fun_cases execCert
  · exact h.next
  · exact h.endMailbox.next
  · refine State.Safe.next (.endMailbox ?_)
    exact Memory.wf_write _ _ _ _ h

theorem execLoad {hostError flashError} : NextSafe (execLoad hostError flashError s) := by
  fun_cases Machine.execLoad <;> grind [endMailbox, startImage, NextSafe, State.Safe]

theorem execMbcmdBadCmd : NextSafe (execMbcmdBadCmd s) := by
  fun_cases Machine.execMbcmdBadCmd
  grind [hostWrite, startMailbox, NextSafe, Res.Safe]

theorem execClockChange {mhz} : NextSafe (execClockChange mhz s) := by
  fun_cases Machine.execClockChange <;> grind [NextSafe, Res.Safe, State.Safe]

theorem execThermalThrottle {die} : NextSafe (execThermalThrottle die s) := by
  refine State.Safe.next ?_
  exact h

theorem execDebugPortMemoryAccess {addr write} : NextSafe (execDebugPortMemoryAccess addr write s) := by
  fun_cases execDebugPortMemoryAccess
  · exact h.next
  · exact State.Safe.next (Memory.wf_put _ _ _ h)
  · exact h.send.next

end State.Safe

/-! ### Mask instructions -/

namespace State.Safe

variable {s : State} (h : s.Safe)
include h

theorem putK {d x} : (s.putK d x).Safe := h.put

theorem execKmovR {o} : NextSafe (execKmovR o s) := by
  fun_cases Machine.execKmovR
  grind [Res.Safe.out, putK, putS, NextSafe, Res.Safe]

end State.Safe

/-! ### Floating-point vector instructions -/

namespace State.Safe

variable {s : State} (h : s.Safe)
include h

theorem elementwise2 {o ok lat f} : (s.elementwise2 o ok lat f).Safe := h.run fun _ => h.putElems.done

theorem elementwise1 {o ok lat f} : (s.elementwise1 o ok lat f).Safe := h.run fun _ => h.putElems.done

theorem putComponents {lat d f} : (s.putComponents lat d f).Safe := h.putAll

theorem convert {c} : (s.convert c).Safe := h.run fun _ => h.putElems.done

end State.Safe

/-! ### Integer vector instructions -/

namespace State.Safe

variable {s : State} (h : s.Safe)
include h

theorem intR {o lat sat f} : (s.intR o lat sat f).Safe := h.run fun _ => h.putElems.done

theorem intI {o lat f} : (s.intI o lat f).Safe := h.run fun _ => h.putElems.done

theorem bitwise {u d a b f} : (s.bitwise u d a b f).Safe := h.run fun _ => h.putLanes.done

theorem bitwiseR {o f} : (s.bitwiseR o f).Safe := h.bitwise

theorem bitwiseI {o f} : (s.bitwiseI o f).Safe := h.bitwise

theorem shiftR {o f} : (s.shiftR o f).Safe := h.run fun _ => h.putElems.done

theorem shiftI {o f} : (s.shiftI o f).Safe := h.run fun _ => h.putElems.done

theorem countBits {o f} : (s.countBits o f).Safe := h.run fun _ => h.putElems.done

end State.Safe

/-! ### Comparison, selection and lane movement -/

namespace State.Safe

variable {s : State} (h : s.Safe)
include h

theorem compareLanes {u d a b y} : (s.compareLanes u d a b y).Safe := h.run fun _ => h.put.done

theorem copyLanes {lat d m f} : (s.copyLanes lat d m f).Safe := h.putAll

theorem retag {u d a t} : (s.retag u d a t).Safe := h.run fun _ => h.putLanes.done

theorem execVtagR {o} : NextSafe (execVtagR o s) := by
  fun_cases Machine.execVtagR
  grind [Res.Safe.out, retag, Res.Safe]

theorem combineLanes {o all} : (s.combineLanes o all).Safe := h.run fun _ => h.putAll.done

end State.Safe

/-! ### The dispatch -/

namespace State.Safe

variable {s : State} (h : s.Safe)
include h

/-- One arm for each instruction, through the lemma of its meaning. -/
theorem exec {i} : NextSafe (Machine.exec i s) := by
  unfold Machine.exec
  cases i with
  | qtailWrite _ _ _ => exact (h.inOrder h.ctlWrite).next
  | queueEnable _ _ => exact h.execQueueEnable
  | queueDisable _ _ => exact (h.inOrder (h.hostWrite h.disableQueue)).next
  | qcheadWrite _ _ _ => exact (h.inOrder h.ctlWrite).next
  | registerWrite _ _ _ _ => exact (h.inOrder h.windowWrite).next
  | packetIntake _ => exact h.execPacketIntake
  | taskDispatch _ => exact h.execTaskDispatch
  | unitPlacement _ => exact h.dispatcherStep.next
  | unitRestore _ => exact h.dispatcherStep.next
  | taskCompletion _ => exact h.execTaskCompletion
  | interruptDelay _ _ => exact h.signalQueue.next
  | workgroupRelease _ _ => exact h.execWorkgroupRelease
  | residencyDeadlock _ => exact h.execResidencyDeadlock
  | packetDecode _ => exact h.execPacketDecode
  | joinRelease _ => exact h.execJoinRelease
  | pageWalk _ _ => exact h.execPageWalk
  | upcallPost _ _ => exact h.execUpcallPost
  | homeAccess _ _ => exact h.serveLane
  | classDrain _ _ => exact h.execClassDrain
  | reclassificationPoint _ => exact h.execReclassificationPoint
  | inval _ => exact h.execInval
  | harvest _ => exact h.execHarvest
  | migrate _ => exact h.execMigrate
  | torusPacketArrival _ _ _ => exact h.execTorusPacketArrival
  | crossingParityError _ => exact h.fatalEvent.next
  | linkFlitReceive _ _ => exact h.execLinkFlitReceive
  | nackReceive _ _ => exact h.execNackReceive
  | laneLockLoss _ => exact h.startRetrain.next
  | forceRetrain _ => exact (h.hostWrite h.forceRetrain).next
  | retrainEnd _ _ => exact h.execRetrainEnd
  | linkDownEvent _ => exact h.execLinkDownEvent
  | portEnable _ => exact (h.hostWrite h.writePortEn).next
  | portDisable _ => exact (h.hostWrite h.writePortEn).next
  | linkTrained _ _ _ => exact h.execLinkTrained
  | peerRequest _ _ => exact h.serveLane
  | peerTagAssign _ => exact h.execPeerTagAssign
  | peerTargetRequest _ => exact h.execPeerTargetRequest
  | peerResponse _ _ => exact h.execPeerResponse
  | peerTimeout _ => exact h.execPeerTimeout
  | peerCancel _ _ _ _ => exact h.execPeerCancel
  | inboundWrite _ _ _ _ => exact h.execInboundWrite
  | inboundWriteRelease _ _ => exact h.placeNext.next
  | inboundRead _ _ _ _ => exact h.execInboundRead
  | hostCompletion _ _ _ => exact h.execHostCompletion
  | hostCompletionTimeout _ _ => exact h.execHostCompletionTimeout
  | copyLineRequest _ _ => exact h.execCopyLineRequest
  | copyCompletion _ _ => exact h.execCopyCompletion
  | multicastItem _ _ _ => exact h.execMulticastItem
  | shuffleExecute _ _ => exact h.execShuffleExecute
  | msclScaleWrite _ => exact h.execMsclScaleWrite
  | reclaimWalk _ _ => exact h.execReclaimWalk
  | countWordWake _ _ => exact h.execCountWordWake
  | waitRepoll _ => exact h.execWaitRepoll
  | remoteCwwaitPoll _ => exact h.execRemoteCwwaitPoll
  | groupWatchdog _ => exact h.execGroupWatchdog
  | preemptionRequest _ => exact h.execPreemptionRequest
  | preemptionSave _ _ => exact h.execPreemptionSave
  | preemptDeadline _ _ => exact h.execPreemptDeadline
  | debugHalt _ => exact h.writeHalt.next
  | debugResume _ => exact h.writeHalt.next
  | debugRegRead _ => exact h.execDebugRegRead
  | debugRegWrite _ => exact h.execDebugRegWrite
  | debugResumeNext _ => exact h.execDebugResumeNext
  | debugResumeTret _ => exact h.execDebugResumeTret
  | debugKill _ => exact h.execDebugKill
  | sleepExpiry _ => exact h.execSleepExpiry
  | eventLogEnable => exact h.enableLog.next
  | elheadWrite _ => exact h.writeElhead.next
  | scrubPass _ _ _ _ => exact h.execScrubPass
  | bankRetired _ _ _ => exact h.execBankRetired
  | moduleReset => exact h.resetModule.next
  | bringup => exact h.execBringup
  | deviceReset _ => exact h.execDeviceReset
  | engineDrainTimeout _ => exact h.execEngineDrainTimeout
  | attest => exact h.execAttest
  | cert => exact h.execCert
  | load _ _ => exact h.execLoad
  | fwWatchdog => exact h.fatalEvent.next
  | thermalTrip _ => exact h.fatalEvent.next
  | thermalThrottle _ => exact h.execThermalThrottle
  | powerFault => exact h.fatalEvent.next
  | ctFatal => exact h.fatalEvent.next
  | clockChange _ => exact h.execClockChange
  | nop _ => exact h.done.out
  | saddR _ => exact h.scalarR.out
  | ssubR _ => exact h.scalarR.out
  | smulR _ => exact h.scalarR.out
  | smulh _ => exact h.scalarR.out
  | sdiv _ => exact h.scalarR.out
  | srem _ => exact h.scalarR.out
  | sandR _ => exact h.scalarR.out
  | sorR _ => exact h.scalarR.out
  | sxorR _ => exact h.scalarR.out
  | sshlR _ => exact h.scalarR.out
  | sshrR _ => exact h.scalarR.out
  | ssraR _ => exact h.scalarR.out
  | sminR _ => exact h.scalarR.out
  | smaxR _ => exact h.scalarR.out
  | scmpR _ => exact h.scalarR.out
  | ssel _ => exact h.putS.done.out
  | smov _ => exact h.scalarR.out
  | sleaR _ => exact h.scalarR.out
  | spopc _ => exact h.scalarR.out
  | sclz _ => exact h.scalarR.out
  | sbrev _ => exact h.scalarR.out
  | saddI _ => exact h.scalarI.out
  | smulI _ => exact h.scalarI.out
  | sandI _ => exact h.scalarI.out
  | sorI _ => exact h.scalarI.out
  | sxorI _ => exact h.scalarI.out
  | sshlI _ => exact h.scalarI.out
  | sshrI _ => exact h.scalarI.out
  | ssraI _ => exact h.scalarI.out
  | scmpI _ => exact h.scalarI.out
  | sli _ => exact h.putS.done.out
  | br _ => exact h.transfer.done.out
  | brc _ => exact h.execBrc
  | brv _ => exact h.execBrv
  | rcv _ => exact h.execRcv
  | call _ => exact h.putS.transfer.done.out
  | ret _ => exact h.transfer.done.out
  | jmpi _ => exact h.execJmpi
  | mfs _ => exact h.execMfs
  | mts _ => exact h.put.done.out
  | enq _ => exact h.execEnq
  | exit _ => exact h.exitLanes.done.out
  | sminI _ => exact h.scalarI.out
  | smaxI _ => exact h.scalarI.out
  | sleaI _ => exact h.scalarI.out
  | vadd _ => exact h.elementwise2.out
  | vsub _ => exact h.elementwise2.out
  | vmul _ => exact h.elementwise2.out
  | vfma _ => exact (h.run fun _ => h.putElems.done).out
  | vneg _ => exact h.elementwise1.out
  | vabs _ => exact h.elementwise1.out
  | vmin _ => exact h.elementwise2.out
  | vmax _ => exact h.elementwise2.out
  | vdiv _ => exact h.elementwise2.out
  | vsqrt _ => exact h.elementwise1.out
  | vrcp _ => exact h.elementwise1.out
  | vrsq _ => exact h.elementwise1.out
  | vexp2 _ => exact h.elementwise1.out
  | vlog2 _ => exact h.elementwise1.out
  | vscpi _ => exact (h.run fun _ => h.putComponents.done).out
  | vcmul _ => exact (h.run fun _ => h.putComponents.done).out
  | vcfma _ => exact (h.run fun _ => h.putComponents.done).out
  | vbfly _ => exact (h.run fun _ => h.putComponents.done).out
  | vtwid _ => exact (h.run fun _ => h.putComponents.done).out
  | vcvtR _ => exact h.convert.out
  | vqnt _ => exact (h.run fun _ => h.putAll.done).out
  | vcvtI _ => exact h.convert.out
  | vtagI _ => exact h.retag.out
  | viaddR _ => exact h.intR.out
  | visub _ => exact h.intR.out
  | vimulR _ => exact h.intR.out
  | vimulh _ => exact h.intR.out
  | vifma _ => exact (h.run fun _ => h.putElems.done).out
  | vandR _ => exact h.bitwiseR.out
  | vorR _ => exact h.bitwiseR.out
  | vxorR _ => exact h.bitwiseR.out
  | vshlR _ => exact h.shiftR.out
  | vshrR _ => exact h.shiftR.out
  | vsraR _ => exact h.shiftR.out
  | viminR _ => exact h.intR.out
  | vimaxR _ => exact h.intR.out
  | viminI _ => exact h.intI.out
  | vimaxI _ => exact h.intI.out
  | vimulI _ => exact h.intI.out
  | viaddI _ => exact h.intI.out
  | vandI _ => exact h.bitwiseI.out
  | vorI _ => exact h.bitwiseI.out
  | vxorI _ => exact h.bitwiseI.out
  | vshlI _ => exact h.shiftI.out
  | vshrI _ => exact h.shiftI.out
  | vsraI _ => exact h.shiftI.out
  | vcmpR _ => exact h.compareLanes.out
  | vsel _ => exact (h.run fun _ => h.copyLanes.done).out
  | vmovR _ => exact (h.run fun _ => h.copyLanes.done).out
  | vbcastR _ => exact h.copyLanes.done.out
  | vlane _ => exact (h.run fun _ => h.putS.done).out
  | vshflR _ => exact (h.run fun _ => h.copyLanes.done).out
  | vperm _ => exact (h.run fun _ => h.putLanes.done).out
  | vscan _ => exact h.combineLanes.out
  | vred _ => exact h.combineLanes.out
  | vpopc _ => exact h.countBits.out
  | vclz _ => exact h.countBits.out
  | vtagR _ => exact h.execVtagR
  | vcmpI _ => exact h.compareLanes.out
  | vmovL _ => exact h.putLanes.done.out
  | vbcastI _ => exact h.putLanes.done.out
  | vshflI _ => exact h.putLanes.done.out
  | kand _ => exact h.putK.done.out
  | kor _ => exact h.putK.done.out
  | kxor _ => exact h.putK.done.out
  | knot _ => exact h.putK.done.out
  | kpopc _ => exact h.putS.done.out
  | kmovR _ => exact h.execKmovR
  | kmovL _ => exact h.putK.done.out
  | ldM _ => exact h.load.out
  | stM _ => exact h.store.out
  | ldsM _ => exact h.load.out
  | stsM _ => exact h.store.out
  | ldu _ => exact (h.runFlight fun _ _ ht => ht.putS.done).out
  | atmM _ => exact h.atomic.out
  | xaddM _ => exact h.exactAdd.out
  | xrdM _ => exact h.exactRead.out
  | xclr _ => exact (h.runFlight fun _ _ ht => ht.done).out
  | btl _ => exact h.execBtl
  | btinv _ => exact h.putAll.done.out
  | classR _ => exact h.execClassR
  | pfhM _ => exact h.done.out
  | send _ => exact h.execSend
  | rpop _ => exact h.execRpop
  | rwait _ => exact h.execRwait
  | ldN _ => exact h.load.out
  | stN _ => exact h.store.out
  | ldsN _ => exact h.load.out
  | stsN _ => exact h.store.out
  | atmN _ => exact h.atomic.out
  | pfhN _ => exact h.done.out
  | classI _ => exact h.hint.out
  | xaddN _ => exact h.exactAdd.out
  | xrdN _ => exact h.exactRead.out
  | ldshape _ => exact h.execLdshape
  | stshape _ => exact (h.runFlight fun _ _ ht => ht.done).out
  | cpyR _ => exact (h.commit.run fun _ => h.commit.startCopy).out
  | cpym _ => exact h.execCpym
  | shufR _ => exact h.commit.startShuffle.out
  | cpyI _ => exact (h.commit.run fun _ => h.commit.startCopy).out
  | shufI _ => exact h.commit.startShuffle.out
  | mma _ => exact h.noteTile.mma.out
  | mscl _ => exact h.noteTile.mscl.out
  | mrdR _ => exact (h.run fun _ => h.mrd).out
  | mwrR _ => exact h.execMwrR
  | mst _ => exact h.execMst
  | mzero _ => exact h.execMzero
  | mprog _ => exact h.execMprog
  | mrdI _ => exact h.mrd.out
  | mwrI _ => exact h.execMwrI
  | tsbind _ => exact h.execTsbind
  | tsdesc _ => exact h.descend.out
  | tsexp _ => exact h.execTsexp
  | tsback _ => exact h.execTsback
  | tsleaf _ => exact h.execTsleaf
  | tsroot _ => exact h.execTsroot
  | tsstat _ => exact h.execTsstat
  | cwsigR _ => exact h.signal.out
  | cwwaitR _ => exact h.countWait.out
  | cwrd _ => exact (h.countOp fun _ _ ht => ht.putS.done).out
  | cwset _ => exact (h.changeCount fun _ _ ht => ht.putS.done).out
  | gnew _ => exact h.execGnew
  | gjoin _ => exact h.execGjoin
  | gleave _ => exact h.execGleave
  | gbar _ => exact h.arrive.out
  | gvote _ => exact h.arrive.out
  | gred _ => exact h.arrive.out
  | gstat _ => exact h.execGstat
  | gfree _ => exact h.execGfree
  | cwsigI _ => exact h.signal.out
  | cwwaitI _ => exact h.countWait.out
  | trapL _ => exact h.trap.out
  | tret _ => exact h.returnFromTrap.out
  | region _ => exact h.execRegion
  | pgsupply _ => exact h.execPgsupply
  | bkpt _ => exact h.trap.out
  | sleep _ => exact h.wait.out
  | mflog _ => exact h.putS.done.out
  | trapR _ => exact h.trap.out
  | coreRetirement _ => exact h.setCore.setDevice.next
  | hostPortLinkChange _ _ _ => exact h.execHostPortLinkChange
  | ageingInterval _ => exact h.execAgeingInterval
  | debugPortMemoryAccess _ _ => exact h.execDebugPortMemoryAccess
  | mopBadArg _ => exact h.execMopBadArg
  | mbcmdBadCmd => exact h.execMbcmdBadCmd

end State.Safe

/-! ### Errors -/

namespace State.Safe

variable {s : State} (h : s.Safe)
include h

theorem strikeWord {detail data} : (s.strikeWord detail data).Safe := by
  fun_cases State.strikeWord <;> grind [focusOn, takeTrap, stopWaiting, setF]

theorem strikeItem {c slot detail addr} : (s.strikeItem c slot detail addr).Safe := by
  fun_cases State.strikeItem <;> grind [setCopy, setCore]

theorem strikeWalk {d ctx detail addr} : (s.strikeWalk d ctx detail addr).Safe := by
  fun_cases State.strikeWalk <;> grind [logEvent, dropWaiter, setSpinel]

theorem correctError {d slice bank} : (s.correctError d slice bank).Safe := h.setSlice.logEvent

theorem correctedIn {src core} : (s.correctedIn src core).Safe := h.logEvent

omit h in
theorem spoil {t : State} (ht : t.Safe) {c k m} : (s.spoil t c k m).Safe := by
  rw [State.Safe, State.spoil]
  exact Memory.wf_spoilMem (State.Safe.ite ht ht.setWarp.setWg)

theorem wrongItem {c slot m} : (s.wrongItem c slot m).Safe := by
  fun_cases State.wrongItem <;> grind [setCore]

omit h in
theorem garbled {t : State} (ht : t.Safe) {wrong a x} : (t.garbled s wrong a x).Safe := by
  rw [State.Safe, State.garbled]
  dsimp only
  exact Memory.wf_spoilMem (Memory.wf_unflip ht)

theorem dropTlb {c page} : (s.dropTlb c page).Safe := h.setCore

end State.Safe

/-! ### One turn -/

namespace State.Safe

variable {s : State} (h : s.Safe)
include h

theorem runBehind {ds} : (s.runBehind ds).1.Safe := by
  fun_induction State.runBehind <;> grind [exec, NextSafe, State.Safe]

theorem answered {d} : (s.answered d).Safe := by
  fun_cases State.answered <;> grind [setW]

theorem runWords {n} : NextSafe (s.runWords n) := by
  fun_induction State.runWords <;> grind [focusOn, exec, runBehind, setFrag, answered, NextSafe, Res.Safe, State.Safe]

theorem openGroup {c q sel slow lanes} : (s.openGroup c q sel slow lanes).1.Safe := by
  fun_cases State.openGroup <;> grind [passSplits, restoreQuad, tryIssue, focusOn, State.Safe]

theorem issueTurn {c q sel slow lanes} : NextSafe (s.issueTurn c q sel slow lanes) := by
  fun_cases State.issueTurn <;> grind [openGroup, runWords, NextSafe]

end State.Safe

theorem clearUpset_safe {r} (hr : NextSafe r) : NextSafe (clearUpset r) := by
  fun_cases Machine.clearUpset <;> grind [NextSafe, Res.Safe, State.Safe]

namespace State.Safe

variable {s : State} (h : s.Safe)
include h

theorem strikeTurn {c q sel n lanes detail data} : NextSafe (s.strikeTurn c q sel n lanes detail data) := by
  fun_cases State.strikeTurn <;> grind [openGroup, clearUpset_safe, runWords, strikeWord, NextSafe, State.Safe]

theorem wrongTurn {c q sel n lanes mask} : NextSafe (s.wrongTurn c q sel n lanes mask) := by
  fun_cases State.wrongTurn <;> grind [openGroup, runWords, clearUpset_safe, spoil, NextSafe, State.Safe]

theorem dropLine {c line} : (s.dropLine c line).Safe := h.setCore

theorem bringLine {c va} : (s.bringLine c va).Safe := by
  fun_cases State.bringLine <;> grind [fillLine]

theorem eventTurn {i} : NextSafe (s.eventTurn i) := by
  fun_cases State.eventTurn <;> grind [exec, NextSafe]

/-- By induction on the turn: only a garbled read has a turn inside it. -/
theorem takeTurn {turn} : NextSafe (s.takeTurn turn) := by
  induction turn generalizing s with
  | garbled a read write move ih =>
    rw [State.takeTurn]
    split
    · rename_i t e
      exact (garbled (ih h.flip t e)).next
    · exact ih h.flip
  | tick n => exact h.advance.next
  | issue c q delay sel lanes slow => exact h.advance.issueTurn
  | event i => exact h.eventTurn
  | strike c q delay sel n lanes detail data => exact h.advance.strikeTurn
  | strikeItem c slot detail addr => exact (State.Safe.ite h h.strikeItem).next
  | strikeWalk d ctx detail addr => exact (State.Safe.ite h h.strikeWalk).next
  | wrong c q delay sel n lanes mask => exact h.advance.wrongTurn
  | wrongItem c slot mask => exact h.wrongItem.next
  | writebackLost d line => exact h.writebackLost.next
  | correctedIn src core => exact h.correctedIn.next
  | linkPacket p cls flits req => exact h.linkPacket.next
  | linkSend p cls => exact h.linkSend.next
  | windowRead by_ off n => exact (h.inOrder h.windowRead).next
  | dropLine c line => exact h.dropLine.next
  | bringLine c va => exact (State.Safe.ite h h.bringLine).next
  | readAhead c va => exact (State.Safe.ite h h.readAhead).next
  | corrected d slice bank => exact (State.Safe.ite h h.correctError).next
  | dropTlb c page => exact h.dropTlb.next
  | torusSend src dst cls flits => exact h.torusSend.next
  | torusHop i => exact h.torusHop.next
  | walkAhead d page => exact (State.Safe.ite h h.walkAhead).next
  | cancelLoad req => exact h.cancelLoad.next

end State.Safe

/-! ### The step -/

namespace State.Safe

variable {s : State} (h : s.Safe)
include h

theorem nextTurn : s.nextTurn.2.Safe := by
  fun_cases State.nextTurn <;> grind [State.Safe]

theorem step : NextSafe (Machine.step s) := by
  intro t e
  rw [Machine.step] at e
  split at e
  · rename_i u hu
    cases e
    exact serveFreed (h.nextTurn.takeTurn _ hu).settle
  · cases e
  · cases e

end State.Safe

/-- Settles O59: every function that a step uses keeps the canonical form of memory. -/
theorem stepKeepsMemoryCanonical : Obligations.StepKeepsMemoryCanonical := by
  unfold Obligations.StepKeepsMemoryCanonical
  intro s t h e
  exact State.Safe.step h t e

end Sys2Proof.Machine

/-! ## Dispatch, placement, restoration and release of units (O44) -/

namespace Sys2Proof.Machine

/-- The dispatcher of a device takes steps: no fatal event, and no device reset under way. -/
def State.Running (s : State) (d : Nat) : Prop := s.module.fatal = none ∧ (s.device d).drst = false

theorem State.Running.not_stopped {s : State} {d : Nat} (h : s.Running d) :
    (s.module.fatal.isSome || (s.device d).drst) = false := by
  obtain ⟨hfatal, hreset⟩ := h
  simp [hfatal, hreset]

/-! ### TASK_DISPATCH: each kind of task has its own checks (R15, R23) -/

section
variable {s o : State} {dev : Fin 4} {t : Nat} (hrun : s.Running dev.val) (hnext : s.nextEligible dev.val = some t)
include hrun hnext

theorem exec_taskDispatch_kernel (hkind : (s.task t).kind = 0) (h : s.dispatchKernel t = o) :
    exec (.taskDispatch dev) s = .next o := by
  simp [exec, execTaskDispatch, hrun.not_stopped, hnext, hkind, h]

theorem exec_taskDispatch_copy (hkind : (s.task t).kind = 1) (h : s.dispatchCopy t = o) :
    exec (.taskDispatch dev) s = .next o := by
  simp [exec, execTaskDispatch, hrun.not_stopped, hnext, hkind, h]

theorem exec_taskDispatch_signal (hkind : (s.task t).kind = 2) (h : s.dispatchSignal t = o) :
    exec (.taskDispatch dev) s = .next o := by
  simp [exec, execTaskDispatch, hrun.not_stopped, hnext, hkind, h]

end

/-! ### KERNEL tasks (R16, R17, R23 to R25) -/

/-- The grid and the gang of a KERNEL packet are ones that can be formed (R16, R17). -/
def Task.GridFits (x : Task) : Prop :=
  x.gridX ≠ 0 ∧ x.gridY ≠ 0 ∧ x.gridZ ≠ 0 ∧ bitsOf (x.word (x.payload + 1)) 49 48 ≠ 3 ∧ x.gridX % x.gang = 0

theorem Task.gridFits_iff (x : Task) : x.GridFits ↔
    (x.gridX = 0 || x.gridY = 0 || x.gridZ = 0 || bitsOf (x.word (x.payload + 1)) 49 48 = 3 ||
      x.gridX % x.gang != 0) = false := by
  simp [Task.GridFits, and_assoc]

/-- The state after the descriptor `n` of a KERNEL task has been read: the task has the descriptor's KID. -/
def State.nameKernel (s : State) (t n : Nat) : State :=
  s.setTask t { s.task t with kid := BitVec.ofNat 64 (n / 2 ^ 320) }

section
variable {s u : State} {t n : Nat}

theorem State.dispatchKernel_misaligned (h : (s.task t).word (s.task t).payload % 128 ≠ 0) :
    s.dispatchKernel t = s.endTask t 0x15 0 := by
  simp [State.dispatchKernel, h]

variable (haligned : (s.task t).word (s.task t).payload % 128 = 0)
  (hread : s.testRead t ((s.task t).word (s.task t).payload) 128 = .inl (n, u))
include haligned hread

theorem State.dispatchKernel_badGrid (hgrid : ¬(s.task t).GridFits) : s.dispatchKernel t = u.endTask t 0x16 0 := by
  rw [Task.gridFits_iff, Bool.not_eq_false] at hgrid
  simp only [State.dispatchKernel, haligned, hread, hgrid, bne_self_eq_false, Bool.false_eq_true, if_false, if_true]

variable (hgrid : (s.task t).GridFits)
include hgrid

theorem State.dispatchKernel_badField (hparse : Desc.parse n = none) :
    s.dispatchKernel t = (u.nameKernel t n).endTask t 0x18 0 := by
  rw [Task.gridFits_iff] at hgrid
  simp only [State.dispatchKernel, State.nameKernel, haligned, hread, hgrid, hparse, bne_self_eq_false,
    Bool.false_eq_true, if_false]

theorem State.dispatchKernel_starts {v : State} {l : Leaf} {kd : Desc} (hparse : Desc.parse n = some kd)
    (hdict : kd.dict = 0)
    (hcode : (u.nameKernel t n).testAll t [kd.code, kd.code + 12 * kd.codeLen - 1] = .pass l v) :
    s.dispatchKernel t = (v.setTask t { v.task t with
      desc := kd, descAddr := (s.task t).word (s.task t).payload, dict := none, phase := .running,
      units := (s.task t).grid / (s.task t).gang, left := (s.task t).grid }).freshCode (s.task t).dev := by
  rw [Task.gridFits_iff] at hgrid
  rw [State.nameKernel] at hcode
  simp only [State.dispatchKernel, haligned, hread, hgrid, hparse, hdict, hcode, bne_self_eq_false,
    Bool.false_eq_true, if_false, if_true]

end

/-! ### COPY and SIGNAL tasks (R18) -/

theorem rangesMeet_iff (a b n : Nat) : rangesMeet a b n = true ↔ a < b + n ∧ b < a + n := by simp [rangesMeet]

/-- A field of a COPY packet is out of range, or its two ranges overlap (R18). -/
def Task.BadCopy (x : Task) : Prop :=
  2 ^ 40 < x.word (x.payload + 2) ∨ 2 ^ 57 ≤ x.word x.payload ∨ 2 ^ 57 ≤ x.word (x.payload + 1) ∨
  2 ^ 57 ≤ x.word (x.payload + 3) ∨ (x.word x.payload < x.word (x.payload + 1) + x.word (x.payload + 2) ∧
    x.word (x.payload + 1) < x.word x.payload + x.word (x.payload + 2))

theorem Task.badCopy_iff (x : Task) : x.BadCopy ↔
    (2 ^ 40 < x.word (x.payload + 2) || 2 ^ 57 ≤ x.word x.payload || 2 ^ 57 ≤ x.word (x.payload + 1) ||
      2 ^ 57 ≤ x.word (x.payload + 3) ||
      rangesMeet (x.word x.payload) (x.word (x.payload + 1)) (x.word (x.payload + 2))) = true := by
  simp only [Task.BadCopy, Bool.or_eq_true, decide_eq_true_eq, rangesMeet_iff, or_assoc]

/-- The first and last bytes of the two ranges of a COPY packet. -/
def Task.copyEnds (x : Task) : List Nat :=
  if x.word (x.payload + 2) = 0 then []
  else [x.word x.payload, x.word x.payload + x.word (x.payload + 2) - 1, x.word (x.payload + 1),
    x.word (x.payload + 1) + x.word (x.payload + 2) - 1]

section
variable {s u v : State} {t : Nat} {l l' : Leaf}

theorem State.dispatchCopy_badField (h : (s.task t).BadCopy) : s.dispatchCopy t = s.endTask t 0x17 0 := by
  rw [Task.badCopy_iff] at h
  simp only [State.dispatchCopy, h, if_true]

theorem State.dispatchCopy_starts (h : ¬(s.task t).BadCopy) (hends : s.testAll t (s.task t).copyEnds = .pass l u)
    (hcount : u.testCount t ((s.task t).word ((s.task t).payload + 3)) false = .pass l' v) :
    s.dispatchCopy t = v.setTask t { v.task t with phase := .running, units := 1, left := 1 } := by
  rw [Task.badCopy_iff, Bool.not_eq_true] at h
  rw [Task.copyEnds] at hends
  simp only [State.dispatchCopy, h, hends, hcount, Bool.false_eq_true, if_false]

theorem State.signalAdd_over (h : s.engineAdd (ctActor (s.task t).dev t 2)
      (BitVec.ofNat 64 ((s.task t).word (s.task t).payload)) ((s.task t).word ((s.task t).payload + 1)) 0 = (.over, v)) :
    s.signalAdd t = v.setTask t { v.task t with phase := .ending, left := 0 } := by
  simp only [State.signalAdd, h]

theorem State.dispatchSignal_badField (h : 2 ^ 57 ≤ (s.task t).word (s.task t).payload) :
    s.dispatchSignal t = s.endTask t 0x17 0 := by
  simp only [State.dispatchSignal, h, if_true]

theorem State.dispatchSignal_adds (h : (s.task t).word (s.task t).payload < 2 ^ 57)
    (hcount : s.testCount t ((s.task t).word (s.task t).payload) true = .pass l u) :
    s.dispatchSignal t = u.signalAdd t := by
  simp only [State.dispatchSignal, Nat.not_le.mpr h, hcount, if_false]

end

/-! ### UNIT_PLACEMENT and UNIT_RESTORE (R50, R54, R58) -/

section
variable {s w : State} {d : Nat} {c : Cand} {cs : List Nat}

/-- Where every unit that waits fits the device, no task is refused. -/
theorem State.refuseNever_eq_self (h : ∀ c ∈ s.waiting d, s.neverFits d c = none) : s.refuseNever d = s := by
  refine List.foldlRecOn (motive := fun u => u = s) _ _ rfl fun u hu c hc => ?_
  subst hu
  simp only [h c hc]

variable {dev : Fin 4} (hrun : s.Running dev.val) (hfits : ∀ c ∈ s.waiting dev.val, s.neverFits dev.val c = none)
  (hchoose : s.choose dev.val = (some (c, cs), w))
include hrun hfits hchoose

theorem State.dispatcherStep_settles {want : Cand → Bool} (hwant : want c = true) :
    s.dispatcherStep dev.val want = w.settleUnit dev.val c cs := by
  simp only [State.dispatcherStep, hrun.not_stopped, State.refuseNever_eq_self hfits, hchoose, hwant,
    Bool.false_eq_true, if_false, if_true]

theorem exec_unitPlacement (hnew : c.saved = false) :
    exec (.unitPlacement dev) s = .next (w.settleUnit dev.val c cs) := by
  rw [← State.dispatcherStep_settles hrun hfits hchoose (want := fun c => !c.saved) (by simp [hnew])]
  rfl

theorem exec_unitRestore (hsaved : c.saved = true) :
    exec (.unitRestore dev) s = .next (w.settleUnit dev.val c cs) := by
  rw [← State.dispatcherStep_settles hrun hfits hchoose (want := fun c => c.saved) hsaved]
  rfl

end

section
variable {s : State} {d : Nat} {c : Cand} {cs : List Nat}

theorem State.settleUnit_saved (h : c.saved = true) : s.settleUnit d c cs = s.restoreUnit d c cs := by
  simp [State.settleUnit, h]

theorem State.settleUnit_copy (h : c.saved = false) (hkind : (s.task c.task).kind = 1) :
    s.settleUnit d c cs = s.placeCopy d c (cs.headD 0) := by
  simp [State.settleUnit, h, hkind]

theorem State.settleUnit_new (h : c.saved = false) (hkind : (s.task c.task).kind ≠ 1) :
    s.settleUnit d c cs = s.placeUnit d c cs := by
  simp [State.settleUnit, h, hkind]

end

/-! ### The saved registers of a restored warp (R370) -/

/-- The registers that a warp placed again reads back: those of its save set. -/
theorem State.newWarp_restoring_regs (s : State) (t wg warpId k : Nat) (sw : SavedWarp) :
    (s.newWarp t wg warpId k (some sw)).restoring.map (fun e => e.1) = (sw.mark.map (fun m => saveSet m.save)).getD [] :=
  List.zipIdx_map_fst 0 _

/-- They stand in the frame in order, from its first place on. -/
theorem State.newWarp_restoring_places (s : State) (t wg warpId k : Nat) (saved : Option SavedWarp) :
    let y := s.newWarp t wg warpId k saved
    y.restoring.map (fun e => e.2) = List.range y.restoring.length := by
  simp [State.newWarp, List.zipIdx_map_snd, List.range_eq_range']

section
variable {s u : State} {c k n rg j : Nat} {rs : List (Nat × Nat)}

/-- The word in focus while a restored warp reads its registers: the warp's first fragment. -/
def State.restoreFocus (s : State) (c k : Nat) : State := s.focusOn c k ((s.warp c k).frags.headD (0, {})).1

/-- The read of the j-th saved register from the frame of a restored warp. -/
def State.readSaved (s : State) (c k j : Nat) : Acc × State :=
  let here := s.restoreFocus c k
  here.access (here.laneActor 7 (lowLane here.active)) none (here.frameSlot j) (.read 8)

/-- A register that has been read back: it leaves the list of those to read. -/
def State.putSaved (s : State) (c k rg val : Nat) (rs : List (Nat × Nat)) : State :=
  s.setWarp c k { s.warp c k with sregs := Tab.set (s.warp c k).sregs rg (BitVec.ofNat 64 val), restoring := rs }

variable (hnext : (s.warp c k).restoring = (rg, j) :: rs)
include hnext

theorem State.restoreRegs_of_ok {val : Nat} (hread : s.readSaved c k j = (.ok val, u)) :
    let z := u.putSaved c k rg val rs
    s.restoreRegs c k (n + 1) = (z.setF { z.f with park := .none }).restoreRegs c k n := by
  rw [State.readSaved, State.restoreFocus] at hread
  simp only [State.restoreRegs, hnext, hread, State.putSaved]

theorem State.restoreRegs_of_fault {cause : BitVec 10} (hread : s.readSaved c k j = (.fault cause, u)) :
    s.restoreRegs c k (n + 1) =
      u.faultWarp c k cause 0 (BitVec.ofNat 64 ((s.restoreFocus c k).frameSlot j)) 0 := by
  rw [State.readSaved, State.restoreFocus] at hread
  simp only [State.restoreRegs, hnext, hread, State.restoreFocus]

end

/-! ### WORKGROUP_RELEASE (R60) and RESIDENCY_DEADLOCK (R56) -/

theorem exec_workgroupRelease {s : State} {core : Fin 192} {wg : Fin 32} {g : Workgroup}
    (hfind : Tab.find (s.core core.val).wgs wg.val = some g) (hslots : g.slots = [])
    (hidle : s.wgBusy core.val wg.val = false) :
    Ends (exec (.workgroupRelease core wg) s) (fun t => wg.val ∉ Tab.keys (t.core core.val).wgs ∧
      (t.task g.task).left = (s.task g.task).left - 1 ∧ t.mem = s.mem) := by
  simp only [exec, execWorkgroupRelease, hfind, hslots, hidle, List.isEmpty_nil, Bool.not_true, Bool.or_self,
    Bool.false_eq_true, if_false]
  refine ⟨_, rfl, ?_, ?_, rfl⟩
  · show wg.val ∉ Tab.keys (State.core (s.setCore core.val _) core.val).wgs
    rw [State.core_setCore]
    exact Tab.not_mem_keys_del _ _
  · rw [State.task_setTask]
    rfl

/-- The resident warps of some cores, by core and slot. -/
def State.warpsOf (s : State) (cores : List Nat) : List (Nat × Nat) :=
  cores.flatMap (fun c => (s.core c).warps.map (fun e => (c, e.1)))

theorem exec_residencyDeadlock {s : State} {dev : Fin 4} {r : Reservation} (hreserv : (s.device dev.val).reserv = some r)
    (hstall : (s.device dev.val).stall ≠ 0) (hhalt : (s.device dev.val).dhalt = false)
    (hsince : r.since + (s.device dev.val).stall ≤ s.counted dev.val) (hwarps : s.warpsOf r.cores ≠ [])
    (hparked : ∀ p ∈ s.warpsOf r.cores,
      (s.warp p.1 p.2).parkedFor (s.counted dev.val) (s.device dev.val).stall = true) :
    exec (.residencyDeadlock dev) s = .next
      (((s.setDevice dev.val { s.device dev.val with ndead := bump32 (s.device dev.val).ndead }).logEvent
        { cause := 0x301, src := dev.val, core := r.cores.headD 0, task := some r.task, counts := false }).deadlockWarps
          (s.warpsOf r.cores)) := by
  have hempty : (s.warpsOf r.cores).isEmpty = false := by simpa using hwarps
  have hall : (s.warpsOf r.cores).all
      (fun p => (s.warp p.1 p.2).parkedFor (s.counted dev.val) (s.device dev.val).stall) = true := List.all_eq_true.mpr hparked
  rw [State.warpsOf] at hempty hall
  simp [exec, execResidencyDeadlock, State.warpsOf, hreserv, hstall, hhalt, Nat.not_lt.mpr hsince, hempty, hall]

/-- Settles O44: each clause is one lemma about the function that carries out the step. -/
theorem dispatchEventResults : Obligations.DispatchEventResults := by
  unfold Obligations.DispatchEventResults
  intro s u v w dev core wg t n l l' kd c cs g r slot warpId sw rg j val rs cause d x p running dispatches
  refine ⟨?kernelMisaligned, ?kernel, ⟨?copyBad, ?copyStarts⟩, ?signalBad, ?signalAdds, ?place, ?restore, ?newWarp, ?oldWarp,
    ?registers, exec_workgroupRelease, exec_residencyDeadlock⟩
  case kernelMisaligned =>
    exact fun h hrun hnext hkind => exec_taskDispatch_kernel hrun hnext hkind (State.dispatchKernel_misaligned h)
  case kernel =>
    intro ha hread
    refine ⟨fun hgrid hrun hnext hkind => ?badGrid, fun hgrid hparse hrun hnext hkind => ?badField,
      fun hgrid hparse hdict hcode hrun hnext hkind => ?starts⟩
    case badGrid => exact exec_taskDispatch_kernel hrun hnext hkind (State.dispatchKernel_badGrid ha hread hgrid)
    case badField => exact exec_taskDispatch_kernel hrun hnext hkind (State.dispatchKernel_badField ha hread hgrid hparse)
    case starts => exact exec_taskDispatch_kernel hrun hnext hkind (State.dispatchKernel_starts ha hread hgrid hparse hdict hcode)
  case copyBad =>
    exact fun h hrun hnext hkind => exec_taskDispatch_copy hrun hnext hkind (State.dispatchCopy_badField h)
  case copyStarts =>
    exact fun h hends hcount hrun hnext hkind =>
      exec_taskDispatch_copy hrun hnext hkind (State.dispatchCopy_starts h hends hcount)
  case signalBad =>
    exact fun h hrun hnext hkind => exec_taskDispatch_signal hrun hnext hkind (State.dispatchSignal_badField h)
  case signalAdds =>
    exact fun h hcount hadd hrun hnext hkind => exec_taskDispatch_signal hrun hnext hkind
      ((State.dispatchSignal_adds h hcount).trans (State.signalAdd_over hadd))
  case place =>
    refine fun hrun hfits hchoose => ⟨fun hnew hkind => ?_, fun hnew hkind => ?_⟩
    · rw [exec_unitPlacement hrun hfits hchoose hnew, State.settleUnit_new hnew hkind]
    · rw [exec_unitPlacement hrun hfits hchoose hnew, State.settleUnit_copy hnew hkind]
  case restore =>
    intro hrun hfits hchoose hsaved
    rw [exec_unitRestore hrun hfits hchoose hsaved, State.settleUnit_saved hsaved]
  case newWarp => exact ⟨rfl, rfl, rfl, rfl, rfl, rfl, rfl, rfl, rfl, rfl, rfl, rfl, rfl⟩
  case oldWarp =>
    refine ⟨rfl, rfl, rfl, rfl, rfl, rfl, rfl, rfl, rfl, rfl, rfl, rfl, rfl, rfl, rfl, rfl, rfl, rfl, rfl, rfl, ?_, ?_⟩
    · exact s.newWarp_restoring_regs t n warpId slot sw
    · exact s.newWarp_restoring_places t n warpId slot (some sw)
  case registers =>
    exact fun hnext => ⟨State.restoreRegs_of_ok hnext, State.restoreRegs_of_fault hnext⟩

end Sys2Proof.Machine

/-! ## The queue step (O32) -/

namespace Sys2Proof.Machine

/-! ### What an access of a queue engine leaves: the bytes of memory and the errors of its lines -/

/-- The bytes of memory, and the lines of it that hold an error. -/
def State.stored (s : State) : Memory × List Nat := (s.mem, s.lost)

@[simp] theorem State.stored_reclassify (s : State) (key : Nat) (c : PageClass) :
    (s.reclassify key c).stored = s.stored :=
  foldl_keeps State.stored _ (fun t p => by cases p <;> rfl) _ _

@[simp] theorem State.stored_dropPage (s : State) (key : Nat) : (s.dropPage key).stored = s.stored := rfl

@[simp] theorem State.stored_cacheAccess (s : State) (core : Option Nat) (mine write : Bool) (pa : Nat) :
    (s.cacheAccess core mine write pa).stored = s.stored := by
  fun_cases State.cacheAccess <;> rfl

@[simp] theorem State.stored_ctPage (s : State) (pfn : Nat) : (s.ctPage pfn).2.stored = s.stored := by
  fun_cases State.ctPage <;> rfl

@[simp] theorem State.stored_ctAccess (s : State) (pa : Nat) (write : Bool) : (s.ctAccess pa write).stored = s.stored := by
  rw [← s.stored_ctPage (pa / 65536), State.ctAccess, State.stored_cacheAccess]
  repeat' split
  all_goals simp only [↓State.stored_reclassify, ↓State.stored_dropPage, State.stored]

theorem State.stored_ctTouch (s : State) (pa n : Nat) (write : Bool) : (s.ctTouch pa n write).stored = s.stored := by
  rw [State.ctTouch]
  split
  · exact foldl_keeps State.stored (fun t (e : Nat × Nat) => t.ctAccess e.1 write) (fun t e => t.stored_ctAccess e.1 write) _ _
  · rfl

theorem State.mem_ctTouch (s : State) (pa n : Nat) (write : Bool) : (s.ctTouch pa n write).mem = s.mem :=
  congrArg Prod.fst (s.stored_ctTouch pa n write)

theorem State.lost_ctTouch (s : State) (pa n : Nat) (write : Bool) : (s.ctTouch pa n write).lost = s.lost :=
  congrArg Prod.snd (s.stored_ctTouch pa n write)

theorem State.lineLost_ctTouch (s : State) (pa n : Nat) (write : Bool) (a k : Nat) :
    (s.ctTouch pa n write).lineLost a k = s.lineLost a k := by
  simp only [State.lineLost, State.lost_ctTouch]

/-- A write of a queue engine to a line without an error puts its bytes in memory. -/
theorem State.mem_ctWrite {s : State} {pa n : Nat} (v : Nat) (h : s.lineLost pa n = false) :
    (s.ctWrite pa n v).mem = s.mem.write pa n v := by
  simp only [State.ctWrite, State.lineLost_ctTouch, State.mem_ctTouch, h, Bool.false_eq_true, if_false]

/-! ### The tests of a queue, in order (R39) -/

/-- The submission ring of a queue holds as many packets as it has slots (R33). -/
def Queue.Full (x : Queue) : Prop := (x.qtail + 2 ^ 32 - x.qret) % 2 ^ 32 = 2 ^ x.slog

/-- A device-fed queue has used up its sequence numbers (R39). -/
def Queue.Spent (x : Queue) : Prop := 0xFFFFFFFFFFFFFFF0 ≤ x.qnextseq

/-- The packet that the queue step places: its SEQ field replaced by the queue's next number (R39). -/
def Queue.stamp (x : Queue) (bytes : List Byte) : List Byte := bytes.take 8 ++ natBytes 8 x.qnextseq ++ bytes.drop 16

/-- The submission slot of QTAIL (R33). -/
def Queue.tailSlot (x : Queue) : Nat := ringAddr x.ringFrames x.qbase (256 * (x.qtail % 2 ^ x.slog))

section
variable {s : State} {d q : Nat} (bytes : List Byte)

theorem State.queueStep_hostFed (hsrc : (s.queue d q).src = false) :
    s.queueStep d q bytes = (0xFFFFFFFFFFFFFFF3, s) := by
  simp only [State.queueStep, hsrc]
  rfl

theorem State.queueStep_disabled (hsrc : (s.queue d q).src = true) (hen : (s.queue d q).en = false) :
    s.queueStep d q bytes = (0xFFFFFFFFFFFFFFF2, s) := by
  simp only [State.queueStep, hsrc, hen]
  rfl

variable (hsrc : (s.queue d q).src = true) (hen : (s.queue d q).en = true)
include hsrc hen

theorem State.queueStep_full (hfull : (s.queue d q).Full) : s.queueStep d q bytes = (0xFFFFFFFFFFFFFFF1, s) := by
  rw [Queue.Full] at hfull
  simp only [State.queueStep, hsrc, hen, hfull, Bool.not_true, Bool.false_eq_true, if_false, if_true]
  rfl

theorem State.queueStep_spent (hfull : ¬(s.queue d q).Full) (hspent : (s.queue d q).Spent) :
    s.queueStep d q bytes = (0xFFFFFFFFFFFFFFF5, s) := by
  rw [Queue.Full] at hfull
  rw [Queue.Spent] at hspent
  simp only [State.queueStep, hsrc, hen, hfull, hspent, Bool.not_true, Bool.false_eq_true, if_false, if_true]
  rfl

theorem State.queueStep_places (hfull : ¬(s.queue d q).Full) (hspent : ¬(s.queue d q).Spent) :
    let x := s.queue d q
    let p := x.stamp bytes
    s.queueStep d q bytes = (BitVec.ofNat 64 x.qnextseq, (s.ctWrite x.tailSlot p.length (bytesNat p)).setQueue d q
      { x with qnextseq := x.qnextseq + 1, qtail := (x.qtail + 1) % 2 ^ 32 }) := by
  rw [Queue.Full] at hfull
  rw [Queue.Spent] at hspent
  simp only [State.queueStep, Queue.stamp, Queue.tailSlot, hsrc, hen, hfull, hspent, Bool.not_true, Bool.false_eq_true, if_false]

end

/-- Settles O32: the first of the four tests that fails refuses the packet; else it is written to the slot of QTAIL. -/
theorem queueStepResults : Obligations.QueueStepResults := by
  unfold Obligations.QueueStepResults
  intro s d q bytes x r full spent stamped pa
  refine ⟨State.queueStep_hostFed bytes, State.queueStep_disabled bytes, State.queueStep_full bytes,
    State.queueStep_spent bytes, fun hsrc hen hfull hspent hlost => ?_⟩
  have hplaces := State.queueStep_places bytes hsrc hen hfull hspent
  rw [show r = s.queueStep d q bytes from rfl, hplaces]
  exact ⟨rfl, State.mem_ctWrite _ hlost, by rw [State.queue_setQueue], by rw [State.queue_setQueue]⟩

end Sys2Proof.Machine

/-! ## The system words (O33): REGION's own scoreboard test (R99, R366)

A REGION whose save-set packet could not be fetched in the cycle of its issue makes the scoreboard test of its saved
registers when it has the packet (`State.boardSave`). The statement's clauses on the packet leave this test out. -/

namespace Sys2Proof.Machine

/-- A REGION in its place (R366) that has its save-set packet traps with the scoreboard cause when a saved register still
waits for its write (R99). -/
theorem exec_region_boardSave {s t : State} {o : OpG} {ws : List Word32} {data : Word64} (hflight : s.f.flight = none)
    (hframe : s.t.desc.frame ≠ 0) (hhidden : s.w.hidden = []) (hfrags : s.w.frags.length ≤ 1) (htokens : s.w.tokens = [])
    (hfetch : s.fetchWords (s.packetAt o.offI).toNat 3 [] = .inr (ws, t))
    (hboard : t.boardSave (ws.getD 1 0 ++ ws.getD 0 0) = some data) :
    Traps (exec (.region o) s) t 0x0FC data := by
  have hplace : (!s.w.hidden.isEmpty || 1 < s.w.frags.length || !s.w.tokens.isEmpty) = false := by
    simp [hhidden, hfrags, htokens]
  simp only [Traps, exec, execRegion, State.fetchPacket, hflight, hframe, hplace, hfetch, hboard, Option.isSome_none,
    Bool.false_eq_true, if_false, Res.out_trap]

/-- A warp at a REGION whose save-set packet, the next one, saves s1, and whose write of s1 completes in cycle 4. -/
def State.saving : State :=
  let s := (State.reset.withFetchWord 32 0).focusOn 0 0 0
  let page (n : Nat) (w : Bool) : Nat × TlbEntry := (n, { leaf := { pa := 65536 * n, w := w, x := !w } })
  let s := s.setCore 0 { s.core 0 with tlb := [page 1 false, page 2 true] }
  let s := s.setW { s.w with pend := [{ due := 4, issue := 0, pos := 0, write := .s 1 5 }] }
  let s := s.setTask 0 { s.t with desc := { s.t.desc with codeLen := 2, frame := 131072, check := true, trapIdx := 0 } }
  { s with mem := s.mem.write 65548 12 (2 + 0xE8000000 * 2 ^ 64) }

/-- The state when its save-set packet has been fetched. -/
def State.savingFetched : State :=
  match State.saving.fetchWords 65548 3 [] with
  | .inr (_, t) => t
  | .inl (_, t) => t

theorem State.saving_fetchWords :
    State.saving.fetchWords (State.saving.packetAt 1).toNat 3 [] = .inr ([2, 0, 0xE8000000], State.savingFetched) := by
  decide


/-- The save set's one store, to the first place of the warp's frame, ends at once. -/
theorem State.savingFetched_flown :
    let t := State.savingFetched
    ∃ x, t.flown false {
      type := 1, single := true, got := [(100, 2)]
      reqs := (List.zipIdx (saveSet 2)).map (fun e =>
        { lane := e.2, va := t.frameSlot e.2, op := .write 8 (t.S (BitVec.ofNat 6 e.1)).toNat }) } = some x :=
  Option.isSome_iff_exists.mp (by decide)

/-- Refutes O33: REGION is in its place, its packet is a save-set packet of one register, and the store of that register
ends at once; yet the word takes the scoreboard cause, since the write of the register has not completed. -/
theorem not_systemWordResults : ¬ Obligations.SystemWordResults := by
  unfold Obligations.SystemWordResults
  intro h
  obtain ⟨⟨u, got⟩, hflown⟩ := State.savingFetched_flown
  obtain ⟨-, -, -, -, -, -, -, hregion, -, -⟩ :=
    h State.saving State.savingFetched u {} {} { off := 1 } got 0 [2, 0, 0xE8000000] {} (State.saving.pagerEntry 0 0) State.saving 0
  obtain ⟨-, hholds⟩ := hregion (by decide) (by decide) (by decide) (by decide) (by decide) State.saving_fetchWords
  obtain ⟨v, hdone, hout, -⟩ := hholds (by decide) ⟨by decide, by decide⟩ hflown
  have htrap : Traps (exec (.region { off := 1 }) State.saving) State.savingFetched 0x0FC _ :=
    exec_region_boardSave (by decide) (by decide) (by decide) (by decide) (by decide) State.saving_fetchWords
      (data := boardData (.s, 1) 4 0) (by decide)
  rw [htrap] at hdone
  cases hdone
  revert hout
  decide

end Sys2Proof.Machine

/-! ## The queue engines (O43): an enable opens a new era of its rings (R33)

The model counts the enables of a queue (`Queue.era`), so that a slot index belongs to the ring in which its packet was taken. The
statement's clause on QUEUE_ENABLE gives the queue of before with new frames and indexes, and so with its old count. -/

namespace Sys2Proof.Machine

/-- A queue whose rings translate is enabled (R33) in its next era. -/
theorem State.enableQueue_of_frames {s u w : State} {d q : Nat} {f g : List Nat} (hslog : 4 ≤ (s.queue d q).slog)
    (hslog' : (s.queue d q).slog ≤ 12) (hclog : 4 ≤ (s.queue d q).clog) (hclog' : (s.queue d q).clog ≤ 12)
    (hsub : s.ringFrames d (s.queue d q).qbase (256 * 2 ^ (s.queue d q).slog) = (some f, u))
    (hrec : u.ringFrames d (s.queue d q).qcbase (32 * 2 ^ (s.queue d q).clog) = (some g, w)) :
    (s.enableQueue d q).queue d q =
      let x := s.queue d q
      { w.queue d q with
        en := true, ringFrames := f, recFrames := g, qhead := x.qtail, qret := x.qtail, qctail := x.qtail,
        qchead := x.qtail, retiredIdx := [], era := x.era + 1 } := by
  have hsizes : ((s.queue d q).slog < 4 || 12 < (s.queue d q).slog || (s.queue d q).clog < 4 ||
      12 < (s.queue d q).clog) = false := by
    simp [hslog, hslog', hclog, hclog']
  simp only [State.enableQueue, hsizes, hsub, hrec, Bool.false_eq_true, if_false, State.queue_setQueue]

/-- An enable by the host, once the functions are enabled and no write of its stream is held. -/
theorem exec_queueEnable {s : State} {by_ : Stream} {q : Fin 32} (hready : s.module.ready = true)
    (hheld : s.streamHeld by_ = false) (hen : (s.queue by_.fn.val q.val).en = false) :
    exec (.queueEnable by_ q) s = .next (s.enableQueue by_.fn.val q.val) := by
  simp [exec, execQueueEnable, State.inOrder, State.hostWrite, State.enabled, hready, hheld, hen]

/-- Function 0 is ready, with queue 0 disabled and its two rings of 16 slots in one page that may be written, which a page table at
262144 maps to itself. -/
def State.disabledQueue : State :=
  let s := State.reset.setDevice 0 { State.reset.device 0 with ptroot := 262144 }
  let s := s.setQueue 0 0 { qbase := 131072, qcbase := 135168, slog := 4, clog := 4 }
  { s with mem := (s.mem.write 262144 8 (262144 + 1)).write (262144 + 16) 8 (131072 + 7)
           module := { s.module with ready := true } }

/-- The state when the pages of its submission ring, then those of its completion ring, have been walked. -/
def State.walkedOnce : State := (State.disabledQueue.ringFrames 0 131072 (256 * 2 ^ 4)).2
def State.walkedTwice : State := (State.walkedOnce.ringFrames 0 135168 (32 * 2 ^ 4)).2

theorem State.disabledQueue_ringFrames :
    State.disabledQueue.ringFrames 0 131072 (256 * 2 ^ 4) = (some [131072], State.walkedOnce) := by
  decide

theorem State.walkedOnce_ringFrames :
    State.walkedOnce.ringFrames 0 135168 (32 * 2 ^ 4) = (some [131072], State.walkedTwice) := by
  decide

/-- Refutes O43: by its clause on QUEUE_ENABLE a queue enabled for the first time is in era 0, and the model puts it in era 1. -/
theorem not_queueEventResults : ¬ Obligations.QueueEventResults := by
  unfold Obligations.QueueEventResults
  intro h
  have hsub := State.disabledQueue_ringFrames
  have hrec := State.walkedOnce_ringFrames
  obtain ⟨-, hhost, -⟩ :=
    h State.disabledQueue State.walkedOnce State.walkedTwice ⟨0, 0⟩ 0 0 0 0 0 0 0 {} [131072] [131072] {}
  obtain ⟨-, -, -, -, -, -, -, henables, -⟩ := hhost (by decide) (by decide)
  have hclaim := henables (by decide) (by decide) (by decide) (by decide) (by decide) hsub hrec
  rw [exec_queueEnable (by decide) (by decide) (by decide)] at hclaim
  have hera : ((State.disabledQueue.enableQueue 0 0).queue 0 0).era = (State.walkedTwice.queue 0 0).era :=
    (congrArg (fun t => (t.queue 0 0).era) (Host.Outcome.next.inj hclaim)).trans
      (congrArg Queue.era (State.queue_setQueue _ _ _ _))
  rw [State.enableQueue_of_frames (by decide) (by decide) (by decide) (by decide) hsub hrec] at hera
  revert hera
  decide

end Sys2Proof.Machine

/-! ## Pre-emption and the debugger (O50) -/

namespace Sys2Proof.Machine

/-! ### Requesting, saving and ending a unit (R368, R369, R371) -/

theorem exec_preemptionRequest {s : State} {dev : Fin 4} {un : Nat × Nat} (hrun : (s.device dev.val).dhalt = false)
    (hun : (s.device dev.val).preq.find?
      (fun u => (s.unitOf u.1 u.2).any (fun p => (s.wg p.1 p.2).preempt.isNone)) = some un) :
    exec (.preemptionRequest dev) s = .next (s.requestUnit un.1 un.2) := by
  simp only [exec, execPreemptionRequest, hrun, hun, Bool.false_eq_true, if_false]

/-- Every workgroup of a unit has been requested, its scratch is quiet and its warps are kept (R368). -/
def State.UnitKept (s : State) (wgs : List (Nat × Nat)) : Prop :=
  ∀ p ∈ wgs, (s.wg p.1 p.2).preempt.isSome = true ∧ s.scratchQuiet p.1 p.2 = true ∧
    ∀ k ∈ (s.wg p.1 p.2).slots, (s.warp p.1 k).kept = true

theorem State.unitKept_iff (s : State) (wgs : List (Nat × Nat)) : s.UnitKept wgs ↔
    wgs.all (fun p => (s.wg p.1 p.2).preempt.isSome && s.scratchQuiet p.1 p.2 &&
      (s.wg p.1 p.2).slots.all (fun k => (s.warp p.1 k).kept)) = true := by
  simp [State.UnitKept, and_assoc]

/-- The state once the data of a unit's workgroups have gone to their backing, as far as they could. -/
def State.saveAll (s : State) (wgs : List (Nat × Nat)) : State := wgs.foldl (fun s p => s.saveData p.1 p.2) s

section
variable {s : State} {core : Fin 192} {wg : Fin 32} {g : Workgroup}
  (hfind : Tab.find (s.core core.val).wgs wg.val = some g) (hkept : s.UnitKept (s.unitOf g.task g.unit))
  (hleft : ∃ p ∈ s.unitOf g.task g.unit, (s.wg p.1 p.2).slots ≠ [])
include hfind hkept hleft

/-- A unit that is ready to be saved is recorded, unless a failure of its backing has broken one of its workgroups (R59). -/
theorem exec_preemptionSave : exec (.preemptionSave core wg) s =
    let wgs := s.unitOf g.task g.unit
    .next (if wgs.any (fun p => ((s.saveAll wgs).wg p.1 p.2).broken.isSome) then s.saveAll wgs
      else (s.saveAll wgs).saveUnit (dieOf core.val) g.task g.unit wgs) := by
  rw [State.unitKept_iff] at hkept
  have hsome : (s.unitOf g.task g.unit).all (fun p => (s.wg p.1 p.2).slots.isEmpty) = false := by
    simpa using hleft
  simp only [exec, execPreemptionSave, hfind, hkept, hsome, State.saveAll, Bool.not_true, Bool.or_self, Bool.false_eq_true,
    if_false]
  exact (apply_ite Host.Outcome.next _ _ _).symm

theorem exec_preemptionSave_whole
    (hwhole : ∀ p ∈ s.unitOf g.task g.unit, ((s.saveAll (s.unitOf g.task g.unit)).wg p.1 p.2).broken = none) :
    exec (.preemptionSave core wg) s =
      .next ((s.saveAll (s.unitOf g.task g.unit)).saveUnit (dieOf core.val) g.task g.unit (s.unitOf g.task g.unit)) := by
  rw [exec_preemptionSave hfind hkept hleft]
  exact congrArg _ (if_neg (by simpa using hwhole))

theorem exec_preemptionSave_broken
    (hbroken : ∃ p ∈ s.unitOf g.task g.unit, ((s.saveAll (s.unitOf g.task g.unit)).wg p.1 p.2).broken ≠ none) :
    exec (.preemptionSave core wg) s = .next (s.saveAll (s.unitOf g.task g.unit)) := by
  rw [exec_preemptionSave hfind hkept hleft]
  exact congrArg _ (if_pos (by simpa [Option.isSome_iff_ne_none] using hbroken))

end

/-- A warp that is neither kept nor discarded when PDL has passed ends by fault (R369). -/
theorem exec_preemptDeadline {s : State} {core : Fin 192} {slot : Fin 128} {w : Warp} {t : Nat}
    (hfind : Tab.find (s.core core.val).warps slot.val = some w) (hasked : (s.wg core.val w.wg).preempt = some t)
    (hkept : w.kept = false) (hrun : (s.device (dieOf core.val)).dhalt = false)
    (hlate : t + w.heldCycles + 1024 * (s.device (dieOf core.val)).pdl ≤ s.counted (dieOf core.val)) :
    exec (.preemptDeadline core slot) s = .next ((s.setDevice (dieOf core.val) { s.device (dieOf core.val) with
      pkill := bump32 (s.device (dieOf core.val)).pkill }).faultWarp core.val slot.val 0x303 w.trapPc w.trapData 0) := by
  simp [exec, execPreemptDeadline, hfind, hasked, hkept, hrun, Nat.not_lt.mpr hlate]

section
variable {s : State} {dev : Fin 4} {r : Reservation} (hreserv : (s.device dev.val).reserv = some r)
include hreserv

/-- A reservation that has reached PTHR requests its victim, when no automatic request is open (R371). -/
theorem exec_ageingInterval_requests {c e : Nat} (hauto : (s.device dev.val).pauto = true)
    (hrun : (s.device dev.val).dhalt = false) (hprio : (s.device dev.val).pthr ≤ s.effPrio dev.val r.task)
    (hclosed : s.autoOpen (s.device dev.val) = false) (hvictim : s.victim dev.val r = some (c, e)) :
    exec (.ageingInterval dev) s = .next ((s.setDevice dev.val { s.device dev.val with
      auto := some ((s.wg c e).task, (s.wg c e).unit) }).requestUnit (s.wg c e).task (s.wg c e).unit) := by
  simp [exec, execAgeingInterval, hreserv, hauto, hrun, hclosed, hvictim, Nat.not_lt.mpr hprio]

theorem exec_ageingInterval_open (hopen : s.autoOpen (s.device dev.val) = true) :
    exec (.ageingInterval dev) s = .next s := by
  simp [exec, execAgeingInterval, hreserv, hopen]

end

/-! ### Halting a die (R373) -/

theorem State.writeHalt_halts {s : State} {d : Nat} (h : (s.device d).dhalt = false) : s.writeHalt d true =
    (s.setDevice d { s.device d with dhalt := true, haltAt := s.now }).logEvent { cause := 0x00D, src := d } := by
  simp [State.writeHalt, h]

theorem State.writeHalt_resumes {s : State} {d : Nat} (h : (s.device d).dhalt = true) : s.writeHalt d false =
    (s.setDevice d { s.device d with
      dhalt := false, haltCycles := (s.device d).haltCycles + (s.now - (s.device d).haltAt) }).logEvent
        { cause := 0x00E, src := d } := by
  simp [State.writeHalt, h]

/-! ### The debug registers (R374) -/

/-- The debug registers once DOP is cleared. -/
def Device.dopDone (x : Device) : Device := { x with dcmd := BitVec.ofNat 64 (x.dcmd.toNat % 2 ^ 34) }

theorem State.dopDone_eq (s : State) (d : Nat) : s.dopDone d = s.setDevice d (s.device d).dopDone := rfl

theorem State.dopFail_eq (s : State) (d : Nat) :
    s.dopFail d = s.setDevice d { (s.device d).dopDone with derr := true } := by
  simp [State.dopFail, State.dopDone_eq]

/-- The warp that the debug registers name stands in the slot that they name. -/
theorem State.find_of_debugWarp {s : State} {d : Nat} {w : Warp} (h : s.debugWarp d = some w) :
    Tab.find (s.core (s.device d).dcore).warps (s.device d).dslot = some w := by
  simp only [State.debugWarp] at h
  split at h
  · cases h
  · split at h
    next v hfind =>
      split at h
      · rwa [← h]
      · cases h
    next => cases h

theorem State.warp_of_debugWarp {s : State} {d : Nat} {w : Warp} (h : s.debugWarp d = some w) :
    s.warp (s.device d).dcore (s.device d).dslot = w := by
  simp [State.warp, Tab.get, State.find_of_debugWarp h]

theorem State.warp_clearProgress (s : State) (c k : Nat) :
    (s.clearProgress c k).warp c k = { s.warp c k with progress := {} } :=
  State.warp_setWarp s c k _

/-- A warp that the debugger resumes is not debug-parked: one that was halted only was not, and each way of resuming clears it. -/
theorem State.debugParked_debugResume {s : State} {d : Nat} {w : Warp} (h : s.debugWarp d = some w) (next : Bool) :
    ((s.debugResume d next).warp (s.device d).dcore (s.device d).dslot).debugParked = none := by
  unfold State.debugResume
  simp only [h, Option.bind_some]
  cases hparked : w.debugParked with
  | none =>
    rw [Option.map_none, State.dopFail_eq]
    show (s.warp _ _).debugParked = none
    rw [State.warp_of_debugWarp h, hparked]
  | some m =>
    simp only [Option.map_some]
    split
    · rw [State.warp_setWarp]
    · split
      · rw [State.warp_setWarp]
      · rw [State.warp_clearProgress, State.warp_setWarp]

section
variable {s : State} {dev : Fin 4} {w : Warp} (hwarp : s.debugWarp dev.val = some w)
include hwarp

theorem exec_debugResumeNext (hop : (s.device dev.val).dop = 3) : Ends (exec (.debugResumeNext dev) s) (fun t =>
    t = s.debugResume dev.val true ∧ (t.warp (s.device dev.val).dcore (s.device dev.val).dslot).debugParked = none) := by
  refine ⟨_, ?_, rfl, State.debugParked_debugResume hwarp true⟩
  simp only [exec, execDebugResumeNext, hop, if_true]

theorem exec_debugResumeTret (hop : (s.device dev.val).dop = 4) : Ends (exec (.debugResumeTret dev) s) (fun t =>
    t = s.debugResume dev.val false ∧ (t.warp (s.device dev.val).dcore (s.device dev.val).dslot).debugParked = none) := by
  refine ⟨_, ?_, rfl, State.debugParked_debugResume hwarp false⟩
  simp only [exec, execDebugResumeTret, hop, if_true]

theorem exec_debugKill (hop : (s.device dev.val).dop = 5) : exec (.debugKill dev) s =
    .next ((s.setDevice dev.val (s.device dev.val).dopDone).faultWarp (s.device dev.val).dcore (s.device dev.val).dslot 0x30B
      (w.at s.now).trapPc (w.at s.now).trapData 0) := by
  simp [exec, execDebugKill, hop, hwarp, State.dopDone_eq]

variable (hquiet : ∀ p ∈ w.pend, p.due ≤ s.now)
include hquiet

theorem exec_debugRegRead {v : Word64} (hop : (s.device dev.val).dop = 1) (hread : s.debugRead dev.val w = some v) :
    exec (.debugRegRead dev) s = .next (s.setDevice dev.val { (s.device dev.val).dopDone with ddata := v }) := by
  have hq : w.quiet s.now = true := by simpa [Warp.quiet] using hquiet
  simp [exec, execDebugRegRead, hop, hwarp, hq, hread, State.dopDone_eq]

theorem exec_debugRegWrite {rw : RegWrite} (hop : (s.device dev.val).dop = 2) (hwrite : s.debugWrite dev.val w = some rw) :
    exec (.debugRegWrite dev) s = .next ((s.setWarp (s.device dev.val).dcore (s.device dev.val).dslot
      (w.debugPut s.now rw)).setDevice dev.val (s.device dev.val).dopDone) := by
  have hq : w.quiet s.now = true := by simpa [Warp.quiet] using hquiet
  simp [exec, execDebugRegWrite, hop, hwarp, hq, hwrite, State.dopDone_eq]

end

/-- An operation of the debug registers fails when they name no warp that it may touch. -/
theorem exec_debug_of_no_warp {s : State} {dev : Fin 4} (hwarp : s.debugWarp dev.val = none) :
    let fails (j : Instr) : Prop :=
      exec j s = .next (s.setDevice dev.val { (s.device dev.val).dopDone with derr := true })
    ((s.device dev.val).dop = 1 → fails (.debugRegRead dev)) ∧ ((s.device dev.val).dop = 2 → fails (.debugRegWrite dev)) ∧
    ((s.device dev.val).dop = 3 → fails (.debugResumeNext dev)) ∧ ((s.device dev.val).dop = 4 → fails (.debugResumeTret dev)) ∧
    ((s.device dev.val).dop = 5 → fails (.debugKill dev)) := by
  intro fails
  simp only [fails, ← State.dopFail_eq]
  refine ⟨fun hop => ?read, fun hop => ?write, fun hop => ?next, fun hop => ?tret, fun hop => ?kill⟩
  case read => simp [exec, execDebugRegRead, hop, hwarp]
  case write => simp [exec, execDebugRegWrite, hop, hwarp]
  case next => simp [exec, execDebugResumeNext, hop, State.debugResume, hwarp]
  case tret => simp [exec, execDebugResumeTret, hop, State.debugResume, hwarp]
  case kill => simp [exec, execDebugKill, hop, hwarp]

/-- Settles O50: each clause is one lemma about the step that it speaks of. -/
theorem preemptDebugResults : Obligations.PreemptDebugResults := by
  unfold Obligations.PreemptDebugResults
  intro s dev core wg slot un g w r t c e v rw d x
  refine ⟨exec_preemptionRequest, ?save, exec_preemptDeadline, ?ageing, ?halt, ?resume, ?named, exec_debug_of_no_warp⟩
  case save =>
    exact fun hfind hkept hleft =>
      ⟨exec_preemptionSave_whole hfind hkept hleft, exec_preemptionSave_broken hfind hkept hleft⟩
  case ageing =>
    exact fun hreserv hauto hrun hprio =>
      ⟨exec_ageingInterval_requests hreserv hauto hrun hprio, exec_ageingInterval_open hreserv⟩
  case halt => exact fun hrun => congrArg _ (State.writeHalt_halts hrun)
  case resume => exact fun hhalt => congrArg _ (State.writeHalt_resumes hhalt)
  case named =>
    exact fun hwarp hquiet => ⟨exec_debugRegRead hwarp hquiet, exec_debugRegWrite hwarp hquiet,
      exec_debugResumeNext hwarp, exec_debugResumeTret hwarp, exec_debugKill hwarp⟩

end Sys2Proof.Machine

/-! ## The module's own steps (O51) -/

namespace Sys2Proof.Machine

/-! ### Scrubbing, banks and cores (R54, R385) -/

theorem mem_addNat {l : List Nat} {x y : Nat} : y ∈ addNat l x ↔ y = x ∨ y ∈ l := by
  unfold addNat
  split
  next h =>
    have hx : x ∈ l := by simpa using h
    exact ⟨Or.inr, fun hy => hy.elim (fun e => e ▸ hx) id⟩
  next => exact List.mem_cons

/-- A line that a pass finds lost is among the lines of its slice that it marks. -/
theorem mem_foldl_addNat {α : Type} (f : α → Nat) (l : List α) (marked : List Nat) {x : α} (h : x ∈ l) :
    f x ∈ l.foldl (fun m y => addNat m (f y)) marked := by
  induction l generalizing marked with
  | nil => cases h
  | cons y l ih =>
    rw [List.foldl_cons]
    rcases List.mem_cons.mp h with rfl | hl
    · exact List.foldlRecOn (motive := fun m => f x ∈ m) l _ (mem_addNat.mpr (.inl rfl))
        fun m hm z _ => mem_addNat.mpr (.inr hm)
    · exact ih _ hl

@[simp] theorem State.slice_setSlice (s : State) (d i : Nat) (x : Slice) : (s.setSlice d i x).slice d i = x := by
  simp [State.slice, State.setSlice]

/-- A pass that corrects nothing: the period ends with the counts that it had. -/
theorem exec_scrubPass_nothing (s : State) (die : Fin 4) (slice : Fin 48) (lost : List (BitVec 31)) :
    Ends (exec (.scrubPass die slice [] lost) s) (fun t => t.mem = s.mem ∧
      (t.slice die.val slice.val).counts = (s.slice die.val slice.val).period ∧
      (t.slice die.val slice.val).closed = true ∧
      ∀ n ∈ lost, n.toNat % 48 = slice.val → n.toNat * 128 < guashSize → die.val * 2 ^ 31 + n.toNat ∈ t.lost) := by
  have hslice := State.slice_setSlice s die.val slice.val
    { s.slice die.val slice.val with counts := (s.slice die.val slice.val).period, closed := true }
  refine ⟨_, rfl, rfl, congrArg Slice.counts hslice, congrArg Slice.closed hslice, fun n hn hhere hsize => ?_⟩
  exact mem_foldl_addNat (fun n : BitVec 31 => die.val * 2 ^ 31 + n.toNat) _ _
    (List.mem_filter.mpr ⟨hn, by simp [hhere, hsize]⟩)

section
variable {s : State} {die : Fin 4} {slice : Fin 48} {bank : Fin 18}

/-- Without a threshold, below it, or once it is marked failed, a bank stays as it is. -/
theorem exec_bankRetired_stays (h : s.module.cethr = 0 ∨
      Tab.get (s.slice die.val slice.val).counts 0 bank.val < s.module.cethr ∨
      (s.slice die.val slice.val).failed.contains bank.val = true) :
    exec (.bankRetired die slice bank) s = .next s := by
  simp only [exec, execBankRetired]
  exact if_pos (by simpa [or_assoc] using h)

/-- The slice with a bank marked failed. -/
def Slice.fail (x : Slice) (bank : Nat) : Slice := { x with failed := addNat x.failed bank }

variable (hon : s.module.cethr ≠ 0) (hcount : s.module.cethr ≤ Tab.get (s.slice die.val slice.val).counts 0 bank.val)
  (hfresh : (s.slice die.val slice.val).failed.contains bank.val = false)
include hon hcount hfresh

theorem exec_bankRetired_spare (hspare : (s.slice die.val slice.val).spare = false) :
    exec (.bankRetired die slice bank) s =
      .next ((s.setSlice die.val slice.val { (s.slice die.val slice.val).fail bank.val with spare := true }).logEvent
        { cause := 0x00F, src := die.val, aux := bankAux slice.val bank.val }) := by
  simp only [exec, execBankRetired, hon, Nat.not_lt.mpr hcount, hfresh, hspare, decide_false, Bool.or_self, Bool.false_eq_true,
    if_false, Bool.not_false, if_true, Slice.fail]

theorem exec_bankRetired_exhausted (hspare : (s.slice die.val slice.val).spare = true)
    (hlogged : (s.slice die.val slice.val).logged = false) :
    exec (.bankRetired die slice bank) s =
      .next ((s.setSlice die.val slice.val { (s.slice die.val slice.val).fail bank.val with logged := true }).logEvent
        { cause := 0x010, src := die.val, aux := bankAux slice.val bank.val }) := by
  simp only [exec, execBankRetired, hon, Nat.not_lt.mpr hcount, hfresh, hspare, hlogged, decide_false, Bool.or_self,
    Bool.false_eq_true, if_false, Bool.not_true, Slice.fail]

theorem exec_bankRetired_again (hspare : (s.slice die.val slice.val).spare = true)
    (hlogged : (s.slice die.val slice.val).logged = true) :
    exec (.bankRetired die slice bank) s =
      .next (s.setSlice die.val slice.val ((s.slice die.val slice.val).fail bank.val)) := by
  simp only [exec, execBankRetired, hon, Nat.not_lt.mpr hcount, hfresh, hspare, hlogged, decide_false, Bool.or_self,
    Bool.false_eq_true, if_false, Bool.not_true, if_true, Slice.fail]

end

theorem exec_coreRetirement (s : State) (core : Fin 192) :
    Ends (exec (.coreRetirement core) s) (fun t => (t.core core.val).retired = true ∧ t.mem = s.mem ∧
      (t.device (dieOf core.val)).inserv = (s.device (dieOf core.val)).inserv &&& ~~~(1#48 <<< coreIndex core.val)) := by
  refine ⟨_, rfl, ?_, rfl, ?_⟩
  · exact congrArg Core.retired (State.core_setCore s core.val _)
  · exact congrArg Device.inserv (State.device_setDevice _ (dieOf core.val) _)

/-! ### The module reset and bring-up (R386, R388) -/

/-- The host's part of memory holds nothing below host memory. -/
theorem Memory.get_hostPart_below (m : Memory) {a : Nat} (h : a < hostBase) : (hostPart m).get a = Memory.fill := by
  induction m with
  | nil => rfl
  | cons e m ih =>
    by_cases he : hostBase ≤ e.1
    · have ha : a < e.1 := Nat.lt_of_lt_of_le h he
      simp [hostPart, he, Memory.get, ha, Nat.ne_of_gt ha]
    · simpa [hostPart, he] using ih

theorem exec_moduleReset (s : State) :
    Ends (exec .moduleReset s) (fun t => t.module = {} ∧ t.fuses = s.fuses ∧ t.cores = [] ∧ t.tasks = [] ∧
      t.io.lspeed = s.io.lspeed ∧ t.io.lwidth = s.io.lwidth ∧
      (∀ a, t.mem.get a = if hostBase ≤ a then (hostPart s.mem).get a else Memory.fill)) := by
  refine ⟨s.resetModule, rfl, rfl, rfl, rfl, rfl, rfl, rfl, fun a => ?_⟩
  split
  · rfl
  next h => exact Memory.get_hostPart_below s.mem (Nat.not_le.mp h)

/-- Enabling a port changes nothing but the port: what does not depend on the ports stays. -/
theorem State.writePortEn_true_keeps {β : Type} (p : State → β) (hp : ∀ s q x, p (State.setPort s q x) = p s) (s : State)
    (q : Nat) : p (s.writePortEn q true) = p s := by
  cases hen : (s.port q).en with
  | false => simp [State.writePortEn, hen, hp]
  | true => simp [State.writePortEn, hen]

section
variable (s : State) (slot : Bool) (version : BitVec 32) (counter : BitVec 16)

/-- What an image that starts running leaves, apart from the ports that it enables. -/
theorem State.module_startImage : (s.startImage slot version counter).module = { s.module with
    ready := true, recovery := false, slot := slot, fwver := version.toNat,
    rollback := (if s.fused < counter then counter else s.fused).toNat } :=
  foldl_keeps State.module _ (State.writePortEn_true_keeps State.module fun _ _ _ => rfl) _ _

theorem State.mem_startImage : (s.startImage slot version counter).mem = hostPart s.mem :=
  foldl_keeps State.mem _ (State.writePortEn_true_keeps State.mem fun _ _ _ => rfl) _ _

theorem State.cores_startImage : (s.startImage slot version counter).cores = [] :=
  foldl_keeps State.cores _ (State.writePortEn_true_keeps State.cores fun _ _ _ => rfl) _ _

/-- The fused counter is raised to that of the image, never lowered. -/
theorem State.fused_startImage :
    (s.startImage slot version counter).fused = if s.fused < counter then counter else s.fused := by
  have hfuses : (s.startImage slot version counter).fuses = { s.fuses with
      counter := if s.fused < counter then some counter else s.fuses.counter } :=
    foldl_keeps State.fuses _ (State.writePortEn_true_keeps State.fuses fun _ _ _ => rfl) _ _
  rw [State.fused, hfuses]
  split <;> rfl

theorem State.le_fused_startImage :
    s.fused ≤ (s.startImage slot version counter).fused ∧ counter ≤ (s.startImage slot version counter).fused := by
  rw [State.fused_startImage]
  split
  next h => exact ⟨BitVec.le_of_lt h, BitVec.le_refl _⟩
  next h => exact ⟨BitVec.le_refl _, BitVec.not_lt.mp h⟩

end

section
variable {s : State} (hready : s.module.ready = false) (hrecovery : s.module.recovery = false)
include hready hrecovery

theorem exec_bringup_runs {chosen : Bool} {img : BitVec 32 × BitVec 16} (hslot : s.chooseSlot = some (chosen, img)) :
    Ends (exec .bringup s) (fun t => t.module.ready = true ∧ t.module.slot = chosen ∧ t.module.fwver = img.1.toNat ∧
      t.mem = hostPart s.mem ∧ t.cores = [] ∧ (s.fused ≤ t.fused ∧ img.2 ≤ t.fused)) := by
  obtain ⟨version, counter⟩ := img
  refine ⟨s.startImage chosen version counter, ?_, ?_, ?_, ?_, s.mem_startImage chosen version counter,
    s.cores_startImage chosen version counter, s.le_fused_startImage chosen version counter⟩
  · simp only [exec, execBringup, hready, hrecovery, hslot, Bool.or_self, Bool.false_eq_true, if_false]
  all_goals rw [State.module_startImage]

/-- Where no image is valid the module enters recovery. -/
theorem exec_bringup_recovers (hslot : s.chooseSlot = none) :
    Ends (exec .bringup s) (fun t => t.module.recovery = true ∧ t.module.ready = false) := by
  simp only [exec, execBringup, hready, hrecovery, hslot, Bool.or_self, Bool.false_eq_true, if_false]
  exact ⟨_, rfl, by simp, by simp⟩

end

/-! ### A device reset (R387) -/

/-- A fragment of core `c` once a reset of device `d` has begun: the wait at an upcall entry of another die's device ends as
REMOTE_GONE. -/
def Frag.whenReset (d c : Nat) (f : Frag) : Frag :=
  match f.park with
  | .pager h =>
    if h.dev = d && dieOf c != d then { f with park := .none, failed := some { h with cause := h.cause + 0x28 } } else f
  | _ => f

theorem Frag.whenReset_elsewhere {d c : Nat} {f : Frag} {h : Held} (hpark : f.park = .pager h) (hdev : h.dev = d)
    (hdie : dieOf c ≠ d) :
    f.whenReset d c = { f with park := .none, failed := some { h with cause := h.cause + 0x28 } } := by
  simp [Frag.whenReset, hpark, hdev, hdie]

/-- A table whose values change entry by entry. -/
theorem Tab.get_map {α : Type} (t : Tab α) {d : α} (f : Nat × α → Nat × α) {k : Nat} (hkey : ∀ e, (f e).1 = e.1)
    (hd : (f (k, d)).2 = d) : Tab.get (t.map f) d k = (f (k, Tab.get t d k)).2 := by
  have hf : f = fun e => (e.1, (f (e.1, e.2)).2) := funext fun e => Prod.ext (hkey e) rfl
  rw [hf, Tab.get, Tab.find_map t (fun k x => (f (k, x)).2), Tab.get]
  cases Tab.find t k with
  | none => exact hd.symm
  | some x => rfl

/-- The warps of each core once the reset has begun. -/
theorem State.warps_startReset (s : State) (d c : Nat) : ((s.startReset d).core c).warps =
    (s.core c).warps.map (fun w => (w.1, { w.2 with frags := w.2.frags.map (fun e => (e.1, e.2.whenReset d c)) })) :=
  congrArg Core.warps (Tab.get_map s.cores _ (by intro _; rfl) (by rfl))

theorem State.frags_startReset (s : State) (d c k : Nat) :
    ((s.startReset d).warp c k).frags = (s.warp c k).frags.map (fun e => (e.1, e.2.whenReset d c)) := by
  rw [State.warp, State.warps_startReset]
  exact congrArg Warp.frags (Tab.get_map (s.core c).warps _ (by intro _; rfl) (by rfl))

theorem State.device_startReset (s : State) (d : Nat) :
    (s.startReset d).device d = { s.device d with drst := true, drstAt := s.now } := by
  refine (State.device_setDevice _ d _).trans
    (congrArg (fun x : Device => { x with drst := true, drstAt := s.now }) (?_ : Tab.get _ _ d = s.device d))
  exact Eq.trans (Tab.get_map s.devices _ (by intro _; rfl) (by exact if_pos rfl)) (if_pos rfl)

/-- What another die's fragment waits for at an upcall entry of the device ends as REMOTE_GONE. -/
theorem State.frag_startReset_gone {s : State} {d c k j : Nat} {f : Frag} {h : Held} (hdie : dieOf c ≠ d)
    (hfind : Tab.find (s.warp c k).frags j = some f) (hpark : f.park = .pager h) (hdev : h.dev = d) :
    ∃ f', Tab.find ((s.startReset d).warp c k).frags j = some f' ∧ f'.park = .none ∧
      f'.failed = some { h with cause := h.cause + 0x28 } := by
  refine ⟨f.whenReset d c, ?_, ?_⟩
  · rw [State.frags_startReset]
    exact (Tab.find_map _ (fun _ f => Frag.whenReset d c f) j).trans (by rw [hfind, Option.map_some])
  · rw [Frag.whenReset_elsewhere hpark hdev hdie]
    exact ⟨rfl, rfl⟩

section
variable {s : State} {die : Fin 4}

theorem exec_deviceReset_begins (hrun : (s.device die.val).drst = false) (hready : s.module.ready = true) :
    Ends (exec (.deviceReset die) s) (fun t => t = s.startReset die.val ∧ t.mem = s.mem ∧
      t.device die.val = { s.device die.val with drst := true, drstAt := s.now } ∧
      ∀ c k j f h, dieOf c ≠ die.val → Tab.find (s.warp c k).frags j = some f → f.park = .pager h → h.dev = die.val →
        ∃ f', Tab.find (t.warp c k).frags j = some f' ∧ f'.park = .none ∧
          f'.failed = some { h with cause := h.cause + 0x28 }) := by
  refine ⟨s.startReset die.val, ?_, rfl, rfl, s.device_startReset die.val,
    fun _ _ _ _ _ => State.frag_startReset_gone⟩
  simp only [exec, execDeviceReset, hrun, hready, Bool.not_false, if_true]

variable (hreset : (s.device die.val).drst = true)
include hreset

theorem exec_deviceReset_clears (hquiet : s.enginesBusy die.val = false) :
    exec (.deviceReset die) s = .next (s.clearDevice die.val) := by
  simp only [exec, execDeviceReset, hreset, hquiet, Bool.not_true, Bool.false_eq_true, if_false]

theorem exec_engineDrainTimeout (hlate : (s.device die.val).drstAt + 1400000 ≤ s.now) :
    exec (.engineDrainTimeout die) s =
      .next (((coresOf die.val).foldl (fun s c => s.abandonCore c) s).abandonWalks die.val) := by
  simp [exec, execEngineDrainTimeout, millisecond, hreset, hlate]

end

/-! ### The security mailbox (R390, R394, R395) -/

section
variable {s : State} (hgo : s.module.mbgo = true)
include hgo

theorem State.mailbox_of_mbgo {n : Nat} (hop : s.module.mbrun.op = n) : s.mailbox n = true := by
  simp [State.mailbox, hgo, hop]

theorem exec_attest (hop : s.module.mbrun.op = 1) :
    exec .attest s = .next ({ s with module := { s.module with report := s.makeReport } }.endMailbox 0) := by
  simp only [exec, execAttest, State.mailbox_of_mbgo hgo hop, if_true]

theorem exec_cert_badArg (hop : s.module.mbrun.op = 2)
    (hbad : s.module.mbrun.len < Config.certificate.length ∨ s.module.mbrun.va % 64 ≠ 0) :
    exec .cert s = .next (s.endMailbox 2) := by
  simp only [exec, execCert, State.mailbox_of_mbgo hgo hop, Bool.not_true, Bool.false_eq_true, if_false]
  exact if_pos (by simpa using hbad)

theorem exec_cert_writes (hop : s.module.mbrun.op = 2) (hroom : Config.certificate.length ≤ s.module.mbrun.len)
    (haligned : s.module.mbrun.va % 64 = 0) :
    exec .cert s = .next ({ s with
      mem := s.mem.write (hostBase + s.module.mbrun.va) Config.certificate.length (bytesNat Config.certificate)
      module := { s.module with mblen := Config.certificate.length } }.endMailbox 0) := by
  simp only [exec, execCert, State.mailbox_of_mbgo hgo hop, Nat.not_lt.mpr hroom, haligned, bne_self_eq_false, decide_false,
    Bool.or_self, Bool.not_true, Bool.false_eq_true, if_false]

end

/-- The bytes of the image that LOAD reads from host memory. -/
def State.loadImage (s : State) : List Byte := s.mem.bytes (hostBase + s.module.mbrun.va) s.module.mbrun.len

/-- The state once LOAD has written the flash slot that is not running, or slot 0 in recovery (R389); `none` is what a failed
write leaves. -/
def State.flashed (s : State) (v : Option (List Byte)) : State :=
  { s with fuses := { s.fuses with flash := Tab.set s.fuses.flash (bit (!s.module.recovery && !s.module.slot)) v } }

/-- What LOAD leaves when its arguments are in range, stage by stage: the read of the image, its signature, its counter, the write
of the slot, and in recovery the start of the image. -/
def State.loaded (s : State) (hostError flashError : Bool) : State :=
  if hostError then s.endMailbox 3
  else match Config.verifyImage s.loadImage with
    | none => s.endMailbox 4
    | some (version, counter) =>
      if counter < s.fused then s.endMailbox 5
      else if flashError then (s.flashed none).endMailbox 6
      else if s.module.recovery then ((s.flashed (some s.loadImage)).startImage false version counter).endMailbox 0
      else (s.flashed (some s.loadImage)).endMailbox 0

theorem exec_load {s : State} (hostError flashError : Bool) (hgo : s.module.mbgo = true) (hop : s.module.mbrun.op = 3)
    (hpos : 0 < s.module.mbrun.len) (hlen : s.module.mbrun.len ≤ 2 ^ 26) (haligned : s.module.mbrun.va % 64 = 0) :
    exec (.load hostError flashError) s = .next (s.loaded hostError flashError) := by
  have hargs : (s.module.mbrun.len = 0 || 2 ^ 26 < s.module.mbrun.len || s.module.mbrun.va % 64 != 0) = false := by
    simp only [Nat.ne_of_gt hpos, Nat.not_lt.mpr hlen, haligned, bne_self_eq_false, decide_false, Bool.or_self]
  simp only [exec, execLoad, State.mailbox_of_mbgo hgo hop, hargs, Bool.not_true, Bool.false_eq_true, if_false, State.loaded,
    State.loadImage]
  cases hostError with
  | true => rfl
  | false =>
    simp only [Bool.false_eq_true, if_false]
    cases Config.verifyImage (s.mem.bytes (hostBase + s.module.mbrun.va) s.module.mbrun.len) with
    | none => rfl
    | some img =>
      by_cases hold : img.2 < s.fused
      · simp only [hold, if_true]
      · cases flashError <;> cases hrec : s.module.recovery <;>
          simp only [hold, hrec, Bool.false_eq_true, if_false, if_true, State.flashed]

section
variable {s : State} {hostError flashError : Bool} {img : BitVec 32 × BitVec 16}

theorem State.loaded_unread (hhost : hostError = true) : s.loaded hostError flashError = s.endMailbox 3 := by
  simp only [State.loaded, hhost, if_true]

variable (hhost : hostError = false)
include hhost

theorem State.loaded_unsigned (himage : Config.verifyImage s.loadImage = none) :
    s.loaded hostError flashError = s.endMailbox 4 := by
  simp only [State.loaded, hhost, himage, Bool.false_eq_true, if_false]

variable (himage : Config.verifyImage s.loadImage = some img)
include himage

theorem State.loaded_rolledBack (hold : img.2 < s.fused) : s.loaded hostError flashError = s.endMailbox 5 := by
  simp only [State.loaded, hhost, himage, hold, Bool.false_eq_true, if_false, if_true]

variable (hnew : s.fused ≤ img.2)
include hnew

theorem State.loaded_unwritten (hflash : flashError = true) :
    s.loaded hostError flashError = (s.flashed none).endMailbox 6 := by
  simp only [State.loaded, hhost, himage, BitVec.not_lt.mpr hnew, hflash, Bool.false_eq_true, if_false, if_true]

variable (hflash : flashError = false)
include hflash

theorem State.loaded_written (hrecovery : s.module.recovery = false) :
    s.loaded hostError flashError = (s.flashed (some s.loadImage)).endMailbox 0 := by
  simp only [State.loaded, hhost, himage, BitVec.not_lt.mpr hnew, hflash, hrecovery, Bool.false_eq_true, if_false]

theorem State.loaded_started (hrecovery : s.module.recovery = true) : s.loaded hostError flashError =
    ((s.flashed (some s.loadImage)).startImage false img.1 img.2).endMailbox 0 := by
  simp only [State.loaded, hhost, himage, BitVec.not_lt.mpr hnew, hflash, hrecovery, Bool.false_eq_true, if_false, if_true]

end

section
variable {s : State} (hgo : s.module.mbgo = false) (hcmd : s.module.mbcmd = 0 ∨ 3 < s.module.mbcmd)

include hcmd in
/-- The number in MBCMD is that of no command. -/
theorem State.mbcmd_none : (1 ≤ s.module.mbcmd && s.module.mbcmd ≤ 3) = false := by
  simp only [Bool.and_eq_false_iff, decide_eq_false_iff_not]
  omega

include hgo hcmd

theorem State.startMailbox_badCmd : s.startMailbox = s.endMailbox 1 := by
  simp only [State.startMailbox, hgo, State.mbcmd_none hcmd, Bool.false_eq_true, if_false]

theorem exec_mbcmdBadCmd (hon : s.enabled 0 0x31000 = true) : exec .mbcmdBadCmd s = .next (s.endMailbox 1) := by
  simp only [exec, execMbcmdBadCmd, State.mbcmd_none hcmd, State.hostWrite, hon, State.startMailbox_badCmd hgo hcmd,
    Bool.false_eq_true, if_false, if_true]

end

/-! ### Power, clock, fatal events and the debug port (R332, R357, R391) -/

/-- A fatal event that CT logs, on a module that runs. -/
theorem State.fatalEvent_stops {s : State} (hruns : s.module.fatal.isNone = true) (c : BitVec 10) (src : Nat) :
    (s.fatalEvent c src true).module.fatal = some c ∧ (s.fatalEvent c src true).module.ready = s.module.ready := by
  have hnot : s.module.fatal.isSome = false := by simpa using hruns
  simp [State.fatalEvent, hnot]

section
variable {s : State} {mhz : BitVec 12}

theorem exec_clockChange_up (hstep : mhz.toNat % 25 = 0) (hmin : 700 ≤ mhz.toNat) (hmax : mhz.toNat ≤ 1400)
    (hup : mhz.toNat = s.module.clkMhz + 25) : exec (.clockChange mhz) s =
      .next { s with module := { s.module with clkMhz := mhz.toNat, throt := false } } := by
  have hnot : ¬mhz.toNat < s.module.clkMhz := by omega
  simp [exec, execClockChange, hstep, hmin, hmax, ← hup, hnot]

theorem exec_clockChange_down (hstep : mhz.toNat % 25 = 0) (hmin : 700 ≤ mhz.toNat) (hmax : mhz.toNat ≤ 1400)
    (hdown : mhz.toNat + 25 = s.module.clkMhz) : exec (.clockChange mhz) s =
      .next { s with module := { s.module with clkMhz := mhz.toNat } } := by
  have hlt : mhz.toNat < s.module.clkMhz := by omega
  simp [exec, execClockChange, hstep, hmin, hmax, hdown, hlt]

theorem exec_clockChange_none (hup : mhz.toNat ≠ s.module.clkMhz + 25) (hdown : mhz.toNat + 25 ≠ s.module.clkMhz) :
    exec (.clockChange mhz) s = .next s := by
  simp [exec, execClockChange, hup, hdown]

end

section
variable {s : State} {addr : Nat}

theorem exec_debugPort_memory (h : isGuash addr = true ∨ isHost addr = true) (b : BitVec 8) :
    exec (.debugPortMemoryAccess addr none) s = .next (s.send (.byte (s.mem.get addr))) ∧
    exec (.debugPortMemoryAccess addr (some b)) s = .next { s with mem := s.mem.put addr b } := by
  have hmem : (isGuash addr || isHost addr) = true := by simpa using h
  constructor <;> simp only [exec, execDebugPortMemoryAccess, hmem, Bool.not_true, Bool.false_eq_true, if_false]

theorem exec_debugPort_elsewhere (hguash : isGuash addr = false) (hhost : isHost addr = false) (w : Option (BitVec 8)) :
    exec (.debugPortMemoryAccess addr w) s = .next s := by
  simp only [exec, execDebugPortMemoryAccess, hguash, hhost, Bool.or_self, Bool.not_false, if_true]

end

/-- Settles O51: each clause is one lemma about the step that it speaks of. -/
theorem moduleEventResults : Obligations.ModuleEventResults := by
  unfold Obligations.ModuleEventResults
  intro s die slice bank core lost mhz addr b img hostError flashError chosen d x m device runs ends fatal
  refine ⟨exec_scrubPass_nothing s die slice lost, ?bank, exec_coreRetirement s core, exec_moduleReset s, ?bringup,
    exec_deviceReset_begins, exec_deviceReset_clears, exec_engineDrainTimeout, ?mailbox, exec_mbcmdBadCmd,
    ?watchdog, ?trip, ?power, ?ct, rfl, ?clock, fun h => exec_debugPort_memory h b, exec_debugPort_elsewhere⟩
  case bank =>
    exact ⟨exec_bankRetired_stays, fun hon hcount hfresh => ⟨exec_bankRetired_spare hon hcount hfresh,
      exec_bankRetired_exhausted hon hcount hfresh, exec_bankRetired_again hon hcount hfresh⟩⟩
  case bringup => exact fun hready hrecovery => ⟨exec_bringup_runs hready hrecovery, exec_bringup_recovers hready hrecovery⟩
  case mailbox =>
    refine fun hgo => ⟨exec_attest hgo, fun hop => ⟨exec_cert_badArg hgo hop, exec_cert_writes hgo hop⟩, ?load⟩
    intro hop hpos hlen haligned
    rw [exec_load hostError flashError hgo hop hpos hlen haligned]
    exact ⟨fun hhost => congrArg _ (State.loaded_unread hhost),
      fun hhost himage => congrArg _ (State.loaded_unsigned hhost himage),
      fun hhost himage => ⟨fun hold => congrArg _ (State.loaded_rolledBack hhost himage hold),
        fun hnew hflash => congrArg _ (State.loaded_unwritten hhost himage hnew hflash),
        fun hnew hflash hrec => congrArg _ (State.loaded_written hhost himage hnew hflash hrec),
        fun hnew hflash hrec => congrArg _ (State.loaded_started hhost himage hnew hflash hrec)⟩⟩
  case watchdog => exact fun hruns => ⟨_, rfl, State.fatalEvent_stops hruns 0x3C0 4⟩
  case trip => exact fun hruns => ⟨_, rfl, State.fatalEvent_stops hruns 0x3C2 die.val⟩
  case power => exact fun hruns => ⟨_, rfl, State.fatalEvent_stops hruns 0x3C3 4⟩
  case ct => exact fun hruns => ⟨_, rfl, State.fatalEvent_stops hruns 0x3C4 4⟩
  case clock =>
    exact fun hstep hmin hmax => ⟨exec_clockChange_up hstep hmin hmax, exec_clockChange_down hstep hmin hmax,
      exec_clockChange_none⟩

end Sys2Proof.Machine

namespace Sys2Proof.Machine

/-! ## When a register write is seen (O53; R95 to R98)

The writes of a warp stand in completion order, so a new one stands behind exactly those that precede it: a read sees its
value unless one of the completed writes behind it changes the same register. -/

/-! ### Completion order -/

namespace Pending

theorem precedes_iff (p q : Pending) : p.precedes q = true ↔
    p.due < q.due ∨ p.due = q.due ∧ (p.issue < q.issue ∨ p.issue = q.issue ∧ p.pos ≤ q.pos) := by
  simp [precedes]

theorem precedes_of_not_precedes {p q : Pending} (h : ¬q.precedes p = true) : p.precedes q = true := by
  rw [precedes_iff] at h ⊢
  omega

theorem precedes_trans {p q r : Pending} (hpq : p.precedes q = true) (hqr : q.precedes r = true) :
    p.precedes r = true := by
  rw [precedes_iff] at hpq hqr ⊢
  omega

theorem due_le_of_precedes {p q : Pending} (h : p.precedes q = true) : p.due ≤ q.due := by
  rw [precedes_iff] at h
  omega

end Pending

/-- The writes of a list stand in completion order (R97). -/
def InOrder (l : List Pending) : Prop := l.Pairwise (fun p q => p.precedes q = true)

/-- A new write goes between those that precede it and those that do not. -/
theorem addPending_split (p : Pending) {l : List Pending} (h : InOrder l) :
    ∃ front back, l = front ++ back ∧ addPending p l = front ++ p :: back ∧ (∀ q ∈ front, q.precedes p = true) ∧
      ∀ q ∈ back, ¬q.precedes p = true := by
  induction l with
  | nil => exact ⟨[], [], rfl, rfl, by simp, by simp⟩
  | cons q l ih =>
    obtain ⟨hq, hl⟩ := List.pairwise_cons.mp h
    rw [addPending]
    by_cases hqp : q.precedes p = true
    · obtain ⟨front, back, hsplit, hadd, hfront, hback⟩ := ih hl
      refine ⟨q :: front, back, by rw [hsplit]; rfl, by rw [if_pos hqp, hadd]; rfl, ?_, hback⟩
      exact List.forall_mem_cons.mpr ⟨hqp, hfront⟩
    · refine ⟨[], q :: l, rfl, by rw [if_neg hqp]; rfl, by simp, ?_⟩
      exact List.forall_mem_cons.mpr ⟨hqp, fun r hr hrp => hqp (Pending.precedes_trans (hq r hr) hrp)⟩

theorem mem_addPending {p q : Pending} {l : List Pending} : q ∈ addPending p l ↔ q = p ∨ q ∈ l := by
  induction l with
  | nil => simp [addPending]
  | cons r l ih =>
    rw [addPending]
    split
    · rw [List.mem_cons, ih, List.mem_cons, or_left_comm]
    · exact List.mem_cons

theorem inOrder_addPending (p : Pending) {l : List Pending} (h : InOrder l) : InOrder (addPending p l) := by
  obtain ⟨front, back, rfl, hadd, hfront, hback⟩ := addPending_split p h
  obtain ⟨hf, hb, hfb⟩ := List.pairwise_append.mp h
  rw [hadd, InOrder, List.pairwise_append, List.pairwise_cons]
  exact ⟨hf, ⟨fun q hq => Pending.precedes_of_not_precedes (hback q hq), hb⟩, fun q hq =>
    List.forall_mem_cons.mpr ⟨hfront q hq, hfb q hq⟩⟩

theorem filter_addPending {f : Pending → Bool} {p : Pending} (h : ¬f p = true) (l : List Pending) :
    (addPending p l).filter f = l.filter f := by
  induction l with
  | nil => simp [addPending, h]
  | cons q l ih =>
    rw [addPending]
    split
    · rw [List.filter_cons, List.filter_cons, ih]
    · rw [List.filter_cons_of_neg h]

/-- The writes that have completed by `c'` are those completed by `c` and then those completed since. -/
theorem filter_due_split {l : List Pending} (h : InOrder l) {c c' : Nat} (hc : c ≤ c') :
    l.filter (fun p => p.due ≤ c') =
      l.filter (fun p => p.due ≤ c) ++ (l.filter (fun p => c < p.due)).filter (fun p => p.due ≤ c') := by
  induction l with
  | nil => rfl
  | cons p l ih =>
    obtain ⟨hp, hl⟩ := List.pairwise_cons.mp h
    by_cases hdue : p.due ≤ c
    · rw [List.filter_cons_of_pos (by simpa using Nat.le_trans hdue hc), List.filter_cons_of_pos (by simpa using hdue),
        List.filter_cons_of_neg (by simpa using hdue), ih hl, List.cons_append]
    · have hnone : l.filter (fun q => q.due ≤ c) = [] := List.filter_eq_nil_iff.mpr fun q hq => by
        have := Pending.due_le_of_precedes (hp q hq)
        simp only [decide_eq_true_eq]
        omega
      have hlater : l.filter (fun q => q.due ≤ c') = (l.filter (fun q => c < q.due)).filter (fun q => q.due ≤ c') := by
        rw [ih hl, hnone, List.nil_append]
      rw [List.filter_cons_of_neg (p := fun q : Pending => decide (q.due ≤ c)) (by simpa using hdue), hnone, List.nil_append,
        List.filter_cons_of_pos (p := fun q : Pending => decide (c < q.due)) (by simpa using hdue), List.filter_cons,
        List.filter_cons, hlater]

/-! ### Writes that become part of the registers -/

/-- The registers after the writes of a list, one after the other. -/
def Warp.applyAll (w : Warp) (ps : List Pending) : Warp := ps.foldl (fun w p => w.apply p.write) w

namespace Warp

theorem at_eq_applyAll (w : Warp) (c : Nat) : w.at c = w.applyAll (w.pend.filter (fun p => p.due ≤ c)) := rfl

theorem applyAll_cons (w : Warp) (p : Pending) (ps : List Pending) :
    w.applyAll (p :: ps) = (w.apply p.write).applyAll ps := rfl

theorem applyAll_append (w : Warp) (ps qs : List Pending) : w.applyAll (ps ++ qs) = (w.applyAll ps).applyAll qs :=
  List.foldl_append

/-- A write of a special register reaches TRAPPC and TRAPDATA only. -/
theorem apply_spr (w : Warp) (n : Nat) (x : Word64) :
    ∃ pc data, w.apply (.spr n x) = { w with trapPc := pc, trapData := data } := by
  rw [Warp.apply]
  split
  · exact ⟨_, _, rfl⟩
  · split <;> exact ⟨_, _, rfl⟩

theorem apply_with_pend (w : Warp) (l : List Pending) (x : RegWrite) :
    ({ w with pend := l } : Warp).apply x = { w.apply x with pend := l } := by
  cases x with
  | spr n x =>
    rw [Warp.apply, Warp.apply]
    split
    · rfl
    · split <;> rfl
  | _ => rfl

theorem applyAll_with_pend (w : Warp) (l ps : List Pending) :
    ({ w with pend := l } : Warp).applyAll ps = { w.applyAll ps with pend := l } := by
  induction ps generalizing w with
  | nil => rfl
  | cons p ps ih =>
    rw [applyAll_cons, apply_with_pend, ih, applyAll_cons]

/-- What no write of a list changes stays as it is. -/
theorem applyAll_keeps {β : Type} (read : Warp → β) {ps : List Pending}
    (h : ∀ p ∈ ps, ∀ w : Warp, read (w.apply p.write) = read w) (w : Warp) : read (w.applyAll ps) = read w := by
  induction ps generalizing w with
  | nil => rfl
  | cons p ps ih =>
    obtain ⟨hp, hps⟩ := List.forall_mem_cons.mp h
    exact (ih hps (w.apply p.write)).trans (hp w)

/-- The warp with one more write issued. -/
def issue (w : Warp) (p : Pending) : Warp := { w with pend := addPending p w.pend }

variable {w : Warp} {p : Pending} {c c' : Nat}

theorem at_issue_of_early (h : c < p.due) : (w.issue p).at c = { w.at c with pend := addPending p w.pend } := by
  rw [at_eq_applyAll, issue, applyAll_with_pend, filter_addPending (by simpa using h), at_eq_applyAll]

theorem at_retire (h : InOrder w.pend) (hc : c ≤ c') :
    (w.retire c).at c' = { w.at c' with pend := w.pend.filter (fun p => c < p.due) } := by
  rw [at_eq_applyAll, retire, applyAll_with_pend, at_eq_applyAll, at_eq_applyAll, filter_due_split h hc, applyAll_append]

/-- A read of a completed write: what the completed writes behind it leave unchanged is as that write has left it. -/
theorem at_issue_of_due {β : Type} (read : Warp → β) (h : InOrder w.pend) (hdue : p.due ≤ c)
    (hlater : ∀ q ∈ w.pend, q.due ≤ c → ¬q.precedes p = true → ∀ u : Warp, read (u.apply q.write) = read u) :
    ∃ u : Warp, read ((w.issue p).at c) = read (u.apply p.write) := by
  obtain ⟨front, back, hsplit, hadd, -, hback⟩ := addPending_split p h
  refine ⟨(w.issue p).applyAll (front.filter (fun q => q.due ≤ c)), ?_⟩
  rw [at_eq_applyAll, show (w.issue p).pend = front ++ p :: back from hadd, List.filter_append,
    List.filter_cons_of_pos (by simpa using hdue), applyAll_append,
    applyAll_cons]
  refine applyAll_keeps read (fun q hq => ?_) _
  obtain ⟨hmem, hqdue⟩ := List.mem_filter.mp hq
  exact hlater q (by rw [hsplit]; exact List.mem_append_right _ hmem) (by simpa using hqdue) (hback q hmem)

/-! ### A register after one write -/

theorem sregs_apply_other {r : Nat} {x : RegWrite} (h : ∀ v, x ≠ .s r v) (w : Warp) :
    Tab.get (w.apply x).sregs 0 r = Tab.get w.sregs 0 r := by
  cases x with
  | s r' v => exact Tab.get_set_other _ _ _ _ _ fun e => h v (by rw [e])
  | spr n x =>
    obtain ⟨pc, data, hw⟩ := w.apply_spr n x
    rw [hw]
  | _ => rfl

theorem vregs_apply_other {i : Nat} {x : RegWrite} (h : ∀ r l v, x = .v r l v → 32 * r + l ≠ i) (w : Warp) :
    Tab.get (w.apply x).vregs {} i = Tab.get w.vregs {} i := by
  cases x with
  | v r l v => exact Tab.get_set_other _ _ _ _ _ fun e => h r l v rfl e.symm
  | spr n x =>
    obtain ⟨pc, data, hw⟩ := w.apply_spr n x
    rw [hw]
  | _ => rfl

theorem kregs_apply_other {r : Nat} {x : RegWrite} (h : ∀ m v, x ≠ .k r m v) (w : Warp) :
    Tab.get (w.apply x).kregs 0 r = Tab.get w.kregs 0 r := by
  cases x with
  | k r' m v => exact Tab.get_set_other _ _ _ _ _ fun e => h m v (by rw [e])
  | spr n x =>
    obtain ⟨pc, data, hw⟩ := w.apply_spr n x
    rw [hw]
  | _ => rfl

theorem kregs_apply_bit (w : Warp) (r : Nat) (v : BitVec 32) {m : BitVec 32} {l : Nat} (hl : m.getLsbD l = true) :
    (Tab.get (w.apply (.k r m v)).kregs 0 r).getLsbD l = v.getLsbD l := by
  simp [Warp.apply, hl]

end Warp

theorem State.w_writesS (s : State) (lat : Nat) (d : BitVec 6) (v : Word64) : (s.writesS lat d v).w = s.w.issue
    ⟨if lat = 0 then max (s.focus.issue + 1) s.now + s.focus.slow else s.focus.issue + lat, s.focus.issue, s.focus.ord,
      .s d.toNat v, lat == 0⟩ :=
  State.warp_setWarp s s.focus.core s.focus.slot _

/-- Settles O53: a write stands in completion order among the others, and those behind it that have completed are the only ones
that a read may see in its place. -/
theorem registerWritesComplete : Obligations.RegisterWritesComplete := by
  unfold Obligations.RegisterWritesComplete
  refine ⟨State.w_writesS, fun w p c c' h => ?_⟩
  refine ⟨inOrder_addPending p h, fun q => mem_addPending, ?early, fun hdue => ⟨?scalar, ?vector, ?mask⟩, ?retire⟩
  case early =>
    intro hearly
    have hat := Warp.at_issue_of_early (w := w) hearly
    rw [Warp.issue] at hat
    rw [hat]
    exact ⟨rfl, rfl, rfl, rfl, rfl, rfl, rfl, rfl⟩
  case scalar =>
    intro r v hwrite hlast
    obtain ⟨u, hu⟩ := Warp.at_issue_of_due (fun w => Tab.get w.sregs 0 r) h hdue fun q hq hqdue hqp =>
      Warp.sregs_apply_other fun x hx => hqp (hlast q hq x hx hqdue)
    rw [hwrite] at hu
    exact hu.trans (Tab.get_set_self _ _ _ _)
  case vector =>
    intro r l v hwrite hlast
    obtain ⟨u, hu⟩ := Warp.at_issue_of_due (fun w => Tab.get w.vregs {} (32 * r + l)) h hdue fun q hq hqdue hqp =>
      Warp.vregs_apply_other fun r' l' x hx hcell => hqp (hlast q hq r' l' x hx hcell hqdue)
    rw [hwrite] at hu
    exact hu.trans (Tab.get_set_self _ _ _ _)
  case mask =>
    intro r m v hwrite hlast l hl
    obtain ⟨u, hu⟩ := Warp.at_issue_of_due (fun w => Tab.get w.kregs 0 r) h hdue fun q hq hqdue hqp =>
      Warp.kregs_apply_other fun m' x hx => hqp (hlast q hq m' x hx hqdue)
    rw [hwrite] at hu
    exact (congrArg (fun x : BitVec 32 => x.getLsbD l) hu).trans (Warp.kregs_apply_bit u r v hl)
  case retire =>
    intro hc
    refine ⟨?_, rfl⟩
    rw [Warp.at_retire h hc]
    exact ⟨rfl, rfl, rfl, rfl, rfl, rfl, rfl, rfl⟩

end Sys2Proof.Machine

namespace Sys2Proof.Machine

/-! ## Entry to the trap handler (O21; R100, R358 to R360)

A trap first writes the trap registers over every write of them still to complete (`State.trapped`), and then enters the
handler (`State.enterHandler`); each part has its own lemmas, and the statement is read off from them. -/

/-! ### Writes of special registers -/

/-- Whether a write is one of a special register. -/
def Pending.isSpr (p : Pending) : Bool := match p.write with
  | .spr _ _ => true
  | _ => false

theorem Pending.isSpr_iff (p : Pending) : p.isSpr = true ↔ ∃ n x, p.write = .spr n x := by
  unfold Pending.isSpr
  cases p.write <;> simp

/-- The writes of special registers reach TRAPPC and TRAPDATA only. -/
theorem Warp.applyAll_spr {ps : List Pending} (h : ∀ p ∈ ps, p.isSpr = true) (w : Warp) :
    ∃ pc data, w.applyAll ps = { w with trapPc := pc, trapData := data } := by
  induction ps generalizing w with
  | nil => exact ⟨w.trapPc, w.trapData, rfl⟩
  | cons p ps ih =>
    obtain ⟨hp, hps⟩ := List.forall_mem_cons.mp h
    obtain ⟨n, x, hp⟩ := p.isSpr_iff.mp hp
    obtain ⟨pc, data, hw⟩ := ih hps (w.apply p.write)
    obtain ⟨pc', data', hp'⟩ := w.apply_spr n x
    exact ⟨pc, data, by rw [Warp.applyAll_cons, hw, hp, hp']⟩

/-- The trap registers, written anew, hide every write of them that had been issued. -/
theorem Warp.settleSpr_overwritten (w : Warp) (pc data : Word64) : { w.settleSpr with trapPc := pc, trapData := data } =
    { w with pend := w.pend.filter (fun p => !p.isSpr), trapPc := pc, trapData := data } := by
  obtain ⟨pc', data', h⟩ := Warp.applyAll_spr (ps := w.pend.filter Pending.isSpr)
    (fun p hp => (List.mem_filter.mp hp).2) w
  have hsettle : w.settleSpr = { w.applyAll (w.pend.filter Pending.isSpr) with
      pend := w.pend.filter (fun p => !p.isSpr) } := rfl
  rw [hsettle, h]

/-- R100: every write of fixed latency has completed in the cycle that the warp settles in. -/
theorem Warp.settled_spec (w : Warp) (c : Nat) :
    c ≤ w.settled c ∧ ∀ p ∈ w.pend, p.lock = false → p.due ≤ w.settled c := by
  unfold Warp.settled
  induction w.pend generalizing c with
  | nil => simp
  | cons p ps ih =>
    rw [List.foldl_cons]
    obtain ⟨hc, hps⟩ := ih (if p.lock then c else max c p.due)
    refine ⟨Nat.le_trans (by split <;> omega) hc, List.forall_mem_cons.mpr ⟨fun hp => ?_, hps⟩⟩
    refine Nat.le_trans ?_ hc
    rw [hp]
    exact Nat.le_max_right c p.due

/-! ### The trap registers are written -/

/-- The warp with a trap of its fragment in focus recorded. -/
def State.trapWarp (s : State) (cause : BitVec 10) (data : Word64) (decodeFault : Bool) : Warp :=
  { s.w with pend := s.w.pend.filter (fun p => !p.isSpr), trapCause := cause, trapPc := s.f.pc, trapData := data,
             progress := s.ownProgress decodeFault }

/-- The state in which a trap has been recorded, before it is disposed of. -/
def State.trapped (s : State) (cause : BitVec 10) (data : Word64) (decodeFault : Bool) : State :=
  { s.setW (s.trapWarp cause data decodeFault) with focus := { s.focus with out := .trapped } }

section
variable (s : State) (cause : BitVec 10) (data : Word64) (decodeFault : Bool)

theorem State.trapWarp_eq_settleSpr : { s.w.settleSpr with
    trapCause := cause, trapPc := s.f.pc, trapData := data, progress := s.ownProgress decodeFault } =
      s.trapWarp cause data decodeFault :=
  congrArg (fun w : Warp => { w with trapCause := cause, progress := s.ownProgress decodeFault })
    (s.w.settleSpr_overwritten s.f.pc data)

@[simp] theorem State.w_trapped : (s.trapped cause data decodeFault).w = s.trapWarp cause data decodeFault :=
  State.w_setW s _

@[simp] theorem State.f_trapped : (s.trapped cause data decodeFault).f = s.f := State.f_setW s _

@[simp] theorem State.t_trapped : (s.trapped cause data decodeFault).t = s.t := by
  have hg : (s.trapped cause data decodeFault).g = s.g := by
    rw [State.g, State.w_trapped]
    exact State.wg_setWarp s _ _ _ _ _
  rw [State.t, hg]
  rfl

theorem State.ownProgress_eq : s.ownProgress decodeFault =
    if decodeFault = true ∨ s.w.progress.pc ≠ s.f.pc ∨ s.w.progress.pos ≠ s.focus.pos then {}
    else { s.w.progress with armed := false } := by
  simp [State.ownProgress, or_assoc]

variable {s cause data decodeFault}

theorem State.mem_pend_trapWarp {p : Pending} :
    p ∈ (s.trapWarp cause data decodeFault).pend ↔ p ∈ s.w.pend ∧ ∀ n x, p.write ≠ .spr n x := by
  rw [State.trapWarp, List.mem_filter, Bool.not_eq_true', ← Bool.not_eq_true, Pending.isSpr_iff]
  simp only [not_exists, ne_eq]

/-- A trap that neither parks its warp for the debugger nor ends it enters the handler. -/
theorem State.takeTrap_enters (hstopped : s.f.stopped = none) (hparked : s.w.debugParked = none)
    (hhandler : s.t.desc.trapIdx ≠ 0xFFFFFFFF) (hcause : cause ∉ [(0x303 : BitVec 10), 0x304, 0x30B])
    (hdebug : 0x340 ≤ cause ∧ cause < 0x380 → (s.device s.die).dbgen = false) (hdepth : s.w.hidden.length < 2) :
    s.takeTrap cause data decodeFault = (s.trapped cause data decodeFault).enterHandler decodeFault := by
  have hnopark : ((0x340 ≤ cause && cause < 0x380) && (s.device s.die).dbgen) = false := by
    rw [Bool.and_eq_false_imp]
    intro hclass
    exact hdebug (by simpa using hclass)
  have hstays : (cause = 0x303 || cause = 0x304 || cause = 0x30B || s.t.desc.trapIdx = 0xFFFFFFFF) = false := by
    simpa [and_assoc, hhandler] using hcause
  unfold State.takeTrap
  rw [if_neg (by simp [hstopped, hparked])]
  dsimp only
  rw [State.trapWarp_eq_settleSpr]
  change (if ((0x340 ≤ cause && cause < 0x380) && (s.device s.die).dbgen) then _
    else if cause = 0x303 || cause = 0x304 || cause = 0x30B ||
      (s.trapped cause data decodeFault).t.desc.trapIdx = 0xFFFFFFFF then _
    else if 2 ≤ (s.trapped cause data decodeFault).w.hidden.length then _
    else (s.trapped cause data decodeFault).enterHandler decodeFault) = _
  rw [hnopark, State.t_trapped, hstays, State.w_trapped]
  simp only [Bool.false_eq_true, if_false]
  exact if_neg (Nat.not_le.mpr hdepth)

end

/-! ### The handler is entered -/

/-- The fragments that a handler stops: the other ones of the warp that no outer level has stopped. -/
def State.siblings (s : State) : List Nat :=
  (s.w.frags.filter (fun e => e.1 != s.focus.frag && e.2.stopped.isNone)).map (fun e => e.1)

/-- The hidden state that entry pushes (R359). -/
def State.pushed (s : State) (decodeFault : Bool) : Hidden :=
  { mask := s.f.mask, token := s.f.token, group := if decodeFault then 0 else s.f.groupNo, decodeFault := decodeFault,
    trapPc := s.w.trapPc, later := !s.f.groups.isEmpty, stopped := s.siblings, tokens := s.w.tokens.keys }

/-- The fragment that goes on at the handler. -/
def State.handling (s : State) : Frag :=
  { s.f with pc := s.t.desc.handler, arrived := s.f.pc, decoded := false, groups := [], groupNo := 0, startGroup := 0,
             target := none, words := [], flight := none, park := .none, brvWait := false, failed := none,
             nextIssue := s.w.settled s.f.nextIssue }

/-- A fragment as entry to the handler leaves it, by its number. -/
def State.stopSibling (s : State) (k : Nat) (f : Frag) : Frag :=
  if s.siblings.contains k then { f with stopped := some (s.w.hidden.length + 1) } else f

theorem State.mem_siblings {s : State} {k : Nat} :
    k ∈ s.siblings ↔ ∃ f, (k, f) ∈ s.w.frags ∧ k ≠ s.focus.frag ∧ f.stopped = none := by
  simp [State.siblings]

theorem State.enterHandler_eq (s : State) (decodeFault : Bool) : s.enterHandler decodeFault =
    s.setW { s.w with
      hidden := s.pushed decodeFault :: s.w.hidden
      frags := Tab.set (s.w.frags.map (fun e => (e.1, s.stopSibling e.1 e.2))) s.focus.frag s.handling } := rfl

theorem Tab.mem_of_find {α : Type} {t : Tab α} {k : Nat} {x : α} (h : Tab.find t k = some x) : (k, x) ∈ t := by
  induction t with
  | nil => cases h
  | cons e t ih =>
    rw [Tab.find] at h
    split at h
    · exact List.mem_cons.mpr (Or.inl (Prod.ext_iff.mpr ⟨(‹e.1 = k›).symm, (Option.some.inj h).symm⟩))
    · split at h
      · cases h
      · exact List.mem_cons_of_mem _ (ih h)

@[simp] theorem State.siblings_trapped (s : State) (cause : BitVec 10) (data : Word64) (decodeFault : Bool) :
    (s.trapped cause data decodeFault).siblings = s.siblings := by
  rw [State.siblings, State.w_trapped]
  rfl

@[simp] theorem State.w_enterHandler (s : State) (decodeFault : Bool) : (s.enterHandler decodeFault).w =
    { s.w with
      hidden := s.pushed decodeFault :: s.w.hidden
      frags := Tab.set (s.w.frags.map (fun e => (e.1, s.stopSibling e.1 e.2))) s.focus.frag s.handling } := by
  rw [State.enterHandler_eq, State.w_setW]

@[simp] theorem State.f_enterHandler (s : State) (decodeFault : Bool) : (s.enterHandler decodeFault).f = s.handling := by
  rw [State.enterHandler_eq, State.f_setW, Tab.get_set_self]

/-- Every other fragment of the warp that was free to issue is stopped at the new level. -/
theorem State.stops_enterHandler {s : State} {k : Nat} {f : Frag} (hk : k ≠ s.focus.frag)
    (hfind : Tab.find s.w.frags k = some f) (hfree : f.stopped = none) (decodeFault : Bool) :
    ∃ f', Tab.find (s.enterHandler decodeFault).w.frags k = some f' ∧ f'.stopped = some (s.w.hidden.length + 1) := by
  have hsibling : s.siblings.contains k = true :=
    List.contains_iff_mem.mpr (State.mem_siblings.mpr ⟨f, Tab.mem_of_find hfind, hk, hfree⟩)
  refine ⟨s.stopSibling k f, ?_, by rw [State.stopSibling, if_pos hsibling]⟩
  rw [State.w_enterHandler, Tab.find_set_other _ _ _ _ hk, Tab.find_map, hfind]
  rfl

/-- Settles O21: the trap is recorded, and the fields of the warp and of its fragment are read off after entry. -/
theorem trapEntersHandler : Obligations.TrapEntersHandler := by
  unfold Obligations.TrapEntersHandler
  intro s cause data decodeFault hstopped hparked hhandler hcause hdebug hdepth
  rw [State.takeTrap_enters hstopped hparked hhandler hcause hdebug hdepth]
  obtain ⟨hissue, hsettled⟩ := (s.trapWarp cause data decodeFault).settled_spec s.f.nextIssue
  simp only [State.w_enterHandler, State.f_enterHandler, State.handling, State.w_trapped, State.f_trapped, State.t_trapped]
  refine ⟨rfl, rfl, rfl, rfl, rfl, rfl, rfl, rfl, rfl, rfl, ?pend, hsettled, hissue, ?progress, ?hidden, rfl, trivial,
    trivial, ?siblings, fun _ => rfl, rfl, rfl, rfl⟩
  case pend => exact fun _ => State.mem_pend_trapWarp
  case progress => exact s.ownProgress_eq decodeFault
  case hidden =>
    refine ⟨_, rfl, ?_⟩
    rw [State.pushed, State.f_trapped, State.w_trapped, State.siblings_trapped]
    exact ⟨rfl, rfl, rfl, rfl, fun _ => State.mem_siblings⟩
  case siblings =>
    intro k f hk hfind hfree
    have hstops := State.stops_enterHandler (s := s.trapped cause data decodeFault) hk (by rwa [State.w_trapped]) hfree
      decodeFault
    simp only [State.w_enterHandler, State.w_trapped, State.handling, State.f_trapped, State.t_trapped] at hstops
    exact hstops

end Sys2Proof.Machine

namespace Sys2Proof.Machine

/-! ## Reconvergence tokens (O18; R103, R104, R123) -/

theorem firstFree_eq_some {used : List Nat} {i n k : Nat} (hge : i ≤ k) (hlt : k < i + n) (hfree : k ∉ used)
    (hused : ∀ j, i ≤ j → j < k → j ∈ used) : firstFree used i n = some k := by
  induction n generalizing i with
  | zero => omega
  | succ n ih =>
    rw [firstFree]
    by_cases hik : i = k
    · simp [hik, hfree]
    · rw [if_pos (by simpa using hused i (Nat.le_refl i) (by omega))]
      exact ih (by omega) (by omega) fun j hj => hused j (by omega)

theorem firstFree_eq_none {used : List Nat} {i n : Nat} (hused : ∀ j, i ≤ j → j < i + n → j ∈ used) :
    firstFree used i n = none := by
  induction n generalizing i with
  | zero => rfl
  | succ n ih =>
    rw [firstFree, if_pos (by simpa using hused i (Nat.le_refl i) (by omega))]
    exact ih fun j hj hlt => hused j (by omega) (by omega)

theorem Tab.mem_keys_of_find {α : Type} {t : Tab α} {k : Nat} (h : (Tab.find t k).isSome = true) : k ∈ t.keys := by
  refine Decidable.byContradiction fun hk => ?_
  rw [Tab.find_none_of_not_mem t k hk] at h
  cases h

section
variable {s : State} {o : OpJ}

theorem exec_rcv_creates {k : Nat} (hk : firstFree s.w.tokens.keys 0 16 = some k) : exec (.rcv o) s =
    .next ((s.setW { s.w with
      frags := Tab.set s.w.frags s.focus.frag { s.f with token := some k }
      tokens := Tab.set s.w.tokens k { addr := s.packetAt o.immI, expect := s.active, outer := s.f.token } }).ended) := by
  simp only [exec, execRcv, hk, Res.out_done, State.setF_setW, State.f_setW]
  rfl

theorem exec_rcv_traps (hfull : firstFree s.w.tokens.keys 0 16 = none) :
    Traps (exec (.rcv o) s) s 0x302 (s.packetAt o.immI) := by
  simp only [Traps, exec, execRcv, hfull, Res.out_trap]

end

theorem State.joinTest_without_token {s : State} (h : s.f.token = none) (n : Nat) : s.joinTest n = (true, s) := by
  cases n with
  | zero => rfl
  | succ n => simp only [State.joinTest, h]

section
variable {s : State} {t : Nat} {x : Token} (htoken : s.f.token = some t) (hfind : Tab.find s.w.tokens t = some x) (n : Nat)
include htoken hfind

theorem State.joinTest_elsewhere (haddr : x.addr ≠ s.f.pc) : s.joinTest (n + 1) = (true, s) := by
  simp [State.joinTest, htoken, hfind, haddr]

theorem State.joinTest_complete (haddr : x.addr = s.f.pc) (hall : x.expect &&& ~~~s.w.exited &&& ~~~s.f.mask = 0) :
    s.joinTest (n + 1) =
      (s.setW { s.w with frags := Tab.set s.w.frags s.focus.frag { s.f with token := x.outer }
                         tokens := Tab.del s.w.tokens t }).joinTest n := by
  simp [State.joinTest, htoken, hfind, haddr, hall, State.setF_eq]

theorem State.joinTest_waits (haddr : x.addr = s.f.pc) (hleft : x.expect &&& ~~~s.w.exited &&& ~~~s.f.mask ≠ 0) :
    (s.joinTest (n + 1)).1 = false := by
  simp only [State.joinTest, htoken, hfind, haddr, bne_self_eq_false, Bool.false_eq_true, if_false, if_neg hleft]

end

/-- Settles O18: RCV takes the lowest free token, and the join test has one lemma for each of its outcomes. -/
theorem reconvergenceResults : Obligations.ReconvergenceResults := by
  unfold Obligations.ReconvergenceResults
  refine ⟨fun o s => ⟨?create, ?full⟩, fun s n t x htoken hfind => ?join, fun s n h => State.joinTest_without_token h n⟩
  case create =>
    intro k hlt hfree hlower
    exact exec_rcv_creates (firstFree_eq_some (Nat.zero_le k) (by omega) hfree fun j _ hj => Decidable.not_not.mp (hlower j hj))
  case full =>
    intro hlive
    exact exec_rcv_traps (firstFree_eq_none fun k _ hk => Tab.mem_keys_of_find (hlive k (by omega)))
  case join =>
    exact ⟨State.joinTest_elsewhere htoken hfind n, State.joinTest_complete htoken hfind n,
      State.joinTest_waits htoken hfind n⟩

end Sys2Proof.Machine

namespace Sys2Proof.Machine

/-! ## Conversion and quantisation (O11; R141, R167, R168) -/

theorem State.Uniform.left {s : State} {u : Bool} {xs ys : List Nat} (h : s.Uniform u (xs ++ ys)) : s.Uniform u xs :=
  fun hu hc r hr => h hu hc r (List.mem_append_left _ hr)

theorem State.Uniform.right {s : State} {u : Bool} {xs ys : List Nat} (h : s.Uniform u (xs ++ ys)) : s.Uniform u ys :=
  fun hu hc r hr => h hu hc r (List.mem_append_right _ hr)

theorem Chk.forM_ok {α : Type} {f : α → Chk Unit} {l : List α} (h : ∀ x ∈ l, f x = .ok ()) : l.forM f = .ok () := by
  induction l with
  | nil => rfl
  | cons x l ih =>
    obtain ⟨hx, hl⟩ := List.forall_mem_cons.mp h
    exact (Chk.bind_ok hx _).trans (ih hl)

/-! ### VCVT -/

/-- What `.hi` needs of the target and of the old destination, two of whose elements it keeps (R167). -/
def State.HiKept (s : State) (c : Conversion) : Prop :=
  c.hi = true → c.dst ∈ [Tag.e4m3x4, .i8x4] ∧ s.Sources c.u c.dst [c.d]

/-- What VCVT in its register form says. -/
def Conversion.ofR (o : OpR) : Conversion :=
  { u := o.u, d := o.d.toNat, a := o.a.toNat, b := if (Tag.ofCode o.sub.toNat).packed then some o.b.toNat else none,
    dst := Tag.ofCode o.sub.toNat, sel := o.xm.toNat % 4, nat := o.xm.getLsbD 2, hi := o.m,
    rm := Rm.ofBits o.rm, sat := o.sat }

/-- What VCVT in its immediate form says. -/
def Conversion.ofI (i : OpI) : Conversion :=
  { u := i.u, d := i.d.toNat, a := i.a.toNat, b := none, dst := Tag.ofCode (i.imm.toNat % 16), sel := i.imm.toNat / 16 % 4,
    nat := i.imm.getLsbD 6, hi := false, rm := .rn, sat := false }

theorem exec_vcvtR (o : OpR) (s : State) : exec (.vcvtR o) s = (s.convert (Conversion.ofR o)).out := rfl

theorem exec_vcvtI (i : OpI) (s : State) : exec (.vcvtI i) s = (s.convert (Conversion.ofI i)).out := rfl

/-- The second source is read for a packed target alone. -/
theorem Conversion.regs_ofR (o : OpR) : (Conversion.ofR o).a :: (Conversion.ofR o).b.toList =
    o.a.toNat :: if (Tag.ofCode o.sub.toNat).packed then [o.b.toNat] else [] := by
  unfold Conversion.ofR
  cases (Tag.ofCode o.sub.toNat).packed <;> rfl

section
variable {s : State} {c : Conversion} {t : Tag}

/-- The checks of VCVT pass, one after the other. -/
theorem checkConversion_ok (hsources : s.Sources c.u t (c.a :: c.b.toList)) (ht : isConvertible t = true)
    (hsel : c.sel < t.count) (hpacked : (t.packed && c.dst.packed) = false) (hkept : s.HiKept c) :
    s.checkConversion c = .ok t := by
  obtain ⟨hactive, htagged, huniform⟩ := hsources
  have hsecond : (c.b.toList.forM (fun b => do let _ ← s.checkSame b 1 t) : Chk Unit) = .ok () :=
    Chk.forM_ok fun b hb => Chk.bind_ok (checkSame_ok hactive (htagged b (List.mem_cons_of_mem _ hb)) 1) _
  have hhi : (c.hi && c.dst != .e4m3x4 && c.dst != .i8x4) = false := by
    cases hc : c.hi with
    | false => rfl
    | true =>
      have hdst : c.dst = .e4m3x4 ∨ c.dst = .i8x4 := by simpa using (hkept hc).1
      rcases hdst with hdst | hdst <;> rw [hdst] <;> rfl
  have helement : (t.packed && c.dst.packed || decide (t.count ≤ c.sel)) = false := by
    simpa [hpacked] using hsel
  have hpartners : (do s.checkUniform c.u (t.partners (c.a :: c.b.toList)); pure t : Chk Tag) = .ok t :=
    Chk.bind_ok (checkUniform_ok huniform.right) _
  unfold State.checkConversion
  rw [Chk.bind_ok (checkUniform_ok huniform.left), Chk.bind_ok (checkTag_ok hactive (htagged c.a (by simp)) 0 ht),
    Chk.bind_ok hsecond]
  simp only [hhi, helement, Bool.false_eq_true, if_false, hpartners]
  split
  · obtain ⟨-, -, hold, holdUniform⟩ := hkept ‹_›
    rw [Chk.bind_ok (checkUniform_ok holdUniform.left), Chk.bind_ok (checkTag_ok hactive (hold c.d (by simp)) 3 (by simp))]
  · rfl

theorem out_convert (h : s.checkConversion c = .ok t) : (s.convert c).out =
    .next (s.writes (if t = .f64l ∨ c.dst = .f64l then 8 else 6)
      (s.lanes c.d c.dst (fun l => s.convertLane c t (s.src c.u l)))) := by
  rw [State.convert, Chk.run_ok h, out_putElems]
  simp only [Bool.or_eq_true, beq_iff_eq]

/-- The element that VCVT makes of a source register in a lane. -/
def State.convertedElem (s : State) (c : Conversion) (t : Tag) (i r : Nat) : Nat :=
  convertElem c.dst c.nat c.rm c.sat (sourceElem t c.nat ((s.elemsAt r t i).getD c.sel 0))

/-- A lane of the result: the elements kept, the converted ones, and zeros up to the size of a packed target. -/
theorem convertLane_eq (hkept : s.HiKept c) (i : Nat) : s.convertLane c t i =
    let es := (if c.hi then (s.elemsAt c.d c.dst i).take 2 else []) ++ (c.a :: c.b.toList).map (s.convertedElem c t i)
    es ++ List.replicate (if c.dst.packed then c.dst.count - es.length else 0) 0 := by
  have hunpacked : c.dst.packed = false → c.hi = false := by
    intro hdst
    cases hc : c.hi with
    | false => rfl
    | true =>
      have hfour : c.dst = .e4m3x4 ∨ c.dst = .i8x4 := by simpa using (hkept hc).1
      rcases hfour with hfour | hfour <;> rw [hfour] at hdst <;> cases hdst
  unfold State.convertLane
  cases hdst : c.dst.packed with
  | false => cases hb : c.b <;> simp [hunpacked hdst, State.convertedElem]
  | true => cases hb : c.b <;> cases hc : c.hi <;> simp [State.convertedElem]

end

theorem isConvertible_of_mem {t : Tag} (h : t ∈ [Tag.i32, .n32, .f32, .f64l, .bf16x2, .h16x2, .e4m3x4, .i16x2, .i8x4]) :
    isConvertible t = true := by
  revert t
  decide

/-! ### VQNT -/

/-- The encoding of element `j` of a lane of the block that VQNT reads. -/
def State.blockAt (s : State) (o : OpR) (i j : Nat) : Nat := (s.V (o.a.toNat + j) i).val.toNat

/-- The encodings of the block. -/
def State.block (s : State) (o : OpR) : List Nat :=
  (List.range 32).flatMap (fun i => [s.blockAt o i 0, s.blockAt o i 1, s.blockAt o i 2, s.blockAt o i 3])

theorem State.mem_block {s : State} {o : OpR} {x : Nat} : x ∈ s.block o ↔ ∃ i j, i < 32 ∧ j < 4 ∧ s.blockAt o i j = x := by
  simp only [State.block, List.mem_flatMap, List.mem_range]
  constructor
  · rintro ⟨i, hi, hx⟩
    simp only [List.mem_cons, List.not_mem_nil, or_false] at hx
    rcases hx with rfl | rfl | rfl | rfl
    · exact ⟨i, 0, hi, by decide, rfl⟩
    · exact ⟨i, 1, hi, by decide, rfl⟩
    · exact ⟨i, 2, hi, by decide, rfl⟩
    · exact ⟨i, 3, hi, by decide, rfl⟩
  · rintro ⟨i, j, hi, hj, rfl⟩
    refine ⟨i, hi, ?_⟩
    have hcases : j = 0 ∨ j = 1 ∨ j = 2 ∨ j = 3 := by omega
    rcases hcases with rfl | rfl | rfl | rfl <;> simp

theorem exec_vqnt {s : State} {o : OpR} (hactive : s.active = BitVec.allOnes 32)
    (htagged : ∀ j, j < 4 → s.Tagged .f32 (o.a.toNat + j)) :
    let scale := quantScale o.m (amax (s.block o))
    exec (.vqnt o) s = .next (s.writes 14 ((List.range 32).flatMap (fun i =>
      [.v o.d.toNat i ⟨BitVec.ofNat 32 (pack 8 ((List.range 4).map (fun j =>
        Fmt.e4m3.round ((Fmt.f32.val (s.blockAt o i j)).div (Fmt.f32.val scale)) (Rm.ofBits o.rm) false))), .e4m3x4⟩,
       .v (o.d.toNat + 1) i ⟨BitVec.ofNat 32 scale, .f32⟩]))) := by
  have hne : s.active ≠ 0 := by rw [hactive]; decide
  have htag (j : Nat) (hj : j < 4) : s.checkTag (o.a.toNat + j) 0 (· == .f32) = .ok .f32 :=
    checkTag_ok hne (htagged j hj) 0 rfl
  simp only [exec, execVqnt, hactive, bne_self_eq_false, Bool.false_eq_true, if_false]
  rw [Chk.run_ok (a := ()) ?checks]
  case checks => exact Chk.forM_ok fun j hj => Chk.bind_ok (htag j (by simp at hj; omega)) _
  rfl

/-- The largest finite magnitude of a list is the bound of all that is reached by one. -/
theorem foldl_amax {xs : List Nat} {k acc m : Nat} (hbound : ∀ x ∈ xs, x ≤ m ∨ k ≤ x) (hm : m < k) (hacc : acc ≤ m)
    (hreached : acc = m ∨ m ∈ xs) : xs.foldl (fun m x => if x < k ∧ m < x then x else m) acc = m := by
  induction xs generalizing acc with
  | nil => simpa using hreached
  | cons x xs ih =>
    obtain ⟨hx, hxs⟩ := List.forall_mem_cons.mp hbound
    rw [List.foldl_cons]
    apply ih hxs
    · split <;> omega
    · rcases hreached with rfl | hmem
      · exact Or.inl (if_neg (by omega))
      · rcases List.mem_cons.mp hmem with rfl | hmem
        · left; split <;> omega
        · exact Or.inr hmem

theorem amax_eq {xs : List Nat} {m : Nat} (hbound : ∀ x ∈ xs, x % 2 ^ 31 ≤ m ∨ 0x7F800000 ≤ x % 2 ^ 31)
    (hm : m < 0x7F800000) (hreached : m = 0 ∨ ∃ x ∈ xs, x % 2 ^ 31 = m) : amax xs = m := by
  refine foldl_amax (List.forall_mem_map.mpr hbound) hm (Nat.zero_le m) ?_
  exact hreached.imp Eq.symm List.mem_map.mpr

/-- The least scale found: it bounds the value if the last one tried does, and the one below it does not. -/
theorem leastScale_spec {x : FVal} {n : Nat} {e : Int} (hlast : FVal.cmp x (.fin false 448 (e + n)) ≤ 0) :
    e ≤ leastScale x e n ∧ FVal.cmp x (.fin false 448 (leastScale x e n)) ≤ 0 ∧
    (e < leastScale x e n → 0 < FVal.cmp x (.fin false 448 (leastScale x e n - 1))) := by
  induction n generalizing e with
  | zero => exact ⟨Int.le_refl e, by simpa [leastScale] using hlast, fun h => absurd h (Int.lt_irrefl e)⟩
  | succ n ih =>
    rw [leastScale]
    split
    · exact ⟨Int.le_refl e, ‹_›, fun h => absurd h (Int.lt_irrefl e)⟩
    · obtain ⟨hle, hcmp, hleast⟩ := ih (e := e + 1) (by
        rwa [show e + 1 + (n : Int) = e + (n + 1 : Nat) by omega])
      refine ⟨by omega, hcmp, fun _ => ?_⟩
      by_cases heq : leastScale x (e + 1) n = e + 1
      · rw [heq, Int.add_sub_cancel]
        exact Int.not_le.mp ‹_›
      · exact hleast (by omega)

/-- A value of 24 bits is below 448 × 2^g, for g far enough above its exponent. -/
theorem cmp_fin_le {neg : Bool} {m : Nat} {e g : Int} (hm : m < 2 ^ 24) (hg : e + 16 ≤ g) :
    FVal.cmp (.fin neg m e) (.fin false 448 g) ≤ 0 := by
  have hmin : min e g = e := by omega
  have hpow : 2 ^ 16 ≤ 2 ^ (g - e).toNat := Nat.pow_le_pow_right (by decide) (by omega)
  have hpow' : ((2 ^ (g - e).toNat : Nat) : Int) = 2 ^ (g - e).toNat := Int.natCast_pow 2 _
  simp only [FVal.cmp, FVal.expo, FVal.scaled, hmin, Int.sub_self, Int.toNat_zero, Int.pow_zero, Int.mul_one,
    Bool.false_eq_true, if_false]
  split <;> omega

/-- The magnitudes of f32 are within reach of the search for a scale. -/
theorem cmp_f32_val_le {m : Nat} (hm : m < 0x7F800000) : FVal.cmp (Fmt.f32.val m) (.fin false 448 131) ≤ 0 := by
  have hex : m / 2 ^ Fmt.f32.fracBits % 2 ^ Fmt.f32.expBits < 2 ^ Fmt.f32.expBits - 1 := by
    show m / 2 ^ 23 % 2 ^ 8 < 2 ^ 8 - 1
    omega
  have hfr : m % 2 ^ Fmt.f32.fracBits < 2 ^ 23 := Nat.mod_lt _ (by decide)
  have hmax : 2 ^ Fmt.f32.expBits - 1 = 255 := rfl
  have hfrac : 2 ^ Fmt.f32.fracBits = 2 ^ 23 := rfl
  have hbias : ((Fmt.f32.bias : Nat) : Int) = 127 := rfl
  have hbits : ((Fmt.f32.fracBits : Nat) : Int) = 23 := rfl
  have hval : ∃ neg fr, ∃ e : Int, fr < 2 ^ 24 ∧ e ≤ 104 ∧ Fmt.f32.val m = .fin neg fr e := by
    simp only [Fmt.val]
    rw [if_neg (by decide), if_neg (Nat.ne_of_lt hex)]
    split
    · exact ⟨_, _, _, by omega, by omega, rfl⟩
    · exact ⟨_, _, _, by omega, by omega, rfl⟩
  obtain ⟨neg, fr, e, hfr, he, hval⟩ := hval
  rw [hval]
  exact cmp_fin_le hfr (by omega)

theorem quantScale_zero (p2 : Bool) : quantScale p2 0 = 0x3F800000 := by
  rw [quantScale, if_pos rfl]
  decide

theorem quantScale_quotient {m : Nat} (hm : 0 < m) :
    quantScale false m = Fmt.f32.round ((Fmt.f32.val m).div (.fin false 448 0)) .ru false := by
  rw [quantScale, if_neg (Nat.ne_of_gt hm), if_neg (by decide)]

theorem quantScale_power {m : Nat} (hm : 0 < m) (hfin : m < 0x7F800000) :
    ∃ e : Int, quantScale true m = Fmt.f32.round (.fin false 1 e) .rn false ∧ -149 ≤ e ∧
      FVal.cmp (Fmt.f32.val m) (.fin false 448 e) ≤ 0 ∧
      (-149 < e → 0 < FVal.cmp (Fmt.f32.val m) (.fin false 448 (e - 1))) :=
  ⟨leastScale (Fmt.f32.val m) (-149) 280, by rw [quantScale, if_neg (Nat.ne_of_gt hm), if_pos rfl],
    leastScale_spec (cmp_f32_val_le hfin)⟩

/-- Settles O11: the checks of each word pass, and its elements and its scale are those of the model's own functions. -/
theorem vectorConversionResults : Obligations.VectorConversionResults := by
  unfold Obligations.VectorConversionResults
  refine ⟨fun o i s t ht => ⟨?register, ?immediate⟩, fun o s => ?quantised⟩
  case register =>
    intro dst sel nat regs elem hsources hsel hpacked hhi
    have hregs : (Conversion.ofR o).a :: (Conversion.ofR o).b.toList = regs := Conversion.regs_ofR o
    have hkept : s.HiKept (Conversion.ofR o) := hhi
    have hcheck := checkConversion_ok (c := Conversion.ofR o) (by rwa [hregs]) (isConvertible_of_mem ht) hsel hpacked hkept
    rw [exec_vcvtR, out_convert hcheck]
    simp only [convertLane_eq hkept, hregs]
    rfl
  case immediate =>
    intro n dst sel nat hsources hsel hpacked
    have hkept : s.HiKept (Conversion.ofI i) := fun h => nomatch h
    have hcheck := checkConversion_ok (c := Conversion.ofI i) hsources (isConvertible_of_mem ht) hsel hpacked hkept
    rw [exec_vcvtI, out_convert hcheck]
    simp only [convertLane_eq hkept]
    rfl
  case quantised =>
    intro at_ hactive htagged
    refine ⟨_, exec_vqnt hactive htagged, fun hnone => ?_, fun m hreached hpos hfin hbound => ?_⟩
    · rw [amax_eq (m := 0) ?_ (by decide) (Or.inl rfl), quantScale_zero]
      intro x hx
      obtain ⟨i, j, hi, hj, rfl⟩ := State.mem_block.mp hx
      exact (hnone i j hi hj).imp_left Nat.le_of_eq
    · obtain ⟨i, j, hi, hj, hm⟩ := hreached
      have hmax : amax (s.block o) = m := by
        refine amax_eq (fun x hx => ?_) hfin (Or.inr ⟨_, State.mem_block.mpr ⟨i, j, hi, hj, rfl⟩, hm⟩)
        obtain ⟨i, j, hi, hj, rfl⟩ := State.mem_block.mp hx
        exact hbound i j hi hj
      rw [hmax]
      exact ⟨fun hp2 => by rw [hp2, quantScale_quotient hpos], fun hp2 => by rw [hp2]; exact quantScale_power hpos hfin⟩

end Sys2Proof.Machine

namespace Sys2Proof.Machine

/-! ## Control transfer and EXIT (O16, O17, O19; R102, R119 to R122, R124, R125, R131, R133) -/

/-! ### What the end of lanes keeps (R131) -/

/-- What the end of lanes keeps of a warp that goes on: the exited lanes, the status and the scalar registers; it adds no
fragment. -/
structure Warp.Kept (w w' : Warp) : Prop where
  exited : w'.exited = w.exited
  xst : w'.xst = w.xst
  sregs : w'.sregs = w.sregs
  frags : w'.frags.keys ⊆ w.frags.keys

/-- What the end of lanes of a warp, which goes on, leaves of the state: the warp as far as it is kept, the word in focus and
memory. -/
structure State.Kept (c k : Nat) (s t : State) : Prop where
  focus : t.focus = s.focus
  mem : t.mem = s.mem
  warp : (s.warp c k).Kept (t.warp c k)

/-! ### The word in focus has ended -/

@[simp] theorem State.w_ended (s : State) : s.ended.w = s.w := rfl
@[simp] theorem State.f_ended (s : State) : s.ended.f = s.f := rfl
@[simp] theorem State.mem_ended (s : State) : s.ended.mem = s.mem := rfl
@[simp] theorem State.core_ended (s : State) (c : Nat) : s.ended.core c = s.core c := rfl
@[simp] theorem State.frag_ended (s : State) (c k f : Nat) : s.ended.frag c k f = s.frag c k f := rfl
@[simp] theorem State.quad_ended (s : State) (c q : Nat) : s.ended.quad c q = s.quad c q := rfl

/-! ### Transfers (R119 to R121, R124, R125) -/

theorem exec_br (j : OpJ) (s : State) : exec (.br j) s = .next (s.goes (s.packetAt j.immI)) := rfl

theorem exec_brc (c : OpC) (s : State) :
    exec (.brc c) s = .next (if branchTest c.cc (s.S c.a) then s.goes (s.packetAt c.immI) else s.ended) := by
  change execBrc c s = _
  unfold execBrc
  split <;> rfl

theorem exec_call (j : OpJ) (s : State) :
    exec (.call j) s = .next ((s.putAll 0 [.s 63 (s.f.pc + 12)]).goes (s.packetAt j.immI)) := rfl

theorem exec_ret (o : OpR) (s : State) : exec (.ret o) s = .next (s.goes (s.S o.a)) := rfl

theorem exec_jmpi (o : OpR) (s : State) : exec (.jmpi o) s =
    .next ((if o.m then s.putAll 0 [.s o.d.toNat (s.f.pc + 12)] else s).goes (s.S o.a)) := rfl

/-- The word that ends a packet's last group moves its fragment to the packet that a transfer named, or to the next one. -/
theorem Frag.finishWord_last {f : Frag} {w : DWord} (hwords : f.words = [w]) (hgroups : f.groups = []) :
    f.finishWord.pc = f.target.getD (f.pc + 12) ∧ f.finishWord.target = none ∧ f.finishWord.arrived = f.pc ∧
      f.finishWord.mask = f.mask := by
  simp [Frag.finishWord, Frag.advance, hwords, hgroups]

/-- Settles O16: one equation for each word; BRC tests an i64 as the integer that it is. -/
theorem transferResults : Obligations.TransferResults := by
  unfold Obligations.TransferResults
  refine ⟨fun j c o s => ⟨exec_br j s, exec_brc c s, exec_call j s, exec_ret o s, fun hm => ?plain, fun hm => ?linked⟩,
    fun f w => Frag.finishWord_last⟩
  case plain => rw [exec_jmpi, if_neg (by simp [hm])]
  case linked => rw [exec_jmpi, if_pos hm]

/-! ### BRV (R102, R122) -/

theorem getLsbD_laneBit (i j : Nat) : (laneBit i).getLsbD j = decide (j = i ∧ i < 32) := by
  unfold laneBit
  split
  case isTrue h => rw [← BitVec.twoPow_eq, BitVec.getLsbD_twoPow]; simp [h, eq_comm]
  case isFalse h => simp [h]

theorem getLsbD_foldl_laneBit (l : List Nat) (m : BitVec 32) (j : Nat) :
    (l.foldl (fun m i => m ||| laneBit i) m).getLsbD j = (m.getLsbD j || decide (j ∈ l ∧ j < 32)) := by
  induction l generalizing m with
  | nil => simp
  | cons i l ih =>
    have hmem : (j ∈ i :: l ∧ j < 32) ↔ (j = i ∧ i < 32) ∨ j ∈ l ∧ j < 32 := by
      rw [List.mem_cons, or_and_right, and_congr_right (fun h : j = i => by rw [h])]
    rw [List.foldl_cons, ih, BitVec.getLsbD_or, getLsbD_laneBit, Bool.or_assoc, decide_eq_decide.mpr hmem,
      Bool.decide_or]

theorem getLsbD_maskOf (l : List Nat) (j : Nat) : (maskOf l).getLsbD j = decide (j ∈ l ∧ j < 32) := by
  simp [maskOf, getLsbD_foldl_laneBit]

@[simp] theorem State.warp_setQuad (s : State) (c q c' k : Nat) (x : Quad) :
    (s.setQuad c q x).warp c' k = s.warp c' k := by
  by_cases hc : c' = c
  · subst hc; simp [State.warp, State.setQuad]
  · simp [State.warp, State.setQuad, hc]

section
variable (s : State) (o : OpC)

/-- Whether a lane passes the test of a BRV (R122). -/
def State.brvTest (i : Nat) : Bool :=
  let x := (s.V o.a.toNat i).val
  let k := s.K (o.a.toNat % 8)
  match o.cc.toNat with
  | 0 => x == 0
  | 1 => x != 0
  | 2 => x.msb
  | 3 => !x.msb
  | 4 => k.getLsbD i
  | _ => !k.getLsbD i

theorem State.brvTest_of_lt (i : Nat) (h : o.cc.toNat < 4) : s.brvTest o i = laneTest o.cc (s.V o.a.toNat i).val := by
  unfold State.brvTest laneTest
  generalize o.cc.toNat = n at h
  match n, h with
  | 0, _ => rfl
  | 1, _ => rfl
  | 2, _ => exact BitVec.msb_eq_getLsbD_last _
  | 3, _ => exact congrArg not (BitVec.msb_eq_getLsbD_last _)
  | n + 4, h => omega

theorem State.brvTest_of_ge (i : Nat) (h : 4 ≤ o.cc.toNat) (hcc : o.cc.toNat < 6) : s.brvTest o i =
    if o.cc = 4 then (s.K (o.a.toNat % 8)).getLsbD i else !(s.K (o.a.toNat % 8)).getLsbD i := by
  have heq : o.cc = 4 ↔ o.cc.toNat = 4 := BitVec.toNat_inj.symm
  simp only [heq]
  unfold State.brvTest
  generalize o.cc.toNat = n at h hcc
  obtain rfl | rfl : n = 4 ∨ n = 5 := by omega
  · rfl
  · rfl

/-- The lanes that take a BRV are the active ones that pass its test. -/
theorem State.getLsbD_brvTaken {i : Nat} (hi : i < 32) (hcc : o.cc.toNat < 6) :
    (s.brvTaken o).getLsbD i = (s.active.getLsbD i && s.brvTest o i) := by
  unfold State.brvTaken
  split
  case isTrue h =>
    rw [getLsbD_maskOf, s.brvTest_of_lt o i h]
    simp [mem_lanesOf, hi]
  case isFalse h =>
    rw [s.brvTest_of_ge o i (Nat.not_lt.mp h) hcc]
    split <;> simp [hi]

end

section
variable {s : State} {o : OpC}

theorem brvCheck_ok {tag : Tag} (hactive : s.active ≠ 0) (htag : o.cc.toNat < 4 → s.Holds tag o.a.toNat) :
    s.brvCheck o = .ok () := by
  unfold State.brvCheck
  split
  · rename_i hcc
    exact Chk.bind_ok (checkOne_ok (ok := fun _ => true) hactive (htag hcc) 0 rfl false) _
  · rfl

theorem exec_brv_stays (hcheck : s.brvCheck o = .ok ()) (hsplit : s.brvSplits o = false) : exec (.brv o) s =
    .next (if s.brvTaken o = 0 then s.ended else s.goes (s.packetAt o.immI)) := by
  change execBrv o s = _
  simp only [execBrv, Chk.run_ok hcheck, hsplit, Bool.false_eq_true, if_false]
  split <;> rfl

theorem exec_brv_splits {e : Nat} (hcheck : s.brvCheck o = .ok ()) (hsplit : s.brvSplits o = true)
    (hentry : s.splitFor s.focus.core (s.focus.slot / 32) s.focus.frag = some e) :
    exec (.brv o) s = .next (s.split (s.brvTaken o) (s.packetAt o.immI) e).ended := by
  change execBrv o s = _
  simp only [execBrv, Chk.run_ok hcheck, hsplit, hentry, if_true]
  rfl

theorem State.brvSplits_iff : s.brvSplits o = true ↔
    s.brvTaken o ≠ 0 ∧ s.active &&& ~~~s.brvTaken o ≠ 0 ∧ s.packetAt o.immI ≠ s.f.pc + 12 := by
  simp [State.brvSplits, and_assoc]

end

/-! ### The split of a fragment (R102) -/

/-- Whether the taken side of a split is the one that goes into the split entry: the smaller one, or either of two alike. -/
def State.takenLeaves (s : State) (t : BitVec 32) : Bool :=
  decide ((lanesOf t).length ≤ (lanesOf (s.active &&& ~~~t)).length)

/-- The fragment of the side that goes into the split entry. -/
def State.away (s : State) (t : BitVec 32) (target : Word64) : Frag :=
  { mask := if s.takenLeaves t then t else s.active &&& ~~~t, pc := if s.takenLeaves t then target else s.f.pc + 12,
    arrived := s.f.pc, stamp := s.f.stamp, nextIssue := s.f.nextIssue, token := s.f.token, stopped := s.f.stopped }

/-- The fragment of the side that stays where it is. -/
def State.home (s : State) (t : BitVec 32) (target : Word64) : Frag :=
  { s.f with mask := if s.takenLeaves t then s.active &&& ~~~t else t,
             target := some (if s.takenLeaves t then s.f.pc + 12 else target), brvWait := false }

section
variable (s : State) (t : BitVec 32) (target : Word64) (e : Nat)

/-- The state in which the split entry `e` is taken. -/
def State.entryTaken : State :=
  let x := s.quad s.focus.core (s.focus.slot / 32)
  s.setQuad s.focus.core (s.focus.slot / 32) { x with splits := Tab.set x.splits e 0 }

@[simp] theorem State.w_entryTaken : (s.entryTaken e).w = s.w := State.warp_setQuad s ..

theorem State.split_eq : s.split t target e = (s.entryTaken e).setW
    { s.w with frags := Tab.set (Tab.set s.w.frags s.focus.frag (s.home t target)) e (s.away t target) } := by
  have hstep : s.split t target e = ((s.entryTaken e).setF (s.home t target)).setFrag s.focus.core s.focus.slot e
      (s.away t target) := by
    by_cases h : (lanesOf t).length ≤ (lanesOf (s.f.mask &&& ~~~t)).length <;>
    · simp only [State.split, State.home, State.away, State.takenLeaves, State.active, h]
      rfl
  rw [hstep, State.setFrag]
  change ((s.entryTaken e).setF (s.home t target)).setW
    { ((s.entryTaken e).setF (s.home t target)).w with
      frags := Tab.set ((s.entryTaken e).setF (s.home t target)).w.frags e (s.away t target) } = _
  rw [State.w_setF, State.setF_eq, State.setW_setW, State.w_entryTaken]
  rfl

theorem State.w_split : (s.split t target e).w =
    { s.w with frags := Tab.set (Tab.set s.w.frags s.focus.frag (s.home t target)) e (s.away t target) } := by
  rw [State.split_eq, State.w_setW]

theorem State.frag_split_entry : (s.split t target e).frag s.focus.core s.focus.slot e = s.away t target :=
  (congrArg (fun w : Warp => Tab.get w.frags {} e) (s.w_split t target e)).trans (Tab.get_set_self _ _ _ _)

theorem State.f_split {e : Nat} (he : e ≠ s.focus.frag) : (s.split t target e).f = s.home t target := by
  have hf : (s.split t target e).f = Tab.get (s.split t target e).w.frags {} s.focus.frag := rfl
  rw [hf, State.w_split, Tab.get_set_other _ _ _ _ _ (Ne.symm he), Tab.get_set_self]

theorem State.quad_split : (s.split t target e).quad s.focus.core (s.focus.slot / 32) =
    { s.quad s.focus.core (s.focus.slot / 32) with
      splits := Tab.set (s.quad s.focus.core (s.focus.slot / 32)).splits e 0 } := by
  rw [State.split_eq]
  exact (State.quad_setWarp ..).trans (State.quad_setQuad ..)

end

/-- Settles O17: the lanes that pass the test are those that the model takes, and its checks pass. -/
theorem vectorBranchResults : Obligations.VectorBranchResults := by
  unfold Obligations.VectorBranchResults
  intro o s t tag target next x k test rest hactive htag hcc htest
  have ht : s.brvTaken o = t := BitVec.eq_of_getLsbD_eq fun i hi => (s.getLsbD_brvTaken o hi hcc).trans (htest i hi).symm
  have hcheck : s.brvCheck o = .ok () := brvCheck_ok hactive htag
  subst ht
  refine ⟨fun hnone => ?none, fun hsome hone => ?one, fun e hsome hrest htarget he hentry => ?split⟩
  case none =>
    have hwhole : s.brvSplits o = false := Bool.eq_false_iff.mpr fun h => (State.brvSplits_iff.mp h).1 hnone
    rw [exec_brv_stays hcheck hwhole, if_pos hnone]
  case one =>
    have hwhole : s.brvSplits o = false := Bool.eq_false_iff.mpr fun h =>
      hone.elim (State.brvSplits_iff.mp h).2.1 (State.brvSplits_iff.mp h).2.2
    rw [exec_brv_stays hcheck hwhole, if_neg hsome]
    rfl
  case split =>
    have hsplits : s.brvSplits o = true := State.brvSplits_iff.mpr ⟨hsome, hrest, htarget⟩
    refine ⟨_, exec_brv_splits hcheck hsplits hentry, rfl, ?_⟩
    simp only [State.frag_ended, State.f_ended, State.quad_ended, State.w_ended, State.frag_split_entry,
      State.f_split _ _ _ he, State.quad_split, State.w_split, Tab.get_set_self]
    exact ⟨rfl, rfl, rfl, rfl, rfl, rfl, trivial, trivial, rfl⟩

/-! ### Tables and warps under the end of lanes (R131, R133) -/

theorem Tab.mem_keys_set {α : Type} {t : Tab α} {k j : Nat} {v : α} :
    j ∈ (Tab.set t k v).keys ↔ j = k ∨ j ∈ t.keys := by
  induction t with
  | nil => simp [Tab.set, Tab.keys]
  | cons e t ih =>
    rw [Tab.set]
    split
    · simp [Tab.keys]
    · split
      · rename_i hk
        simp [Tab.keys, hk]
      · simp only [Tab.keys, List.map_cons, List.mem_cons] at ih ⊢
        rw [ih, or_left_comm]

theorem Tab.keys_del_subset {α : Type} (t : Tab α) (k : Nat) : (Tab.del t k).keys ⊆ t.keys :=
  List.map_subset _ fun _ he => (List.mem_filter.mp he).1

theorem Tab.keys_dels_subset {α β : Type} (l : List (Nat × β)) (t : Tab α) :
    (l.foldl (fun t e => Tab.del t e.1) t).keys ⊆ t.keys := by
  induction l generalizing t with
  | nil => exact List.Subset.refl _
  | cons e l ih => exact List.Subset.trans (ih _) (Tab.keys_del_subset t e.1)

theorem Tab.keys_set_subset {α : Type} {t : Tab α} {k : Nat} (hk : k ∈ t.keys) (v : α) :
    (Tab.set t k v).keys ⊆ t.keys :=
  fun _ hj => (Tab.mem_keys_set.mp hj).elim (fun h => h ▸ hk) id

theorem Warp.Kept.refl (w : Warp) : w.Kept w := ⟨rfl, rfl, rfl, List.Subset.refl _⟩

theorem Warp.Kept.trans {u v w : Warp} (h : u.Kept v) (h' : v.Kept w) : u.Kept w :=
  ⟨h'.exited.trans h.exited, h'.xst.trans h.xst, h'.sregs.trans h.sregs, List.Subset.trans h'.frags h.frags⟩

theorem Warp.kept_of_frags {w : Warp} {frags : Tab Frag} (h : frags.keys ⊆ w.frags.keys) (tokens : Tab Token) :
    w.Kept { w with frags := frags, tokens := tokens } :=
  ⟨rfl, rfl, rfl, h⟩

/-- The handler levels that end change no register, no status and no set of fragments. -/
theorem endLevels_eq (exited : BitVec 32) (w : Warp) (hs : List Hidden) : ∃ tokens frags progress hidden,
    endLevels exited w hs = { w with tokens := tokens, frags := frags, progress := progress, hidden := hidden } ∧
      frags.keys = w.frags.keys := by
  induction hs generalizing w with
  | nil => exact ⟨_, _, _, _, rfl, rfl⟩
  | cons h hs ih =>
    rw [endLevels]
    split
    · obtain ⟨tokens, frags, progress, hidden, heq, hkeys⟩ := ih _
      refine ⟨tokens, frags, progress, hidden, heq, hkeys.trans ?_⟩
      simp [Tab.keys, Function.comp_def]
    · exact ⟨_, _, _, _, rfl, rfl⟩

namespace State.Kept
variable {c k : Nat} {s t u : State}

theorem refl (s : State) : s.Kept c k s := ⟨rfl, rfl, Warp.Kept.refl _⟩

theorem trans (h : s.Kept c k t) (h' : t.Kept c k u) : s.Kept c k u :=
  ⟨h'.focus.trans h.focus, h'.mem.trans h.mem, h.warp.trans h'.warp⟩

theorem foldl {α : Type} {f : State → α → State} (h : ∀ s x, State.Kept c k s (f s x)) (l : List α) (s : State) :
    State.Kept c k s (l.foldl f s) := by
  induction l generalizing s with
  | nil => exact refl s
  | cons x l ih => exact (h s x).trans (ih _)

theorem of_setWarp {w : Warp} (hrest : State.Kept c k (s.setWarp c k w) t) (hw : (s.warp c k).Kept w) :
    State.Kept c k s t := by
  have hset : State.Kept c k s (s.setWarp c k w) := ⟨rfl, rfl, by rwa [State.warp_setWarp]⟩
  exact hset.trans hrest

end State.Kept

/-! ### What the parts of the end of lanes keep -/

section
variable {c k : Nat} (s : State)

theorem State.kept_freeSplit (q key : Nat) : State.Kept c k s (s.freeSplit c q key) := by
  unfold State.freeSplit
  split
  · exact State.Kept.refl s
  · exact ⟨rfl, rfl, by rw [State.warp_setQuad]; exact Warp.Kept.refl _⟩

theorem State.kept_mergeAt (tok : Nat) (release : Bool) : State.Kept c k s (s.mergeAt c k tok release) := by
  unfold State.mergeAt
  dsimp only
  split
  · exact State.Kept.refl s
  · split
    · exact State.Kept.refl s
    · rename_i key f others hparked
      split
      · exact State.Kept.refl s
      · refine State.Kept.of_setWarp (State.Kept.foldl ?_ others _) (Warp.kept_of_frags ?_ _)
        · exact fun s e => s.kept_freeSplit _ e.1
        · have hkey : key ∈ (s.warp c k).frags.keys :=
            List.mem_map_of_mem (List.mem_filter.mp (hparked ▸ List.mem_cons_self)).1
          exact List.Subset.trans (Tab.keys_dels_subset _ _) (Tab.keys_set_subset hkey _)

theorem State.kept_mergeAll : State.Kept c k s (s.mergeAll c k) :=
  State.Kept.of_setWarp (State.Kept.foldl (fun s (e : Nat × Token) => s.kept_mergeAt e.1 false) _ _)
    (Warp.kept_of_frags (List.Subset.refl _) _)

end

/-! ### The lanes of a fragment exit -/

theorem State.slot_not_mem_endWarp (s : State) (c k : Nat) (fault : Bool) :
    k ∉ ((s.endWarp c k fault).core c).warps.keys := by
  unfold State.endWarp
  rw [State.core_setCore]
  exact Tab.not_mem_keys_del _ _

/-- The warp without a fragment whose lanes have exited. -/
def State.withoutFrag (s : State) (c k key st : Nat) : Warp :=
  { s.warp c k with exited := (s.warp c k).exited ||| (s.frag c k key).mask, xst := max (s.warp c k).xst st
                    frags := Tab.del (s.warp c k).frags key }

/-- That warp without the handler levels that end with those lanes. -/
def State.exitWarp (s : State) (c k key st : Nat) : Warp :=
  endLevels (s.withoutFrag c k key st).exited (s.withoutFrag c k key st) (s.warp c k).hidden

/-- The state once the lanes have exited and their split entry is free. -/
def State.exiting (s : State) (c k key st : Nat) : State :=
  let t := s.setWarp c k (s.exitWarp c k key st)
  (if (s.exitWarp c k key st).hidden.length < (s.warp c k).hidden.length then t.dropReqs c k false else t).freeSplit
    c (k / 32) key

section
variable (s : State) (c k key st : Nat)

theorem State.exitLanes_eq : s.exitLanes c k key st =
    if (s.exitWarp c k key st).frags.isEmpty then (s.exiting c k key st).endWarp c k false
    else (s.exiting c k key st).mergeAll c k := rfl

theorem State.kept_exitWarp : (s.withoutFrag c k key st).Kept (s.exitWarp c k key st) := by
  obtain ⟨tokens, frags, progress, hidden, heq, hkeys⟩ := endLevels_eq (s.withoutFrag c k key st).exited
    (s.withoutFrag c k key st) (s.warp c k).hidden
  rw [State.exitWarp, heq]
  exact ⟨rfl, rfl, rfl, fun _ hj => hkeys ▸ hj⟩

theorem State.frags_exitWarp_isEmpty :
    (s.exitWarp c k key st).frags.isEmpty = true ↔ Tab.del (s.warp c k).frags key = [] := by
  obtain ⟨tokens, frags, progress, hidden, heq, hkeys⟩ := endLevels_eq (s.withoutFrag c k key st).exited
    (s.withoutFrag c k key st) (s.warp c k).hidden
  rw [State.exitWarp, heq, List.isEmpty_iff, ← List.map_eq_nil_iff (f := Prod.fst),
    ← List.map_eq_nil_iff (f := Prod.fst)]
  exact iff_of_eq (congrArg (fun ks : List Nat => ks = []) hkeys)

theorem State.kept_exiting : State.Kept c k (s.setWarp c k (s.exitWarp c k key st)) (s.exiting c k key st) := by
  refine State.Kept.trans ?_ (State.kept_freeSplit _ _ _)
  split
  · exact ⟨rfl, rfl, Warp.Kept.refl _⟩
  · exact State.Kept.refl _

variable {s c k key st}

theorem State.exitLanes_last (hlast : Tab.del (s.warp c k).frags key = []) :
    s.exitLanes c k key st = (s.exiting c k key st).endWarp c k false := by
  rw [State.exitLanes_eq, if_pos ((s.frags_exitWarp_isEmpty c k key st).mpr hlast)]

/-- While the warp has another fragment, it goes on without the one that has exited. -/
theorem State.kept_exitLanes (hothers : Tab.del (s.warp c k).frags key ≠ []) :
    State.Kept c k (s.setWarp c k (s.withoutFrag c k key st)) (s.exitLanes c k key st) := by
  rw [State.exitLanes_eq, if_neg (mt (s.frags_exitWarp_isEmpty c k key st).mp hothers)]
  have hend := (s.kept_exiting c k key st).trans (State.kept_mergeAll _)
  rw [← State.setWarp_setWarp s c k (s.withoutFrag c k key st)] at hend
  refine State.Kept.of_setWarp hend ?_
  rw [State.warp_setWarp]
  exact s.kept_exitWarp c k key st

end

theorem exec_exit (o : OpL) (s : State) :
    exec (.exit o) s = .next (s.exitLanes s.focus.core s.focus.slot s.focus.frag o.immN).ended := rfl

/-- Settles O19: the warp goes on as `State.Kept` says, or its slot is freed. -/
theorem exitResults : Obligations.ExitResults := by
  unfold Obligations.ExitResults
  intro o s
  refine ⟨_, exec_exit o s, rfl, fun hothers => ?others, fun hlast => ?last⟩
  case others =>
    have hkept := State.kept_exitLanes (st := o.immN) hothers
    have hw : (s.exitLanes s.focus.core s.focus.slot s.focus.frag o.immN).w =
        (s.exitLanes s.focus.core s.focus.slot s.focus.frag o.immN).warp s.focus.core s.focus.slot := by
      rw [State.w, hkept.focus]
      rfl
    have hwarp := hkept.warp
    rw [State.warp_setWarp, ← hw] at hwarp
    rw [State.w_ended, State.mem_ended]
    exact ⟨hwarp.exited, hwarp.xst, fun hmem => Tab.not_mem_keys_del _ _ (hwarp.frags hmem), hwarp.sregs, hkept.mem⟩
  case last =>
    rw [State.exitLanes_last hlast, State.core_ended]
    exact State.slot_not_mem_endWarp _ _ _ _

end Sys2Proof.Machine

namespace Sys2Proof.Machine

/-! ## Scalar words (O1 to O5; R108 to R118, R127 to R129) -/

/-- A word that writes a value to a scalar register writes every term equal to it. -/
theorem writesS_of_eq {i : Instr} {s : State} {lat : Nat} {d : BitVec 6} {v v' : Word64} (h : v = v')
    (hexec : exec i s = .next (s.writesS lat d v)) : exec i s = .next (s.writesS lat d v') := h ▸ hexec

/-! ### Sums, products and shifts (R110) -/

theorem wordW_toInt (x : BitVec 32) : wordW x.toInt = x.signExtend 64 := by
  rw [wordW, BitVec.ofInt_toInt]

theorem scalarMul_eq (m : Bool) (x y : Word64) : scalarMul m x y =
    if m then (x.setWidth 32 * y.setWidth 32 : BitVec 32).signExtend 64 else x * y := by
  unfold scalarMul wordW low32
  rw [BitVec.ofInt_mul, BitVec.ofInt_toInt, BitVec.ofInt_toInt]

/-- A shift by the width or more, which the model gives as 0, is one of a bit vector. -/
theorem shifted_eq (m : Bool) {n : Nat} {x32 : BitVec 32} {x64 : Word64} (h32 : 32 ≤ n → x32 = 0)
    (h64 : 64 ≤ n → x64 = 0) :
    (if m then wordW (if 32 ≤ n then 0 else x32.toInt) else if 64 ≤ n then 0 else x64) =
      if m then x32.signExtend 64 else x64 := by
  cases m
  · exact ite_eq_right_iff.mpr fun hn => (h64 hn).symm
  · have hlow : (if 32 ≤ n then 0 else x32.toInt) = x32.toInt := ite_eq_right_iff.mpr fun hn => by rw [h32 hn]; rfl
    rw [if_pos rfl, if_pos rfl, hlow, wordW_toInt]

theorem scalarShl_eq (m : Bool) (x : Word64) (n : Nat) :
    scalarShl m x n = if m then (x.setWidth 32 <<< n : BitVec 32).signExtend 64 else x <<< n :=
  shifted_eq m BitVec.shiftLeft_eq_zero BitVec.shiftLeft_eq_zero

theorem scalarShr_eq (m : Bool) (x : Word64) (n : Nat) :
    scalarShr m x n = if m then (x.setWidth 32 >>> n : BitVec 32).signExtend 64 else x >>> n :=
  shifted_eq m BitVec.ushiftRight_eq_zero BitVec.ushiftRight_eq_zero

/-- An arithmetic shift by the width or more leaves the sign bits that one by all but one bit leaves. -/
theorem sshiftRight_min {w : Nat} (x : BitVec w) (n : Nat) : x.sshiftRight (min n (w - 1)) = x.sshiftRight n := by
  by_cases hn : n ≤ w - 1
  · rw [Nat.min_eq_left hn]
  · rw [Nat.min_eq_right (by omega)]
    apply BitVec.eq_of_getLsbD_eq
    intro i hi
    rw [BitVec.getLsbD_sshiftRight, BitVec.getLsbD_sshiftRight, if_neg (show ¬n + i < w by omega)]
    split
    · rw [show w - 1 + i = w - 1 by omega, BitVec.msb_eq_getLsbD_last]
    · rfl

theorem scalarSra_eq (m : Bool) (x : Word64) (n : Nat) :
    scalarSra m x n = if m then ((x.setWidth 32).sshiftRight n).signExtend 64 else x.sshiftRight n := by
  unfold scalarSra
  rw [wordW_toInt, sshiftRight_min (w := 32), sshiftRight_min (w := 64)]

/-- Settles O1: each word writes what its function computes, and that is the value of the rule. -/
theorem scalarArithmeticResults : Obligations.ScalarArithmeticResults := by
  unfold Obligations.ScalarArithmeticResults
  intro o s x y lo clamp sum
  have hsum (f : Int → Int → Int) :
      scalarSum o.m o.sat f x y = sum (f x.toInt y.toInt) (f (lo x).toInt (lo y).toInt) := by
    unfold scalarSum sum clamp
    cases o.m <;> simp only [Bool.false_eq_true, if_true, if_false] <;> rfl
  refine ⟨writesS_of_eq (hsum (· + ·)) rfl, writesS_of_eq (hsum (· - ·)) rfl, writesS_of_eq (scalarMul_eq _ _ _) rfl,
    writesS_of_eq (v := scalarMulHigh o.m x y) ?high rfl, writesS_of_eq (scalarShl_eq _ _ _) rfl,
    writesS_of_eq (scalarShr_eq _ _ _) rfl, writesS_of_eq (scalarSra_eq _ _ _) rfl⟩
  case high =>
    unfold scalarMulHigh
    cases o.m
    · rfl
    · exact BitVec.ofInt_natCast 64 (x.toNat * y.toNat / 2 ^ 64)

/-! ### Division (R111) -/

theorem ofInt_tdiv {w : Nat} (x y : BitVec w) : BitVec.ofInt w (x.toInt.tdiv y.toInt) = x.sdiv y :=
  BitVec.eq_of_toInt_eq (by rw [BitVec.toInt_ofInt, BitVec.toInt_sdiv])

theorem ofInt_tmod {w : Nat} (x y : BitVec w) : BitVec.ofInt w (x.toInt.tmod y.toInt) = x.srem y := by
  rw [← BitVec.toInt_srem, BitVec.ofInt_toInt]

theorem scalarDiv_eq (m : Bool) (x y : Word64) : scalarDiv m x y =
    if y = 0 then BitVec.allOnes 64 else if m then x / y else x.sdiv y := by
  unfold scalarDiv w64
  rw [BitVec.udiv_def, ofInt_tdiv]

theorem scalarRem_eq (m : Bool) (x y : Word64) : scalarRem m x y =
    if y = 0 then x else if m then x % y else x.srem y := by
  unfold scalarRem w64
  rw [BitVec.umod_def, ofInt_tmod]

theorem sdiv_mul_add_srem {w : Nat} (x y : BitVec w) : x.sdiv y * y + x.srem y = x := by
  have hmul : x.sdiv y * y = BitVec.ofInt w (x.toInt.tdiv y.toInt * y.toInt) := by
    rw [BitVec.ofInt_mul, ofInt_tdiv, BitVec.ofInt_toInt]
  rw [hmul, ← ofInt_tmod, ← BitVec.ofInt_add, Int.tdiv_mul_add_tmod, BitVec.ofInt_toInt]

/-- Settles O2: quotient and remainder are those of the bit vectors, whose identity is that of the integers modulo 2^64. -/
theorem scalarDivisionResults : Obligations.ScalarDivisionResults := by
  unfold Obligations.ScalarDivisionResults
  intro o s x y
  refine ⟨writesS_of_eq (scalarDiv_eq _ _ _) rfl, writesS_of_eq (scalarRem_eq _ _ _) rfl,
    fun _ _ => (sdiv_mul_add_srem x y).symm, fun _ hx hy => ?overflow, rfl, rfl⟩
  case overflow =>
    rw [hx, hy]
    decide

/-! ### Comparison and selection (R112) -/

theorem reading_lt (m : Bool) (x y : Word64) : reading m x < reading m y ↔ (if m then x.ult y else x.slt y) = true := by
  cases m
  · exact decide_eq_true_iff.symm
  · exact Int.ofNat_lt.trans decide_eq_true_iff.symm

theorem reading_inj {m : Bool} {x y : Word64} : reading m x = reading m y ↔ x = y := by
  cases m
  · exact BitVec.toInt_inj
  · exact Int.ofNat_inj.trans BitVec.toNat_inj

theorem scalarMin_eq (m : Bool) (x y : Word64) :
    scalarMin m x y = if (if m then x.ult y else x.slt y) then x else y := by
  unfold scalarMin
  simp only [← reading_lt]
  split
  · rw [if_neg (by omega)]
  · split
    · rfl
    · exact (reading_inj (m := m)).mp (by omega)

theorem scalarMax_eq (m : Bool) (x y : Word64) :
    scalarMax m x y = if (if m then x.ult y else x.slt y) then y else x := by
  unfold scalarMax
  simp only [reading_lt]

theorem scalarCmp_eq (m : Bool) (x y : Word64) : scalarCmp m x y =
    if (if m then x.ult y else x.slt y) then BitVec.allOnes 64 else if x = y then 0 else 1 := by
  unfold scalarCmp compare3
  simp only [← reading_lt, reading_inj]
  split
  · rfl
  · split <;> rfl

theorem exec_ssel (o : OpR) (s : State) : exec (.ssel o) s = .next (s.writesS 2 o.d
    (if (if o.m then (s.S o.d).msb else s.S o.d != 0) then s.S o.a else s.S o.b)) := by
  rw [BitVec.msb_eq_getLsbD_last]
  rfl

/-! ### Counts and reversal of bits (R113) -/

theorem bitOf_eq_testBit (x i : Nat) : bitOf x i = x.testBit i := by
  rw [Nat.testBit_eq_decide_div_mod_eq]
  rfl

theorem popCount_eq (n : Nat) (x : Word64) : popCount n x.toNat = (List.range n).countP (fun i => x.getLsbD i) := by
  simp only [popCount, bitOf_eq_testBit, List.countP_eq_length_filter]
  rfl

theorem leadZeros_le (n x : Nat) : leadZeros n x ≤ n := by
  unfold leadZeros
  split <;> omega

/-- `leadZeros` counts the clear bits from the top down to the highest set one. -/
theorem leadZeros_spec (n x : Nat) : (∀ j, j < leadZeros n x → x.testBit (n - 1 - j) = false) ∧
    (leadZeros n x < n → x.testBit (n - 1 - leadZeros n x) = true) := by
  have hbit (i : Nat) (hi : i < n) : x.testBit i = (x % 2 ^ n).testBit i := by simp [Nat.testBit_mod_two_pow, hi]
  unfold leadZeros
  split
  case isTrue hzero =>
    refine ⟨fun j hj => ?_, fun h => absurd h (Nat.lt_irrefl n)⟩
    rw [hbit _ (by omega), hzero, Nat.zero_testBit]
  case isFalse hpos =>
    have hlog : (x % 2 ^ n).log2 < n := (Nat.log2_lt hpos).mpr (Nat.mod_lt _ (Nat.two_pow_pos n))
    refine ⟨fun j hj => ?_, fun _ => ?_⟩
    · rw [hbit _ (by omega)]
      refine Nat.testBit_lt_two_pow (Nat.lt_of_lt_of_le Nat.lt_log2_self (Nat.pow_le_pow_right (by decide) ?_))
      omega
    · rw [show n - 1 - (n - 1 - (x % 2 ^ n).log2) = (x % 2 ^ n).log2 by omega, hbit _ hlog]
      exact Nat.testBit_log2 hpos

theorem foldl_add_double {α : Type} (f : α → Nat) (l : List α) (a : Nat) :
    (l.map (fun i => 2 * f i)).foldl (· + ·) (2 * a) = 2 * (l.map f).foldl (· + ·) a := by
  induction l generalizing a with
  | nil => rfl
  | cons i l ih =>
    rw [List.map_cons, List.map_cons, List.foldl_cons, List.foldl_cons, ← Nat.mul_add]
    exact ih _

theorem reverseBits_succ (n x : Nat) : reverseBits (n + 1) x = 2 * reverseBits n x + (bitOf x n).toNat := by
  have hdouble : (List.range n).map (fun i => if bitOf x i then 2 ^ (n + 1 - 1 - i) else 0) =
      (List.range n).map (fun i => 2 * if bitOf x i then 2 ^ (n - 1 - i) else 0) := by
    refine List.map_congr_left fun i hi => ?_
    have hlt := List.mem_range.mp hi
    rw [show n + 1 - 1 - i = n - 1 - i + 1 by omega, Nat.pow_succ']
    split <;> rfl
  have hlast : (if bitOf x n then 2 ^ (n + 1 - 1 - n) else 0) = (bitOf x n).toNat := by
    rw [show n + 1 - 1 - n = 0 by omega]
    cases bitOf x n <;> rfl
  unfold reverseBits
  rw [List.range_succ, List.map_append, List.foldl_append, hdouble, List.map_singleton, List.foldl_cons, List.foldl_nil,
    hlast]
  exact congrArg (· + _) (foldl_add_double _ _ 0)

theorem testBit_reverseBits (n x i : Nat) : (reverseBits n x).testBit i = (decide (i < n) && x.testBit (n - 1 - i)) := by
  induction n generalizing i with
  | zero => rw [decide_eq_false (Nat.not_lt_zero i), Bool.false_and]; exact Nat.zero_testBit i
  | succ n ih =>
    have hbit := Bool.toNat_lt (bitOf x n)
    rw [reverseBits_succ]
    cases i with
    | zero =>
      rw [Nat.testBit_zero, Nat.mul_add_mod, Nat.mod_eq_of_lt hbit, bitOf_eq_testBit, decide_eq_true (Nat.succ_pos n),
        Bool.true_and]
      change decide ((x.testBit n).toNat = 1) = x.testBit n
      cases x.testBit n <;> rfl
    | succ i =>
      rw [Nat.testBit_succ, show (2 * reverseBits n x + (bitOf x n).toNat) / 2 = reverseBits n x by omega, ih,
        show n + 1 - 1 - (i + 1) = n - 1 - i by omega]
      exact congrArg (· && _) (decide_eq_decide.mpr Nat.succ_lt_succ_iff.symm)

/-- Settles O3: comparisons go by the order of `reading`, and the counts and the reversal bit by bit. -/
theorem scalarComparisonBitResults : Obligations.ScalarComparisonBitResults := by
  unfold Obligations.ScalarComparisonBitResults
  refine ⟨fun o s => ?compare, fun o s => ?bits⟩
  case compare =>
    have huses : s.uses (.ssel o) = ⟨[rs o.a, rs o.b, rs o.d], [rs o.d]⟩ := rfl
    rw [huses]
    exact ⟨writesS_of_eq (scalarCmp_eq _ _ _) rfl, writesS_of_eq (scalarMin_eq _ _ _) rfl,
      writesS_of_eq (scalarMax_eq _ _ _) rfl, exec_ssel o s, by simp [rs], by simp [rs]⟩
  case bits =>
    obtain ⟨hclear, hset⟩ := leadZeros_spec (if o.m then 32 else 64) (s.S o.a).toNat
    refine ⟨rfl, rfl, rfl, rfl, writesS_of_eq (congrArg _ (popCount_eq _ _)) rfl,
      ⟨_, rfl, leadZeros_le _ _, hclear, hset⟩, ⟨_, rfl, fun i hi => ?_⟩⟩
    rw [BitVec.getLsbD_ofNat, decide_eq_true hi, Bool.true_and, testBit_reverseBits]
    rfl

/-! ### Immediates and addresses (R114 to R118) -/

/-- The 32-bit form of a scaled offset reads the low half as signed. -/
theorem wordW_toInt_wide (y : Word64) : wordW y.toInt = (y.setWidth 32).signExtend 64 :=
  congrArg (BitVec.signExtend 64) (BitVec.signExtend_eq_setWidth_of_le y (by decide))

theorem scaledSum_eq (m : Bool) (x y : Word64) (xm : BitVec 8) :
    x + (if m then wordW y.toInt else y) * BitVec.ofNat 64 (2 ^ (xm.toNat % 8)) =
      x + ((if m then (y.setWidth 32).signExtend 64 else y) <<< (xm.extractLsb' 0 3).toNat) := by
  have hscale : (xm.extractLsb' 0 3).toNat = xm.toNat % 8 := by simp [BitVec.extractLsb'_toNat]
  rw [wordW_toInt_wide, hscale, BitVec.shiftLeft_eq_mul_twoPow]
  congr 2
  apply BitVec.eq_of_toNat_eq
  simp

/-- The bits of a field of a positive width, read as two's complement. -/
theorem signedOf_toNat {w : Nat} (hw : 0 < w) (x : BitVec w) : signedOf w x.toNat = x.toInt := by
  have hhalf : 2 ^ w = 2 * 2 ^ (w - 1) := by rw [← Nat.pow_succ', Nat.succ_eq_add_one, Nat.sub_add_cancel hw]
  unfold signedOf
  rw [BitVec.toInt_eq_toNat_cond]
  split
  · rw [if_neg (by omega)]
    exact congrArg (fun k : Int => (x.toNat : Int) - k) (Int.natCast_pow 2 w).symm
  · rw [if_pos (by omega)]

theorem w64_signedOf {w : Nat} (hw : 0 < w) (x : BitVec w) : w64 (signedOf w x.toNat) = x.signExtend 64 := by
  rw [signedOf_toNat hw]
  rfl

theorem toNat_append_eq {m n : Nat} (x : BitVec m) (y : BitVec n) : (x ++ y).toNat = x.toNat * 2 ^ n + y.toNat := by
  rw [BitVec.toNat_append, ← Nat.shiftLeft_add_eq_or_of_lt y.isLt, Nat.shiftLeft_eq]

section
variable {l : OpL} {p q : BitVec 24}

theorem OpL.immI_of_none (h : l.ext = []) : l.immI = signedOf 13 l.imm.toNat := by
  simp [OpL.immI, combineInt, combineWidth, combineImm, h]

theorem OpL.immI_of_one (h : l.ext = [p]) : l.immI = signedOf (24 + 13) (p ++ l.imm).toNat := by
  have happend : (p ++ l.imm).toNat = p.toNat * 2 ^ 13 + l.imm.toNat := toNat_append_eq p l.imm
  simp [OpL.immI, combineInt, combineWidth, combineImm, h, happend]

theorem OpL.immI_of_two (h : l.ext = [p, q]) : l.immI = signedOf (24 + 24 + 13) (p ++ q ++ l.imm).toNat := by
  have happend : (p ++ q ++ l.imm).toNat = (p.toNat * 2 ^ 24 + q.toNat) * 2 ^ 13 + l.imm.toNat := by
    rw [toNat_append_eq, toNat_append_eq]
  simp [OpL.immI, combineInt, combineWidth, combineImm, h, happend]

theorem exec_sli {w : Nat} {x : BitVec w} (hw : 0 < w) (h : l.immI = signedOf w x.toNat) (s : State) :
    exec (.sli l) s = .next (s.writesS 2 l.d (x.signExtend 64)) :=
  writesS_of_eq (v := w64 l.immI) (by rw [h, w64_signedOf hw]) rfl

end

/-- Settles O4: an immediate form computes what the register form without modifiers does. -/
theorem scalarImmediateAddressResults : Obligations.ScalarImmediateAddressResults := by
  unfold Obligations.ScalarImmediateAddressResults
  refine ⟨fun o s => ⟨rfl, rfl, rfl, rfl, rfl, ?shl, ?shr, ?sra, ?cmp, ?min, ?max⟩, fun o i l z s p q =>
    ⟨?address, rfl, fun h => ?none, fun h => ?one, fun h => ?two, rfl⟩⟩
  case shl => exact writesS_of_eq (scalarShl_eq false _ _) rfl
  case shr => exact writesS_of_eq (scalarShr_eq false _ _) rfl
  case sra => exact writesS_of_eq (scalarSra_eq false _ _) rfl
  case cmp => exact writesS_of_eq (scalarCmp_eq false _ _) rfl
  case min => exact writesS_of_eq (scalarMin_eq false _ _) rfl
  case max => exact writesS_of_eq (scalarMax_eq false _ _) rfl
  case address => exact writesS_of_eq (scaledSum_eq _ _ _ _) rfl
  case none => exact exec_sli (by decide) (OpL.immI_of_none h) s
  case one => exact exec_sli (by decide) (OpL.immI_of_one h) s
  case two => exact exec_sli (by decide) (OpL.immI_of_two h) s

/-! ### Special registers (R127 to R129) -/

section
variable {o : OpL} {s : State}

theorem exec_mfs_lanes (h : o.immN = 0) : exec (.mfs o) s =
    .next (s.writes 2 ((lanesOf s.active).map (fun i => .v o.d.toNat i ⟨BitVec.ofNat 32 i, .n32⟩))) := by
  change execMfs o s = _
  rw [execMfs, if_pos h]
  rfl

theorem exec_mfs_reads {n : Nat} {v : Word64} (h : o.immN = n) (hn : n ≠ 0 ∧ n ≠ 0x00B) (hv : s.readSpr n = v) :
    exec (.mfs o) s = .next (s.writesS 2 o.d v) := by
  subst h hv
  change execMfs o s = _
  rw [execMfs, if_neg hn.1, if_neg hn.2]
  rfl

theorem exec_mfs_clock (h : o.immN = 0x00B) :
    exec (.mfs o) s = .next (s.writesS 0 o.d (BitVec.ofNat 64 (s.clock s.die))) := by
  change execMfs o s = _
  rw [execMfs, h]
  rfl

theorem State.readSpr_frame : s.readSpr 0x00D =
    if s.t.desc.frame = 0 then 0 else BitVec.ofNat 64 (s.t.desc.frame + 4096 * s.g.linear) :=
  apply_ite (BitVec.ofNat 64) (s.t.desc.frame = 0) 0 (s.t.desc.frame + 4096 * s.g.linear)

end

/-- Settles O5: LANEID and CLOCK apart, every register is read in one way. -/
theorem specialRegisterResults : Obligations.SpecialRegisterResults := by
  unfold Obligations.SpecialRegisterResults
  refine ⟨fun o s => ⟨exec_mfs_lanes, ?_, ?_, ?_, ?_, ?_, ?_, ?_, ?_, ?_, ?_, exec_mfs_clock, ?_,
    fun h => exec_mfs_reads h (by decide) State.readSpr_frame, ?_, ?_, ?_, ?_, fun _ => rfl⟩, fun w x => ⟨rfl, rfl⟩⟩
  all_goals exact fun h => exec_mfs_reads h (by decide) rfl

end Sys2Proof.Machine

namespace Sys2Proof.Machine

/-! ## CheckTag (O52; R144, R145) -/

/-- The first active lane of which a test holds. -/
theorem find?_lanes_some {m : BitVec 32} {p : Nat → Bool} {i : Nat} (hi : m.getLsbD i = true) (hp : p i = true)
    (hlow : ∀ j, j < i → m.getLsbD j = true → p j = false) : (lanesOf m).find? p = some i := by
  rw [lanesOf, List.find?_filter, List.find?_range_eq_some]
  refine ⟨by simp [hi, hp], (List.mem_filter.mp (mem_lanesOf.mpr hi)).1, fun j hj => ?_⟩
  cases hm : m.getLsbD j with
  | false => rfl
  | true => simp [hlow j hj hm]

/-- TRAPDATA of an operand that is a register of a word (R145), where VALUE is 0. -/
theorem opndData_named (r : BitVec 6) (found lane opnd : Nat) : opndData r.toNat found lane opnd 0 =
    BitVec.ofNat 64 (r.toNat + found * 2 ^ 6 + lane * 2 ^ 10 + opnd * 2 ^ 15) := by
  rw [opndData, Nat.mod_eq_of_lt r.isLt]
  simp

/-- A check that fails ends a sequence of checks. -/
theorem Chk.bind_error {α β : Type} {c : Chk α} {e : BitVec 10 × Word64} (h : c = .error e) (f : α → Chk β) :
    (c >>= f) = .error e := by
  rw [h]; rfl

section
variable {s : State} {r i : Nat} {t : Tag} (opnd : Nat) {ok : Tag → Bool} {agree : Bool}

theorem checkOne_empty (hi : s.active.getLsbD i = true) (he : (s.V r i).tag = .empty)
    (hlow : ∀ j, j < i → s.active.getLsbD j = true → (s.V r j).tag ≠ .empty) :
    s.checkOne r opnd ok agree = .error (0x09F, opndData r 15 i opnd 0) := by
  have hfirst : (lanesOf s.active).find? (fun i => (s.V r i).tag == .empty) = some i :=
    find?_lanes_some hi (by simp [he]) (fun j hj hm => by simpa using hlow j hj hm)
  simp only [State.checkOne, hfirst]

theorem checkOne_differs (hfull : ∀ j, s.active.getLsbD j = true → (s.V r j).tag ≠ .empty)
    (hi : s.active.getLsbD i = true) (hd : (s.V r i).tag ≠ (s.V r (lowLane s.active)).tag)
    (hlow : ∀ j, j < i → s.active.getLsbD j = true → (s.V r j).tag = (s.V r (lowLane s.active)).tag) :
    s.checkOne r opnd ok agree = .error (0x087, opndData r (s.V r i).tag.code i opnd 0) := by
  have hnone : (lanesOf s.active).find? (fun i => (s.V r i).tag == .empty) = none :=
    find?_lanes_none (fun j hj => by simpa using hfull j hj)
  have hfirst : (lanesOf s.active).find? (fun i => (s.V r i).tag != (s.V r (lowLane s.active)).tag) = some i :=
    find?_lanes_some hi (by simp [hd]) (fun j hj hm => by simp [hlow j hj hm])
  simp only [State.checkOne, hnone, hfirst]

theorem checkOne_rejects (ha : s.active ≠ 0) (h : s.Holds t r) (hok : ok t = false) : s.checkOne r opnd ok agree =
    .error (if agree then 0x087 else BitVec.ofNat 10 (0x090 + t.code),
      opndData r t.code (lowLane s.active) opnd 0) := by
  have hcommon : (s.V r (lowLane s.active)).tag = t := h.2 _ (lowLane_active ha)
  have hnone : (lanesOf s.active).find? (fun i => (s.V r i).tag == .empty) = none :=
    find?_lanes_none (fun j hj => by simp [h.2 j hj, h.1])
  have hsame : (lanesOf s.active).find? (fun i => (s.V r i).tag != t) = none :=
    find?_lanes_none (fun j hj => by simp [h.2 j hj])
  simp only [State.checkOne, hcommon, hnone, hsame, hok, Bool.false_eq_true, if_false]

theorem checkPair_odd {p : Tag} (hp : t.partner = some p) (hodd : r % 2 = 1) :
    s.checkPair r opnd t = .error (0x085, opndData r t.code (lowLane s.active) opnd 0) := by
  simp only [State.checkPair, hp, hodd, if_true]

theorem checkPair_differs {p : Tag} (hp : t.partner = some p) (heven : r % 2 = 0) (hr : r + 1 < s.vregs)
    (hi : s.active.getLsbD i = true) (hd : (s.V (r + 1) i).tag ≠ p)
    (hlow : ∀ j, j < i → s.active.getLsbD j = true → (s.V (r + 1) j).tag = p) :
    s.checkPair r opnd t = .error (0x086, opndData r (s.V (r + 1) i).tag.code i opnd 0) := by
  have hfirst : (lanesOf s.active).find? (fun i => (s.V (r + 1) i).tag != p) = some i :=
    find?_lanes_some hi (by simp [hd]) (fun j hj hm => by simp [hlow j hj hm])
  simp only [State.checkPair, hp, heven, Nat.zero_ne_one, Nat.not_le.mpr hr, if_false, hfirst]

end

/-- Without the uniform bit the lanes need not agree. -/
theorem State.uniform_false (s : State) (rs : List Nat) : s.Uniform false rs := fun h => nomatch h

/-- The checks of an element-wise word end with those of its first source. -/
theorem checkSources_first {s : State} {first d : Nat} {others : List (Nat × Nat)} {ok : Tag → Bool}
    {e : BitVec 10 × Word64} (h : s.checkTag first 0 ok = .error e) :
    s.checkSources false first others d ok = .error e := by
  rw [State.checkSources, Chk.bind_ok (checkUniform_ok (s.uniform_false _)), Chk.bind_error h]

/-- The checks of an element-wise word end with those of its second source, which must hold the tag of the first. -/
theorem checkSources_second {s : State} {first b d : Nat} {ok : Tag → Bool} {t : Tag} {e : BitVec 10 × Word64}
    (hfirst : s.checkTag first 0 ok = .ok t) (h : s.checkSame b 1 t = .error e) :
    s.checkSources false first [(b, 1)] d ok = .error e := by
  rw [State.checkSources, Chk.bind_ok (checkUniform_ok (s.uniform_false _)), Chk.bind_ok hfirst]
  exact Chk.bind_error (Chk.bind_error (Chk.bind_error h _) _) _

/-- VMUL, VDIV, VMIN and VMAX make the same checks, and trap with what these find. -/
theorem floatPair_traps {o : OpR} {s : State} {x : Instr} (hx : x ∈ [Instr.vmul o, .vdiv o, .vmin o, .vmax o])
    {c : BitVec 10} {data : Word64}
    (h : s.checkSources o.u o.a.toNat [(o.b.toNat, 1)] o.d.toNat isFloat4 = .error (c, data)) :
    Traps (exec x s) s c data := by
  have htraps (lat : Tag → Nat) (f : Fmt → Nat → Nat → Nat) :
      Traps (s.elementwise2 o isFloat4 lat f).out s c data := by
    rw [State.elementwise2, Chk.run_error h]
    rfl
  simp only [List.mem_cons, List.not_mem_nil, or_false] at hx
  rcases hx with rfl | rfl | rfl | rfl <;> exact htraps _ _

theorem isFloat4_iff {t : Tag} : isFloat4 t = true ↔ t = .f32 ∨ t = .f64l ∨ t = .bf16x2 ∨ t = .h16x2 := by
  simp [isFloat4, or_assoc]

/-- Settles O52: the tests fail in the order in which CheckTag makes them, those of the first source before those of the
second. -/
theorem tagMismatchTraps : Obligations.TagMismatchTraps := by
  unfold Obligations.TagMismatchTraps
  intro o s i t a b low on lowest traps good hu ha
  have sources {c : BitVec 10} {reg : BitVec 6} {lane opnd : Nat} {found : Tag}
      (h : s.checkSources false a [(b, 1)] o.d.toNat isFloat4 = .error (c, opndData reg.toNat found.code lane opnd 0)) :
      traps c reg.toNat lane opnd found := by
    intro x hx
    rw [← opndData_named]
    exact floatPair_traps hx (by rw [hu]; exact h)
  have first {c : BitVec 10} {lane : Nat} {found : Tag}
      (h : s.checkOne a 0 isFloat4 false = .error (c, opndData a found.code lane 0 0)) : traps c a lane 0 found :=
    sources (checkSources_first (Chk.bind_error h _))
  have pair {c : BitVec 10} {lane : Nat} {found : Tag} (hheld : s.Holds .f64l a)
      (h : s.checkPair a 0 .f64l = .error (c, opndData a found.code lane 0 0)) : traps c a lane 0 found :=
    sources (checkSources_first ((Chk.bind_ok (checkOne_ok ha hheld 0 rfl false) _).trans h))
  refine ⟨fun ⟨hi, he, hlow⟩ => first (checkOne_empty 0 hi he hlow),
    fun hfull ht => ⟨fun ⟨hi, hd, hlow⟩ => ?agreement, fun hall => ⟨fun hbad => ?membership, fun hgood htagged => ?second⟩⟩,
    fun hheld => ⟨fun hodd => pair hheld (checkPair_odd 0 rfl hodd), fun heven hr ⟨hi, hd, hlow⟩ => ?partner⟩⟩
  case agreement =>
    subst ht
    exact first (checkOne_differs 0 hfull hi hd fun j hj hm => Decidable.not_not.mp (hlow j hj hm))
  case membership =>
    have hne : t ≠ .empty := ht ▸ hfull low (lowLane_active ha)
    exact first (checkOne_rejects 0 ha ⟨hne, hall⟩ (by simpa using mt isFloat4_iff.mp hbad))
  case partner =>
    exact pair hheld (checkPair_differs 0 rfl heven hr hi hd fun j hj hm => Decidable.not_not.mp (hlow j hj hm))
  case second =>
    have second {c : BitVec 10} {lane : Nat} {found : Tag}
        (h : s.checkOne b 1 (· == t) true = .error (c, opndData b found.code lane 1 0)) : traps c b lane 1 found :=
      sources (checkSources_second (checkTag_ok ha htagged 0 (isFloat4_iff.mpr hgood)) (Chk.bind_error h _))
    refine ⟨fun ⟨hi, he, hlow⟩ => second (checkOne_empty 1 hi he hlow), fun hbfull hbt ⟨hi, hd, hlow⟩ => ?_,
      fun hbsame hbt => ?_⟩
    · subst hbt
      exact second (checkOne_differs 1 hbfull hi hd fun j hj hm => Decidable.not_not.mp (hlow j hj hm))
    · have hbheld : s.Holds (s.V b low).tag b :=
        ⟨(hbsame low (lowLane_active ha)).1, fun j hj => (hbsame j hj).2⟩
      exact second (checkOne_rejects 1 ha hbheld (by simpa using hbt))

end Sys2Proof.Machine

namespace Sys2Proof.Machine

/-! ## Lane movement and lane combining (O15; R149, R181 to R185) -/

/-! ### The bytes of a permutation (R182) -/

theorem elems_eq (w n v : Nat) : elems w n v = (List.range n).map (fun j => v / 2 ^ (w * j) % 2 ^ w) := by
  induction n generalizing v with
  | zero => rfl
  | succ n ih =>
    rw [elems, ih, List.range_succ_eq_map, List.map_cons, List.map_map]
    simp [Function.comp_def, Nat.div_div_eq_div_mul, ← Nat.pow_add, Nat.mul_succ, Nat.add_comm]

theorem pack_elem (w j : Nat) (es : List Nat) : pack w es / 2 ^ (w * j) % 2 ^ w = es.getD j 0 % 2 ^ w := by
  induction es generalizing j with
  | nil => simp [pack]
  | cons e es ih =>
    have hcons : pack w (e :: es) = e % 2 ^ w + 2 ^ w * pack w es := rfl
    have hlow : e % 2 ^ w < 2 ^ w := Nat.mod_lt _ (Nat.two_pow_pos w)
    rw [hcons]
    cases j with
    | zero => simp [Nat.add_mul_mod_self_left]
    | succ j =>
      rw [Nat.mul_succ, Nat.add_comm (w * j), Nat.pow_add, ← Nat.div_div_eq_div_mul,
        Nat.add_mul_div_left _ _ (Nat.two_pow_pos w), Nat.div_eq_of_lt hlow, Nat.zero_add, ih, List.getD_cons_succ]

/-- A byte of a word of four packed bytes. -/
theorem extract_byte (x : Word32) (j : Nat) : (x.extractLsb' (8 * j) 8).toNat = x.toNat / 2 ^ (8 * j) % 256 := by
  rw [BitVec.extractLsb'_toNat, Nat.shiftRight_eq_div_pow]

theorem permByte_eq (x : Word32) (sel : Nat) :
    permByte x.toNat sel = (if 128 ≤ sel then 0 else x.extractLsb' (8 * (sel % 4)) 8 : BitVec 8).toNat := by
  rw [permByte]
  split
  · rfl
  · rw [extract_byte]

/-- The word whose bytes the selectors `sel` take from `x`. -/
def permWord (x sel : Word32) : Word32 := BitVec.ofNat 32 (pack 8 ((elems 8 4 sel.toNat).map (permByte x.toNat)))

theorem permWord_byte (x sel : Word32) {j : Nat} (hj : j < 4) : (permWord x sel).extractLsb' (8 * j) 8 =
    let b := (sel.extractLsb' (8 * j) 8).toNat
    if 128 ≤ b then 0 else x.extractLsb' (8 * (b % 4)) 8 := by
  apply BitVec.eq_of_toNat_eq
  have hpow : 2 ^ 32 = 2 ^ (8 * j) * 2 ^ (32 - 8 * j) := by rw [← Nat.pow_add]; congr 1; omega
  have hdvd : 256 ∣ 2 ^ (32 - 8 * j) := Nat.pow_dvd_pow 2 (show 8 ≤ 32 - 8 * j by omega)
  have hbyte : ((elems 8 4 sel.toNat).map (permByte x.toNat)).getD j 0 =
      permByte x.toNat (sel.extractLsb' (8 * j) 8).toNat := by
    rw [elems_eq, List.map_map, List.getD_eq_getElem?_getD, List.getElem?_map, List.getElem?_range hj, extract_byte]
    rfl
  rw [extract_byte, permWord, BitVec.toNat_ofNat, hpow, Nat.mod_mul_right_div_self, Nat.mod_mod_of_dvd _ hdvd]
  rw [show 256 = 2 ^ 8 from rfl, pack_elem, hbyte, permByte_eq, Nat.mod_eq_of_lt (BitVec.isLt _)]

/-! ### Folds over the active lanes (R149, R183) -/

theorem lanesOf_sorted (m : BitVec 32) : (lanesOf m).Pairwise (· < ·) := List.pairwise_lt_range.filter _

/-- The fold of lists of elements, element by element, from the first of them. -/
def foldElems (f : Nat → Nat → Nat) : List (List Nat) → List Nat
  | [] => []
  | x :: xs => xs.foldl (List.zipWith f) x

theorem filter_le_tail_of_sorted {l : Nat} {ls : List Nat} (h : (l :: ls).Pairwise (· < ·)) :
    ls.filter (fun j => decide (j ≤ l)) = [] := by
  rw [List.filter_eq_nil_iff]
  intro j hj
  simpa using List.rel_of_pairwise_cons h hj

theorem filter_le_cons_of_sorted {l i : Nat} {ls : List Nat} (h : (l :: ls).Pairwise (· < ·)) (hi : i ∈ l :: ls) :
    (l :: ls).filter (fun j => decide (j ≤ i)) = l :: ls.filter (fun j => decide (j ≤ i)) := by
  have hli : l ≤ i := by
    rcases List.mem_cons.mp hi with rfl | hi
    · exact Nat.le_refl i
    · exact Nat.le_of_lt (List.rel_of_pairwise_cons h hi)
  exact List.filter_cons_of_pos (by simpa using hli)

/-- Each running fold is the fold of the members up to its own. -/
theorem runningFolds_sorted (f : Nat → Nat → Nat) (g : Nat → List Nat) {l : Nat} {ls : List Nat} (acc : List Nat)
    (h : (l :: ls).Pairwise (· < ·)) : runningFolds f acc (ls.map g) =
      (l :: ls).map (fun i => ((ls.filter (fun j => decide (j ≤ i))).map g).foldl (List.zipWith f) acc) := by
  induction ls generalizing l acc with
  | nil => rfl
  | cons m ls ih =>
    rw [List.map_cons, List.map_cons, runningFolds, ih _ h.of_cons, filter_le_tail_of_sorted h]
    congr 1
    apply List.map_congr_left
    intro i hi
    rw [filter_le_cons_of_sorted h.of_cons hi, List.map_cons, List.foldl_cons]

theorem getLast?_runningFolds (f : Nat → Nat → Nat) (acc : List Nat) (xs : List (List Nat)) :
    (runningFolds f acc xs).getLast? = some (xs.foldl (List.zipWith f) acc) := by
  induction xs generalizing acc with
  | nil => rfl
  | cons x xs ih => rw [runningFolds, List.getLast?_cons, ih, List.foldl_cons]; rfl

/-- The fold of the elements that lanes hold under the tag `t`, by a combining word (R183). -/
def State.laneFold (s : State) (o : OpR) (t : Tag) (ls : List Nat) : List Nat :=
  foldElems (combineElem o.b.toNat t o.m (Rm.ofBits o.rm) o.sat) (ls.map (s.elemsAt o.a.toNat t))

theorem laneFolds_eq (s : State) (o : OpR) (t : Tag) : s.laneFolds o t =
    (lanesOf s.active).map (fun i => s.laneFold o t ((lanesOf s.active).filter (fun j => decide (j ≤ i)))) := by
  have hsorted := lanesOf_sorted s.active
  unfold State.laneFolds
  generalize lanesOf s.active = lanes at hsorted
  cases lanes with
  | nil => rfl
  | cons l ls =>
    refine (runningFolds_sorted _ _ _ hsorted).trans (List.map_congr_left fun i hi => ?_)
    rw [filter_le_cons_of_sorted hsorted hi]
    rfl

theorem getLastD_laneFolds (s : State) (o : OpR) (t : Tag) :
    (s.laneFolds o t).getLastD [] = s.laneFold o t (lanesOf s.active) := by
  unfold State.laneFolds State.laneFold
  cases lanesOf s.active with
  | nil => rfl
  | cons l ls => rw [List.getLastD_eq_getLast?]; exact congrArg (Option.getD · []) (getLast?_runningFolds _ _ _)

theorem zip_lanes_flatMap (s : State) (d : Nat) (t : Tag) (f : Nat → List Nat) :
    (List.zip (lanesOf s.active) ((lanesOf s.active).map f)).flatMap (fun e => laneWrites d t e.1 e.2) = s.lanes d t f := by
  rw [← List.map_prod_left_eq_zip, List.flatMap_map]
  rfl

section
variable {s : State} {o : OpR} {t : Tag} (hsources : s.Sources false t [o.a.toNat]) (hop : combinable o.b.toNat t = true)
include hsources hop

theorem out_combineLanes (hdest : s.Dest t o.d.toNat) (hn : o.m = true → t ∈ [Tag.i16x2, .i8x4]) (all : Bool) :
    (s.combineLanes o all).out = .next (s.writes 12 (s.lanes o.d.toNat t (fun i => s.laneFold o t
      (if all then lanesOf s.active else (lanesOf s.active).filter (fun j => decide (j ≤ i)))))) := by
  obtain ⟨hactive, htagged, -⟩ := hsources
  have hnatural : s.checkNatural o.a.toNat o.m t = .ok () := by
    refine if_neg fun h => ?_
    simp only [Bool.and_eq_true, bne_iff_ne] at h
    obtain ⟨⟨hm, h16⟩, h8⟩ := h
    simpa [h16, h8] using hn hm
  rw [State.combineLanes, Chk.run_ok (a := t) ?checks]
  case checks =>
    rw [Chk.bind_ok (checkTag_ok hactive (htagged _ (by simp)) 0 hop), Chk.bind_ok hnatural, Chk.bind_ok (checkDest_ok hdest)]
    rfl
  rw [out_putAll, ← zip_lanes_flatMap]
  cases all with
  | false => rw [laneFolds_eq]; rfl
  | true =>
    simp only [if_true, getLastD_laneFolds]
    rw [laneFolds_eq, List.map_map]
    rfl

theorem combineLanes_natural (hm : o.m = true) (ht : t ∉ [Tag.i16x2, .i8x4]) (all : Bool) :
    Traps (s.combineLanes o all).out s 0x08B
      (BitVec.ofNat 64 (o.a.toNat + 2 ^ 6 * t.code + 2 ^ 10 * lowLane s.active + 2 ^ 32 * t.code)) := by
  obtain ⟨hactive, htagged, -⟩ := hsources
  have hnatural : s.checkNatural o.a.toNat o.m t =
      .error (0x08B, opndData o.a.toNat t.code (lowLane s.active) 0 t.code) := by
    simp only [List.mem_cons, List.not_mem_nil, or_false, not_or] at ht
    exact if_pos (by simp [hm, ht])
  have hdata : opndData o.a.toNat t.code (lowLane s.active) 0 t.code =
      BitVec.ofNat 64 (o.a.toNat + 2 ^ 6 * t.code + 2 ^ 10 * lowLane s.active + 2 ^ 32 * t.code) := by
    have hcode : t.code % 2 ^ 32 = t.code := by cases t <;> rfl
    rw [opndData, hcode, Nat.mod_eq_of_lt o.a.isLt]
    congr 1
    omega
  rw [State.combineLanes, Chk.run_error (e := (0x08B, opndData o.a.toNat t.code (lowLane s.active) 0 t.code)) ?checks]
  case checks =>
    rw [Chk.bind_ok (checkTag_ok hactive (htagged _ (by simp)) 0 hop), Chk.bind_error hnatural]
  rw [Res.out_trap, hdata]
  rfl

end

/-! ### Lane movement (R181, R182, R184) -/

theorem isIndex_iff {t : Tag} : isIndex t = true ↔ t ∈ [Tag.x32, .i32, .n32] := by
  simp [isIndex, or_assoc]

theorem exec_vshflR {s : State} {o : OpR} {t : Tag} (hactive : s.active ≠ 0) (hindex : s.Holds t o.b.toNat)
    (ht : t ∈ [Tag.x32, .i32, .n32]) : exec (.vshflR o) s = .next (s.writes 6
      ((if o.m then [0, 1] else [0]).flatMap (fun n => (lanesOf s.active).map (fun i =>
        .v (o.d.toNat + n) i (s.V (o.a.toNat + n) ((s.V o.b.toNat i).val.toNat % 32)))))) := by
  change execVshflR o s = _
  rw [execVshflR, Chk.run_ok (checkOne_ok hactive hindex 1 (isIndex_iff.mpr ht) false)]
  rfl

theorem exec_vshflI {s : State} {k : OpI} {mode : Nat} {f : Nat → Nat}
    (hf : ∀ i, shuffleLane mode (k.imm.toNat % 32) i = f i) (hmode : k.imm.toNat / 32 = mode) : exec (.vshflI k) s =
    .next (s.writes 6 ((lanesOf s.active).map (fun i => .v k.d.toNat i (s.V k.a.toNat (f i))))) := by
  rw [← funext hf, ← hmode]
  rfl

/-- The source lane of VSHFL moves down by `c` where there is such a lane (R181). -/
theorem shuffleLane_down (c i : Nat) : shuffleLane 1 c i = if c ≤ i then i - c else i := by
  simp only [shuffleLane, ← Nat.not_le, ite_not]

/-- The source lane of VSHFL moves up by `c` where there is such a lane (R181). -/
theorem shuffleLane_up (c i : Nat) : shuffleLane 2 c i = if i + c < 32 then i + c else i := by
  simp only [shuffleLane, show 31 < i + c ↔ ¬ i + c < 32 by omega, ite_not]

theorem exec_vperm {s : State} {o : OpR} {t t' : Tag} (hactive : s.active ≠ 0) (hsource : s.Holds t' o.a.toNat)
    (hsel : s.Holds t o.b.toNat) (ht : t ∈ [Tag.x32, .i32, .n32]) (huniform : s.Uniform o.u [o.a.toNat, o.b.toNat]) :
    exec (.vperm o) s = .next (s.writes 6 ((lanesOf s.active).map (fun i => .v o.d.toNat i
      ⟨permWord (s.V o.a.toNat (s.src o.u i)).val (s.V o.b.toNat (s.src o.u i)).val, .x32⟩))) := by
  change execVperm o s = _
  rw [execVperm, Chk.run_ok (a := ()) ?checks]
  case checks =>
    rw [Chk.bind_ok (checkUniform_ok huniform), Chk.bind_ok (checkOne_ok hactive hsource 0 rfl false),
      Chk.bind_ok (checkOne_ok hactive hsel 1 (isIndex_iff.mpr ht) false)]
    rfl
  rfl

/-- Settles O15: each move reads the lane that its rule names, and the running folds of a combining word are the folds over the
active lanes up to each of them. -/
theorem vectorLaneResults : Obligations.VectorLaneResults := by
  unfold Obligations.VectorLaneResults
  intro o k s t a b c moves hactive
  refine ⟨exec_vshflR hactive, exec_vshflI fun _ => rfl, exec_vshflI (shuffleLane_down c), exec_vshflI (shuffleLane_up c),
    exec_vshflI fun _ => rfl, fun t' hsource hsel ht huniform =>
      ⟨_, exec_vperm hactive hsource hsel ht huniform, fun i j hj => permWord_byte _ _ hj⟩,
    fun hsources hdest hop hn => ?combined, fun hsources hop hm ht =>
      ⟨combineLanes_natural hsources hop hm ht false, combineLanes_natural hsources hop hm ht true⟩⟩
  case combined =>
    intro step fold
    have hfold (ls : List Nat) : s.laneFold o t ls = fold ls := by
      cases ls <;> rfl
    constructor
    · exact (out_combineLanes hsources hop hdest hn false).trans (by simp only [hfold]; rfl)
    · exact (out_combineLanes hsources hop hdest hn true).trans (by simp only [hfold]; rfl)

end Sys2Proof.Machine

namespace Sys2Proof.Machine

/-! ## Mask words (O6; R176) -/

theorem popCount_eq_countP (n x : Nat) : popCount n x = (List.range n).countP (fun i => x.testBit i) := by
  simp only [popCount, bitOf_eq_testBit, List.countP_eq_length_filter]

section
variable (o : OpR) (s : State)

theorem exec_kand : exec (.kand o) s = .next (s.writes 2 [.k o.d.toNat (BitVec.allOnes 32)
    (if o.m then s.K o.a.toNat &&& ~~~s.K o.b.toNat else s.K o.a.toNat &&& s.K o.b.toNat)]) := by
  rw [← apply_ite (s.K o.a.toNat &&& ·)]
  rfl

/-- With `.a` KPOPC counts the active lanes alone. -/
theorem exec_kpopc : exec (.kpopc o) s = .next (s.writesS 2 o.d (BitVec.ofNat 64
    ((List.range 32).countP (fun i => (s.K o.a.toNat).getLsbD i && (!o.m || s.active.getLsbD i))))) := by
  refine writesS_of_eq (congrArg _ ?_) rfl
  rw [popCount_eq_countP]
  congr 1
  funext i
  cases o.m <;> simp [BitVec.testBit_toNat]

end

/-- Settles O6: one equation for each word, KMOV by its direction. -/
theorem maskResults : Obligations.MaskResults := by
  unfold Obligations.MaskResults
  intro o l s ka kb sets
  refine ⟨rfl, exec_kand o s, rfl, rfl, rfl, exec_kpopc o s, fun hb => ?_, fun hb => ?_, fun hb => ?_, rfl⟩
  all_goals
    change execKmovR o s = _
    rw [execKmovR, hb]
    rfl

end Sys2Proof.Machine

namespace Sys2Proof.Machine

/-! ## Floating-point words (O7 to O9; R159 to R162) -/

theorem latFloat_eq (t : Tag) : latFloat t = if t = .f64l then 8 else 6 := by
  simp only [latFloat, beq_iff_eq]

theorem latTrans_eq (t : Tag) : latTrans t = if t = .f64l then 0 else 12 := by
  simp only [latTrans, beq_iff_eq]

theorem latDivide_eq (t : Tag) : latDivide t = if t = .f64l then 0 else 16 := by
  simp only [latDivide, beq_iff_eq]

theorem isFloat4_of_mem {t : Tag} (h : t ∈ [Tag.f32, .f64l, .bf16x2, .h16x2]) : isFloat4 t = true := by
  revert t
  decide

theorem isFloat5_of_mem {t : Tag} (h : t ∈ [Tag.f32, .f64l, .bf16x2, .h16x2, .cpx32]) : isFloat5 t = true := by
  revert t
  decide

theorem isSigned6_of_mem {t : Tag} (h : t ∈ [Tag.f32, .f64l, .bf16x2, .h16x2, .e4m3x4, .cpx32]) : isSigned6 t = true := by
  revert t
  decide

/-- A product of two sources that is combined with a third one, element by element. -/
theorem zipWith_zipWith_zip {α β γ δ ε : Type} (h : δ → γ → ε) (g : α → β → δ) (xs : List α) (ys : List β)
    (zs : List γ) : List.zipWith h (List.zipWith g xs ys) zs =
      List.zipWith (fun xy z => h (g xy.1 xy.2) z) (List.zip xs ys) zs := by
  rw [← List.map_uncurry_zip_eq_zipWith (f := g), List.zipWith_map_left]
  rfl

theorem OpR.third_fst (o : OpR) : (OpR.third o).1 = if o.cv then o.creg.toNat else o.d.toNat :=
  apply_ite Prod.fst (o.cv = true) (o.creg.toNat, 2) (o.d.toNat, 3)

section
variable {s : State} {o : OpR} {t : Tag} {ok : Tag → Bool} {lat : Tag → Nat} {n : Nat} (hlat : lat t = n)
  (hdest : s.Dest t o.d.toNat) (hok : ok t = true)
include hlat hdest hok

theorem out_elementwise2 (hsources : s.Sources o.u t [o.a.toNat, o.b.toNat]) (f : Fmt → Nat → Nat → Nat) :
    (s.elementwise2 o ok lat f).out = .next (s.writes n (s.lanes o.d.toNat t (fun i => List.zipWith (f t.format)
      (s.elemsAt o.a.toNat t (s.src o.u i)) (s.elemsAt o.b.toNat t (s.src o.u i))))) := by
  rw [State.elementwise2, Chk.run_ok (checkSources_ok hsources hdest hok), out_putElems, hlat]

theorem out_elementwise1 (hsources : s.Sources o.u t [o.a.toNat]) (f : Fmt → Nat → Nat) :
    (s.elementwise1 o ok lat f).out = .next (s.writes n (s.lanes o.d.toNat t (fun i =>
      (s.elemsAt o.a.toNat t (s.src o.u i)).map (f t.format)))) := by
  rw [State.elementwise1, Chk.run_ok (checkSources_ok hsources hdest hok), out_putElems, hlat]

end

/-- VFMA adds to each exact product the element of its third source, and rounds once (R160). -/
theorem exec_vfma {s : State} {o : OpR} {t : Tag} (hdest : s.Dest t o.d.toNat) (ht : isFloat4 t = true)
    (hsources : s.Sources o.u t [o.a.toNat, o.b.toNat, (OpR.third o).1]) :
    exec (.vfma o) s = .next (s.writes (latFloat t) (s.lanes o.d.toNat t (fun i =>
      List.zipWith (fun xy z =>
          let p := (t.format.val xy.1).mul (t.format.val xy.2)
          OpR.round o t.format (OpR.sum o [if o.m then p.neg else p, t.format.val z]))
        (List.zip (s.elemsAt o.a.toNat t (s.src o.u i)) (s.elemsAt o.b.toNat t (s.src o.u i)))
        (s.elemsAt (OpR.third o).1 t (s.src o.u i))))) := by
  change execVfma o s = _
  have hcheck := checkSources_ok (others := [(o.b.toNat, 1), OpR.third o]) hsources hdest ht
  simp only [execVfma, Chk.run_ok hcheck, out_putElems, zipWith_zipWith_zip]

/-- Settles O7: the checks pass, and each element is that of the exact sum or product rounded once. -/
theorem vectorSumResults : Obligations.VectorSumResults := by
  unfold Obligations.VectorSumResults
  intro o s t a b c f at_ round gives hdest hsources
  refine ⟨fun ht => ⟨?add, ?sub⟩, fun ht => ⟨?mul, fun hthree => ?fma⟩⟩
  case add => exact out_elementwise2 (latFloat_eq t) hdest (isFloat5_of_mem ht) hsources _
  case sub => exact out_elementwise2 (latFloat_eq t) hdest (isFloat5_of_mem ht) hsources _
  case mul => exact out_elementwise2 (latFloat_eq t) hdest (isFloat4_of_mem ht) hsources _
  case fma =>
    have hc : (OpR.third o).1 = c := OpR.third_fst o
    rw [exec_vfma hdest (isFloat4_of_mem ht) (by rwa [hc]), hc, latFloat_eq]
    rfl

/-! ### Minimum and maximum (R159) -/

section
variable {f : Fmt} {x y : Nat}

theorem minMax_nan_nan (hx : (f.val x).isNan = true) (hy : (f.val y).isNan = true) (max : Bool) :
    f.minMax max x y = f.nan := by
  simp [Fmt.minMax, hx, hy]

theorem minMax_nan_left (hx : (f.val x).isNan = true) (hy : (f.val y).isNan = false) (max : Bool) :
    f.minMax max x y = y := by
  simp [Fmt.minMax, hx, hy]

theorem minMax_nan_right (hx : (f.val x).isNan = false) (hy : (f.val y).isNan = true) (max : Bool) :
    f.minMax max x y = x := by
  simp [Fmt.minMax, hx, hy]

variable (hx : (f.val x).isNan = false) (hy : (f.val y).isNan = false)
include hx hy

/-- The first operand is the smaller one by value, or as −0 beside +0. -/
theorem minMax_first_less (h : FVal.cmp (f.val x) (f.val y) < 0 ∨
      FVal.cmp (f.val x) (f.val y) = 0 ∧ (f.val x).isNeg = true ∧ (f.val y).isNeg = false) :
    f.minMax false x y = x ∧ f.minMax true x y = y := by
  rcases h with hlt | ⟨heq, hneg, hpos⟩
  · simp [Fmt.minMax, hx, hy, hlt]
  · simp [Fmt.minMax, hx, hy, heq, hneg, hpos]

/-- The second operand is the smaller one by value, or as −0 beside +0. -/
theorem minMax_second_less (h : 0 < FVal.cmp (f.val x) (f.val y) ∨
      FVal.cmp (f.val x) (f.val y) = 0 ∧ (f.val x).isNeg = false ∧ (f.val y).isNeg = true) :
    f.minMax false x y = y ∧ f.minMax true x y = x := by
  rcases h with hlt | ⟨heq, hpos, hneg⟩
  · simp [Fmt.minMax, hx, hy, Int.not_lt.mpr (Int.le_of_lt hlt), Int.ne_of_gt hlt]
  · simp [Fmt.minMax, hx, hy, heq, hneg, hpos]

end

/-- Settles O8: the element-wise words pass their checks, and `Fmt.minMax` is taken apart by its cases. -/
theorem vectorSignResults : Obligations.VectorSignResults := by
  unfold Obligations.VectorSignResults
  refine ⟨fun o s t => ?words, fun f x y => ?minMax⟩
  case words =>
    intro a b f at_ gives hdest
    refine ⟨fun ht hsources => ⟨?min, ?max⟩, fun ht hsources => ⟨?neg, ?abs⟩⟩
    case min => exact out_elementwise2 (latFloat_eq t) hdest (isFloat4_of_mem ht) hsources _
    case max => exact out_elementwise2 (latFloat_eq t) hdest (isFloat4_of_mem ht) hsources _
    case neg => exact out_elementwise1 (latFloat_eq t) hdest (isSigned6_of_mem ht) hsources _
    case abs => exact out_elementwise1 (latFloat_eq t) hdest (isSigned6_of_mem ht) hsources _
  case minMax =>
    intro a b
    exact ⟨fun hx hy => ⟨minMax_nan_nan hx hy false, minMax_nan_nan hx hy true⟩,
      fun hx hy => ⟨minMax_nan_left hx hy false, minMax_nan_left hx hy true⟩,
      fun hx hy => ⟨minMax_nan_right hx hy false, minMax_nan_right hx hy true⟩,
      fun hx hy => ⟨fun h => minMax_first_less hx hy (.inl h), fun h => minMax_second_less hx hy (.inl h),
        fun heq hneg hpos => minMax_first_less hx hy (.inr ⟨heq, hneg, hpos⟩),
        fun heq hpos hneg => minMax_second_less hx hy (.inr ⟨heq, hpos, hneg⟩)⟩⟩

/-- Settles O9: the checks pass, and the latency is that of a division, or of a transcendental function. -/
theorem vectorFunctionResults : Obligations.VectorFunctionResults := by
  unfold Obligations.VectorFunctionResults
  intro o s t a b f rm at_ gives one ht hdest
  have hok := isFloat4_of_mem ht
  refine ⟨fun hsources => ?div, fun hsources => ⟨?sqrt, ?rcp, ?rsq, ?exp2, ?log2⟩⟩
  case div => exact out_elementwise2 (latDivide_eq t) hdest hok hsources _
  case sqrt => exact out_elementwise1 (latDivide_eq t) hdest hok hsources _
  case rcp => exact out_elementwise1 (latTrans_eq t) hdest hok hsources _
  case rsq => exact out_elementwise1 (latTrans_eq t) hdest hok hsources _
  case exp2 => exact out_elementwise1 (latTrans_eq t) hdest hok hsources _
  case log2 => exact out_elementwise1 (latTrans_eq t) hdest hok hsources _

end Sys2Proof.Machine

namespace Sys2Proof.Machine

/-! ## Words that write complex pairs (O10; R163 to R166) -/

section
variable {s : State} {u : Bool}

/-- The check of one source that must hold a given tag. -/
theorem checkSource_ok {r : Nat} {t : Tag} {ok : Tag → Bool} (hsources : s.Sources u t [r]) (hok : ok t = true) :
    (do s.checkUniform u [r]; let _ ← s.checkTag r 0 ok : Chk Unit) = .ok () := by
  obtain ⟨hactive, htagged, huniform⟩ := hsources
  rw [Chk.bind_ok (checkUniform_ok huniform.left)]
  exact Chk.bind_ok (checkTag_ok hactive (htagged r (List.mem_singleton_self r)) 0 hok) _

theorem checkComplex_ok {rs : List (Nat × Nat)} (hsources : s.Sources u .cpx32 (rs.map Prod.fst)) :
    s.checkComplex u rs = .ok () := by
  obtain ⟨hactive, htagged, huniform⟩ := hsources
  have hpairs : s.Uniform u (rs.flatMap (fun e => [e.1, e.1 + 1])) := by
    intro hu hc r hr
    obtain ⟨e, he, hr⟩ := List.mem_flatMap.mp hr
    have hfst := List.mem_map_of_mem (f := Prod.fst) he
    simp only [List.mem_cons, List.not_mem_nil, or_false] at hr
    rcases hr with rfl | rfl
    · exact huniform.left hu hc e.1 hfst
    · exact huniform.right hu hc (e.1 + 1) (List.mem_map_of_mem hfst)
  rw [State.checkComplex, Chk.bind_ok (checkUniform_ok hpairs)]
  exact Chk.forM_ok fun e he => Chk.bind_ok (checkTag_ok hactive (htagged _ (List.mem_map_of_mem he)) e.2 rfl) _

end

/-- Two components are those of one complex pair. -/
theorem out_putPair (s : State) (lat d : Nat) (x y : Nat → Nat) :
    (Res.done (s.putComponents lat d (fun i => [x i, y i]))).out =
      .next (s.writes lat (s.lanes d .cpx32 (fun i => [x i, y i]))) := rfl

/-- Four components are those of two complex pairs. -/
theorem out_putPairs (s : State) (lat d : Nat) (x y z w : Nat → Nat) :
    (Res.done (s.putComponents lat d (fun i => [x i, y i, z i, w i]))).out =
      .next (s.writes lat ((lanesOf s.active).flatMap (fun i =>
        laneWrites d .cpx32 i [x i, y i] ++ laneWrites (d + 2) .cpx32 i [z i, w i]))) := by
  rw [State.putComponents, out_putAll]
  simp [laneWrites, Nat.add_assoc]

/-- Settles O10: the checks pass, and the components are written by pairs. -/
theorem vectorComplexResults : Obligations.VectorComplexResults := by
  unfold Obligations.VectorComplexResults
  intro o s a b d c rm re im conj round hactive
  refine ⟨fun hsources => ?scpi, fun hsources => ?cmul, fun hsources => ?cfma, fun hsources => ?bfly,
    fun t ht hsources => ?twid⟩
  case scpi =>
    change execVscpi o s = _
    rw [execVscpi, Chk.run_ok (checkSource_ok hsources rfl), out_putPair]
    rfl
  case cmul =>
    change execVcmul o s = _
    rw [execVcmul, Chk.run_ok (checkComplex_ok hsources), out_putPair]
    rfl
  case cfma =>
    have hc : (OpR.third o).1 = c := OpR.third_fst o
    change execVcfma o s = _
    simp only [execVcfma]
    rw [Chk.run_ok (checkComplex_ok (by simpa [hc] using hsources)), hc, out_putPair]
    rfl
  case bfly =>
    intro wr wi
    have hlist : ([(o.a.toNat, 0), (o.b.toNat, 1)] ++ if o.cv then [(o.creg.toNat, 2)] else []).map Prod.fst =
        [a, b] ++ if o.cv then [o.creg.toNat] else [] := by
      cases o.cv <;> rfl
    change execVbfly o s = _
    simp only [execVbfly]
    rw [Chk.run_ok (checkComplex_ok (by rwa [hlist])), out_putPairs]
    simp only [wr, wi]
    cases o.cv <;> rfl
  case twid =>
    have hok : (t == .i32 || t == .n32) = true := by simpa using ht
    change execVtwid o s = _
    rw [execVtwid, Chk.run_ok (checkSource_ok hsources hok), out_putPair]
    rfl

end Sys2Proof.Machine

namespace Sys2Proof.Machine

/-! ## Integer words (O12; R169, R170) -/

theorem isInt_of_mem {t : Tag} (h : t ∈ [Tag.i32, .n32, .i16x2, .i8x4]) : isInt t = true := by
  revert t
  decide

theorem packed_of_mem {t : Tag} (h : t ∈ [Tag.i32, .n32, .i16x2, .i8x4]) (hp : t.packed = true) :
    t = .i16x2 ∨ t = .i8x4 := by
  revert t
  decide

/-- A tag that makes no pair asks nothing of its destination. -/
theorem State.Dest.of_unpaired {s : State} {t : Tag} (h : t.partner = none) (d : Nat) : s.Dest t d := by
  intro hpair
  rw [h] at hpair
  cases hpair

theorem unpaired_of_mem {t : Tag} (h : t ∈ [Tag.x32, .i32, .n32, .i16x2, .i8x4]) : t.partner = none := by
  revert t
  decide

theorem checkNatural_ok {s : State} {r : Nat} {n : Bool} {t : Tag} (h : n = true → t = .i16x2 ∨ t = .i8x4) :
    s.checkNatural r n t = .ok () := by
  refine if_neg fun hn => ?_
  simp only [Bool.and_eq_true, bne_iff_ne] at hn
  obtain ⟨⟨hn, h16⟩, h8⟩ := hn
  exact (h hn).elim h16 h8

section
variable {s : State} {o : OpR} {t : Tag} (ht : t ∈ [Tag.i32, .n32, .i16x2, .i8x4])
  (hnatural : o.m = true → t = .i16x2 ∨ t = .i8x4)
include ht hnatural

/-- The checks of an integer word pass. -/
theorem checkInt_ok {others : List (Nat × Nat)}
    (hsources : s.Sources o.u t (o.a.toNat :: others.map (fun e => e.1))) :
    (do let t ← s.checkSources o.u o.a.toNat others o.d.toNat isInt
        s.checkNatural o.a.toNat o.m t
        return t : Chk Tag) = .ok t := by
  have hdest : s.Dest t o.d.toNat := .of_unpaired (unpaired_of_mem (List.mem_cons_of_mem _ ht)) _
  rw [Chk.bind_ok (checkSources_ok hsources hdest (isInt_of_mem ht))]
  exact Chk.bind_ok (checkNatural_ok hnatural) _

theorem out_intR (hsources : s.Sources o.u t [o.a.toNat, o.b.toNat]) (lat : Nat) (sat : Bool)
    (f : Nat → Int → Int → Int) : (s.intR o lat sat f).out = .next (s.writes lat (s.lanes o.d.toNat t (fun i =>
      List.zipWith (fun x y => storeElem t o.m sat (f t.width (readElem t o.m x) (readElem t o.m y)))
        (s.elemsAt o.a.toNat t (s.src o.u i)) (s.elemsAt o.b.toNat t (s.src o.u i))))) := by
  rw [State.intR, Chk.run_ok (checkInt_ok ht hnatural (others := [(o.b.toNat, 1)]) hsources), out_putElems]

/-- VIFMA adds to each exact product the element of its third source (R169). -/
theorem exec_vifma (hsources : s.Sources o.u t [o.a.toNat, o.b.toNat, (OpR.third o).1]) :
    exec (.vifma o) s = .next (s.writes 6 (s.lanes o.d.toNat t (fun i =>
      List.zipWith (fun xy z => storeElem t o.m o.sat (readElem t o.m xy.1 * readElem t o.m xy.2 + readElem t o.m z))
        (List.zip (s.elemsAt o.a.toNat t (s.src o.u i)) (s.elemsAt o.b.toNat t (s.src o.u i)))
        (s.elemsAt (OpR.third o).1 t (s.src o.u i))))) := by
  change execVifma o s = _
  simp only [execVifma]
  rw [Chk.run_ok (checkInt_ok ht hnatural (others := [(o.b.toNat, 1), OpR.third o]) hsources), out_putElems]
  simp only [zipWith_zipWith_zip]
  rfl

end

theorem out_intI {s : State} {k : OpI} {t : Tag} (ht : t ∈ [Tag.i32, .n32, .i16x2, .i8x4])
    (hsources : s.Sources k.u t [k.a.toNat]) (lat : Nat) (f : Int → Int → Int) :
    (s.intI k lat f).out = .next (s.writes lat (s.lanes k.d.toNat t (fun i =>
      (s.elemsAt k.a.toNat t (s.src k.u i)).map (fun x => storeElem t false false
        (f (readElem t false x) (readElem t false (wrapInt t.width k.immI))))))) := by
  have hdest : s.Dest t k.d.toNat := .of_unpaired (unpaired_of_mem (List.mem_cons_of_mem _ ht)) _
  rw [State.intI, Chk.run_ok (checkSources_ok hsources hdest (isInt_of_mem ht))]
  rfl

/-- Packed elements are signed without `.n`: only N32 is natural. -/
theorem readElem_signed (t : Tag) (x : Nat) : readElem t false x = if t = .n32 then (x : Int) else signedOf t.width x := by
  cases t <;> rfl

/-- The test that says whether elements are signed, with its comparisons as propositions. -/
theorem Tag.signed_eq (t : Tag) (n : Bool) : t.signed n = (decide (t = .i32) || (decide (t ≠ .n32) && !n)) := by
  cases t <;> rfl

/-- Settles O12: the checks pass, and elements are read and stored as `Tag.signed` says. -/
theorem vectorIntegerResults : Obligations.VectorIntegerResults := by
  unfold Obligations.VectorIntegerResults
  intro o k s t a b c w ht
  refine ⟨?register, ?immediate⟩
  case register =>
    intro signed rd clamp st at_ two hpacked hsources
    have hnatural (hm : o.m = true) : t = .i16x2 ∨ t = .i8x4 := packed_of_mem ht (hpacked hm)
    have hsigned : t.signed o.m = signed := t.signed_eq o.m
    have hread : readElem t o.m = rd := by
      unfold readElem rd
      simp only [hsigned]
      rfl
    have hstore (sat : Bool) : storeElem t o.m sat = st sat := by
      unfold storeElem st satInt
      simp only [hsigned]
      rfl
    have hword (lat : Nat) (sat : Bool) (f : Nat → Int → Int → Int) :
        (s.intR o lat sat f).out = .next (two lat sat (f w)) := by
      rw [out_intR ht hnatural hsources, hstore, hread]
    refine ⟨hword _ _ _, hword _ _ _, hword _ _ _, hword _ _ _, hword _ _ _, hword _ _ _, fun hthree => ?_⟩
    have hc : (OpR.third o).1 = c := OpR.third_fst o
    rw [exec_vifma ht hnatural (by rwa [hc]), hc, hstore, hread]
  case immediate =>
    intro rd v one hsources
    have hread : readElem t false = rd := funext fun x => readElem_signed t x
    have hword (lat : Nat) (f : Int → Int → Int) : (s.intI k lat f).out = .next (one lat f) := by
      rw [out_intI ht hsources, hread]
      rfl
    exact ⟨hword _ _, hword _ _, hword _ _, hword _ _⟩

end Sys2Proof.Machine

namespace Sys2Proof.Machine

/-! ## Bit words (O13; R170 to R173, R180) -/

theorem isShiftable_of_mem {t : Tag} (h : t ∈ [Tag.x32, .i32, .n32, .i16x2, .i8x4]) : isShiftable t = true := by
  revert t
  decide

/-! ### Bitwise words and VTAG: one register, whatever its tag -/

section
variable {s : State} {u : Bool} {a : Nat} {t : Tag} (hactive : s.active ≠ 0) (ht : s.Holds t a)
include hactive ht

/-- One source gives the result its tag. -/
theorem checkBitwise_one (huniform : s.Uniform u [a]) : s.checkBitwise u a none = .ok t := by
  rw [State.checkBitwise, Option.toList_none, Chk.bind_ok (checkUniform_ok huniform),
    Chk.bind_ok (checkOne_ok hactive ht 0 rfl false)]
  rfl

/-- Of two sources the one that is not X32 gives the result its tag. -/
theorem checkBitwise_two {b : Nat} {t' : Tag} (ht' : s.Holds t' b) (hagree : t = t' ∨ t = .x32 ∨ t' = .x32)
    (huniform : s.Uniform u [a, b]) : s.checkBitwise u a (some b) = .ok (if t = .x32 then t' else t) := by
  have hsecond : (t' == t || t' == .x32 || t == .x32) = true := by
    rcases hagree with rfl | rfl | rfl <;> simp
  rw [State.checkBitwise, Option.toList_some, Chk.bind_ok (checkUniform_ok huniform),
    Chk.bind_ok (checkOne_ok hactive ht 0 rfl false)]
  dsimp only
  rw [Chk.bind_ok (checkOne_ok hactive ht' 1 hsecond true)]
  simp only [beq_iff_eq]
  rfl

end

theorem out_bitwise {s : State} {u : Bool} {a : Nat} {b : Option Nat} {t : Tag} (h : s.checkBitwise u a b = .ok t) (d : Nat)
    (f : Nat → Word32 → Word32) : (s.bitwise u d a b f).out = .next (s.writes 4
      ((lanesOf s.active).map (fun i => .v d i ⟨f (s.src u i) (s.V a (s.src u i)).val, t⟩))) := by
  rw [State.bitwise, Chk.run_ok h]
  rfl

theorem out_retag {s : State} {u : Bool} {a : Nat} (huniform : s.Uniform u [a]) (d n : Nat) :
    (s.retag u d a n).out = .next (s.writes 4
      ((lanesOf s.active).map (fun i => .v d i ⟨(s.V a (s.src u i)).val, Tag.ofCode n⟩))) := by
  rw [State.retag, Chk.run_ok (checkUniform_ok huniform)]
  rfl

/-- A scalar register may name any tag, and EMPTY as 15 (R180). -/
theorem exec_vtagR {o : OpR} {s : State} (hcode : (s.S o.b).toNat < 12 ∨ (s.S o.b).toNat = 15) :
    exec (.vtagR o) s = (s.retag o.u o.d.toNat o.a.toNat (s.S o.b).toNat).out := by
  have hnamed : (16 ≤ (s.S o.b).toNat || (12 ≤ (s.S o.b).toNat && (s.S o.b).toNat ≤ 14)) = false := by
    rw [Bool.eq_false_iff]
    simp only [ne_eq, Bool.or_eq_true, Bool.and_eq_true, decide_eq_true_eq]
    omega
  change execVtagR o s = _
  simp only [execVtagR, hnamed, Bool.false_eq_true, if_false]

/-! ### Shifts (R172) -/

theorem Tag.width_pos (t : Tag) : 0 < t.width := by
  cases t <;> decide

/-- The elements of a register that is no pair are of their width. -/
theorem lt_of_mem_elemsAt {s : State} {r i x : Nat} {t : Tag} (ht : t.partner = none) (hx : x ∈ s.elemsAt r t i) :
    x < 2 ^ t.width := by
  have helems : s.elemsAt r t i = elems t.width t.count (s.V r i).val.toNat := by
    cases t with
    | f64l | cpx32 => cases ht
    | _ => rfl
  rw [helems, elems_eq] at hx
  obtain ⟨j, -, rfl⟩ := List.mem_map.mp hx
  exact Nat.mod_lt _ (Nat.two_pow_pos _)

theorem shiftLeft_eq (w x n : Nat) : shiftLeft w x n = x * 2 ^ n % 2 ^ w := by
  refine ite_eq_right_iff.mpr fun hn => ?_
  exact (Nat.mod_eq_zero_of_dvd (Nat.dvd_mul_left_of_dvd (Nat.pow_dvd_pow 2 hn) x)).symm

theorem shiftRight_eq {w x : Nat} (hx : x < 2 ^ w) (n : Nat) : shiftRight w x n = x / 2 ^ n := by
  refine ite_eq_right_iff.mpr fun hn => ?_
  exact (Nat.div_eq_of_lt (Nat.lt_of_lt_of_le hx (Nat.pow_le_pow_right (by decide) hn))).symm

/-- The arithmetic shift of an element is that of a bit vector, which a shift by all but one bit exhausts. -/
theorem shiftArith_eq {w x : Nat} (hw : 0 < w) (hx : x < 2 ^ w) (n : Nat) :
    shiftArith w x n = (signedOf w x / 2 ^ n % 2 ^ w).toNat := by
  have hdiv (n : Nat) : signedOf w x / 2 ^ n = ((BitVec.ofNat w x).sshiftRight n).toInt := by
    rw [BitVec.toInt_sshiftRight, Int.shiftRight_eq_div_pow, ← signedOf_toNat hw, BitVec.toNat_ofNat, Nat.mod_eq_of_lt hx]
    norm_cast
  rw [shiftArith, hdiv, hdiv, sshiftRight_min, wrapInt]

/-- A packed source is shifted by amounts of its own tag, a 32-bit one by those of any index tag. -/
theorem checkShift_ok {s : State} {o : OpR} {t t' : Tag} (hactive : s.active ≠ 0) (ht : s.Holds t o.a.toNat)
    (hok : isShiftable t = true) (ht' : s.Holds t' o.b.toNat)
    (hamount : if t.packed then t' = t else t' ∈ [Tag.x32, .i32, .n32]) (huniform : s.Uniform o.u [o.a.toNat, o.b.toNat]) :
    s.checkShift o = .ok t := by
  rw [State.checkShift, Chk.bind_ok (checkUniform_ok huniform), Chk.bind_ok (checkOne_ok hactive ht 0 hok false)]
  cases hp : t.packed with
  | true =>
    simp only [hp, if_true] at hamount ⊢
    rw [Chk.bind_ok (checkOne_ok hactive ht' 1 (by simp [hamount]) true)]
    rfl
  | false =>
    simp only [hp, Bool.false_eq_true, if_false] at hamount ⊢
    rw [Chk.bind_ok (checkOne_ok hactive ht' 1 (isIndex_iff.mpr hamount) false)]
    rfl

section
variable {s : State} {t : Tag} (ht : t ∈ [Tag.x32, .i32, .n32, .i16x2, .i8x4])
include ht

/-- A register shift by a function `g` of the elements, with which the model's `f` agrees on all elements of their width. -/
theorem out_shiftR {o : OpR} (hcheck : s.checkShift o = .ok t) {f : Nat → Nat → Nat → Nat} {g : Nat → Nat → Nat}
    (hfg : ∀ x, x < 2 ^ t.width → ∀ n, f t.width x n = g x n) :
    (s.shiftR o f).out = .next (s.writes 4 (s.lanes o.d.toNat t (fun i =>
      List.zipWith g (s.elemsAt o.a.toNat t (s.src o.u i)) (s.elemsAt o.b.toNat t (s.src o.u i))))) := by
  have helems (i : Nat) (ys : List Nat) :
      List.zipWith (f t.width) (s.elemsAt o.a.toNat t i) ys = List.zipWith g (s.elemsAt o.a.toNat t i) ys := by
    rw [← List.map_uncurry_zip_eq_zipWith, ← List.map_uncurry_zip_eq_zipWith]
    exact List.map_congr_left fun e he => hfg e.1 (lt_of_mem_elemsAt (unpaired_of_mem ht) (List.of_mem_zip he).1) e.2
  rw [State.shiftR, Chk.run_ok hcheck, out_putElems]
  simp only [helems]
  rfl

/-- A shift by an immediate, likewise. -/
theorem out_shiftI {k : OpI} (hsources : s.Sources k.u t [k.a.toNat]) {f : Nat → Nat → Nat → Nat} {g : Nat → Nat}
    (hfg : ∀ x, x < 2 ^ t.width → f t.width x k.immN = g x) :
    (s.shiftI k f).out = .next (s.writes 4 (s.lanes k.d.toNat t (fun i =>
      (s.elemsAt k.a.toNat t (s.src k.u i)).map g))) := by
  have hunpaired := unpaired_of_mem ht
  have helems (i : Nat) : (s.elemsAt k.a.toNat t i).map (fun x => f t.width x k.immN) = (s.elemsAt k.a.toNat t i).map g :=
    List.map_congr_left fun x hx => hfg x (lt_of_mem_elemsAt hunpaired hx)
  rw [State.shiftI, Chk.run_ok (checkSources_ok hsources (.of_unpaired hunpaired _) (isShiftable_of_mem ht)), out_putElems]
  simp only [helems]
  rfl

theorem out_countBits {o : OpR} (hsources : s.Sources o.u t [o.a.toNat]) (f : Nat → Nat → Nat) :
    (s.countBits o f).out = .next (s.writes 4 (s.lanes o.d.toNat (if t.packed then t else .n32) (fun i =>
      (s.elemsAt o.a.toNat t (s.src o.u i)).map (f t.width)))) := by
  have hdest : s.Dest t o.d.toNat := .of_unpaired (unpaired_of_mem ht) _
  rw [State.countBits, Chk.run_ok (checkSources_ok hsources hdest (isShiftable_of_mem ht)), out_putElems]
  rfl

end

/-! ### Counts (R173) -/

/-- The bits below the leading zeros hold the value, and the highest of them is set in a value that is not zero. -/
theorem leadZeros_bounds {w x : Nat} (hx : x < 2 ^ w) : leadZeros w x ≤ w ∧ x < 2 ^ (w - leadZeros w x) ∧
    (x = 0 → leadZeros w x = w) ∧ (0 < x → 2 ^ (w - leadZeros w x) ≤ 2 * x) := by
  refine ⟨leadZeros_le w x, ?_⟩
  rw [leadZeros, Nat.mod_eq_of_lt hx]
  split
  case isTrue hzero => simp [hzero]
  case isFalse hpos =>
    have hlog : x.log2 < w := (Nat.log2_lt hpos).mpr hx
    have hself := Nat.log2_self_le hpos
    rw [show w - (w - 1 - x.log2) = x.log2 + 1 by omega]
    refine ⟨Nat.lt_log2_self, fun hzero => absurd hzero hpos, fun _ => ?_⟩
    omega

/-- Settles O13: the checks pass, and shifts and counts are those of elements of their width. -/
theorem vectorBitResults : Obligations.VectorBitResults := by
  unfold Obligations.VectorBitResults
  intro o k s t t' a b w val valI sets hactive
  refine ⟨fun ha hb hagree huniform => ?bitwise, fun ha huniform => ?bitwiseI,
    fun ht => ⟨?shifts, ?shiftsI, fun hsources => ⟨?popc, ?clz⟩⟩, fun huniform hcode => ?tag,
    fun huniform => out_retag huniform _ _⟩
  case bitwise =>
    intro r
    have hcheck := checkBitwise_two hactive ha hb hagree huniform
    exact ⟨out_bitwise hcheck _ _, out_bitwise hcheck _ _, out_bitwise hcheck _ _⟩
  case bitwiseI =>
    intro imm
    have hcheck := checkBitwise_one hactive ha huniform
    exact ⟨out_bitwise hcheck _ _, out_bitwise hcheck _ _, out_bitwise hcheck _ _⟩
  case shifts =>
    intro at_ two ha hb hamount huniform
    have hcheck := checkShift_ok hactive ha (isShiftable_of_mem ht) hb hamount huniform
    exact ⟨out_shiftR ht hcheck fun x _ n => shiftLeft_eq w x n, out_shiftR ht hcheck fun x hx => shiftRight_eq hx,
      out_shiftR ht hcheck fun x hx => shiftArith_eq t.width_pos hx⟩
  case shiftsI =>
    intro one hsources
    exact ⟨out_shiftI ht hsources fun x _ => shiftLeft_eq w x k.immN,
      out_shiftI ht hsources fun x hx => shiftRight_eq hx k.immN,
      out_shiftI ht hsources fun x hx => shiftArith_eq t.width_pos hx k.immN⟩
  case popc =>
    have hcount : popCount w = fun x => (List.range w).countP (fun i => x.testBit i) := funext (popCount_eq_countP w)
    exact (out_countBits ht hsources popCount).trans (by rw [hcount])
  case clz => exact ⟨_, out_countBits ht hsources leadZeros, fun x hx => leadZeros_bounds hx⟩
  case tag => rw [exec_vtagR hcode, out_retag huniform]

end Sys2Proof.Machine

namespace Sys2Proof.Machine

/-! ## Comparison, selection, moves and broadcasts (O14; R174, R175, R177 to R179) -/

theorem isComparable_of_mem {t : Tag} (h : t ∈ [Tag.f32, .f64l, .i32, .n32]) : isComparable t = true := by
  revert t
  decide

/-- A comparison gives a bit to every active lane, and 0 to the others. -/
theorem out_compareLanes {s : State} {u : Bool} {a : Nat} {b : Option Nat} {t : Tag} (ht : isComparable t = true)
    (hsources : s.Sources u t (a :: b.toList)) (d : BitVec 6) (y : Tag → Nat → FVal) :
    ∃ m, (s.compareLanes u d a b y).out = .next (s.writes 4 [.k (d.toNat % 8) (BitVec.allOnes 32) m]) ∧
      ∀ i, i < 32 → m.getLsbD i = (s.active.getLsbD i &&
        vcmpTest (d.toNat / 8) (exactCmp (s.valueAt a t (s.src u i)) (y t (s.src u i)))) := by
  obtain ⟨hactive, htagged, huniform⟩ := hsources
  have hsecond : (b.toList.forM (fun b => do let _ ← s.checkSame b 1 t) : Chk Unit) = .ok () :=
    Chk.forM_ok fun b hb => Chk.bind_ok (checkSame_ok hactive (htagged b (List.mem_cons_of_mem _ hb)) 1) _
  unfold State.compareLanes
  dsimp only
  rw [Chk.run_ok (a := t) ?checks]
  case checks =>
    rw [Chk.bind_ok (checkUniform_ok huniform.left), Chk.bind_ok (checkTag_ok hactive (htagged a (by simp)) 0 ht),
      Chk.bind_ok hsecond, Chk.bind_ok (checkUniform_ok huniform.right)]
    rfl
  refine ⟨_, rfl, fun i hi => ?_⟩
  rw [getLsbD_maskOf, Bool.eq_iff_iff]
  simp [mem_lanesOf, hi]

section
variable {s : State} {o : OpR}

/-- The checks of VSEL pass; with `.p` those of the pairs as well. -/
theorem exec_vsel {t : Tag} (hactive : s.active ≠ 0) (ha : s.Holds t o.a.toNat) (hb : s.Holds t o.b.toNat)
    (hpairs : o.m = true → s.Tagged t o.a.toNat ∧ s.Tagged t o.b.toNat)
    (huniform : s.Uniform o.u (pairOf o.m o.a.toNat ++ pairOf o.m o.b.toNat)) :
    exec (.vsel o) s = .next (s.copyLanes 4 o.d.toNat o.m (fun n i =>
      if (s.K (o.xm.toNat % 8)).getLsbD (s.src o.u i) then s.V (o.a.toNat + n) (s.src o.u i)
      else s.V (o.b.toNat + n) (s.src o.u i))).ended := by
  have hfirst := checkOne_ok hactive ha 0 (ok := fun _ => true) rfl false
  have hsecond := checkOne_ok hactive hb 1 (ok := (· == t)) (by simp) true
  change execVsel o s = _
  simp only [execVsel]
  rw [Chk.run_ok (a := ()) ?checks, Res.out_done]
  case checks =>
    rw [Chk.bind_ok (checkUniform_ok huniform), Chk.bind_ok hfirst]
    cases hm : o.m with
    | false =>
      simp only [Bool.false_eq_true, if_false]
      exact Chk.bind_ok hsecond _
    | true =>
      obtain ⟨hpa, hpb⟩ := hpairs hm
      simp only [if_true]
      rw [Chk.bind_ok (checkPair_ok hpa 0)]
      exact (Chk.bind_ok hsecond _).trans (Chk.bind_ok (checkPair_ok hpb 1) _)
  have hchosen (n j : Nat) : s.V ((if (s.K (o.xm.toNat % 8)).getLsbD j then o.a.toNat else o.b.toNat) + n) j =
      if (s.K (o.xm.toNat % 8)).getLsbD j then s.V (o.a.toNat + n) j else s.V (o.b.toNat + n) j :=
    apply_ite (fun r => s.V (r + n) j) _ _ _
  simp only [hchosen]
  rfl

theorem exec_vmovR (huniform : s.Uniform o.u (pairOf o.m o.a.toNat)) : exec (.vmovR o) s =
    .next (s.copyLanes 4 o.d.toNat o.m (fun n i => s.V (o.a.toNat + n) (s.src o.u i))).ended := by
  change execVmovR o s = _
  rw [execVmovR, Chk.run_ok (checkUniform_ok huniform)]
  rfl

/-- VLANE reads a lane that exists and is not EMPTY. -/
theorem exec_vlane {n : Nat} (hn : (s.S o.b).toNat = n) (hlane : n < 32) (hfull : (s.V o.a.toNat n).tag ≠ .empty) :
    exec (.vlane o) s = .next (s.writesS 6 o.d
      (if o.m then (s.V o.a.toNat n).val.signExtend 64 else (s.V o.a.toNat n).val.setWidth 64)) := by
  subst hn
  change execVlane o s = _
  simp only [execVlane]
  rw [Chk.run_ok (a := s.V o.a.toNat (s.S o.b).toNat) ?checks]
  case checks =>
    rw [if_neg (Nat.not_le.mpr hlane), if_neg (by simpa using hfull)]
    rfl
  rfl

end

/-! ### The constant of VMOV L (R177) -/

section
variable {l : OpL} {p q : BitVec 24}

theorem OpL.immN_of_one (h : l.ext = [p]) : l.immN = (p ++ l.imm).toNat := by
  have happend : (p ++ l.imm).toNat = p.toNat * 2 ^ 13 + l.imm.toNat := toNat_append_eq p l.imm
  simp [OpL.immN, combineImm, h, happend]

theorem OpL.immN_of_two (h : l.ext = [p, q]) : l.immN = (p ++ q ++ l.imm).toNat := by
  have happend : (p ++ q ++ l.imm).toNat = (p.toNat * 2 ^ 24 + q.toNat) * 2 ^ 13 + l.imm.toNat := by
    rw [toNat_append_eq, toNat_append_eq]
  simp [OpL.immN, combineImm, h, happend]

/-- Without EXT words the constant is a signed one, tagged I32. -/
theorem exec_vmovL_short (h : l.ext = []) (s : State) : exec (.vmovL l) s =
    .next (s.writes 4 ((lanesOf s.active).map (fun i => .v l.d.toNat i ⟨l.imm.signExtend 32, .i32⟩))) := by
  have himm : l.immI = l.imm.toInt := (OpL.immI_of_none h).trans (signedOf_toNat (by decide) l.imm)
  change execVmovL l s = _
  rw [execVmovL, h, himm]
  rfl

/-- With EXT words the bits above the low 32 name the tag. -/
theorem exec_vmovL_tagged {w : Nat} {x : BitVec w} (hext : l.ext ≠ []) (h : l.immN = x.toNat) (s : State) :
    exec (.vmovL l) s = .next (s.writes 4 ((lanesOf s.active).map (fun i =>
      .v l.d.toNat i ⟨x.extractLsb' 0 32, Tag.ofCode (x.extractLsb' 32 4).toNat⟩))) := by
  have hlow : BitVec.ofNat 32 x.toNat = x.extractLsb' 0 32 := BitVec.eq_of_toNat_eq (by simp [BitVec.extractLsb'_toNat])
  have htag : x.toNat / 2 ^ 32 % 16 = (x.extractLsb' 32 4).toNat := by
    rw [BitVec.extractLsb'_toNat, Nat.shiftRight_eq_div_pow]
  change execVmovL l s = _
  rw [execVmovL, if_neg (by simpa using hext), h, hlow, htag]
  rfl

end

/-! ### VBCAST R (R178) -/

section
variable {o : OpR} (s : State)

theorem exec_vbcastR_single (h : o.m = false) : exec (.vbcastR o) s = .next (s.writes 6 ((lanesOf s.active).map (fun i =>
    .v o.d.toNat i ⟨(s.S o.a).setWidth 32, Tag.ofCode (o.b.toNat % 16)⟩))) := by
  change execVbcastR o s = _
  rw [execVbcastR, h]
  simp only [State.copyLanes, pairOf, Bool.false_eq_true, if_false, List.flatMap_singleton]
  rfl

/-- With `.p` the two halves of the scalar register are an f64 pair. -/
theorem exec_vbcastR_pair (h : o.m = true) : exec (.vbcastR o) s =
    .next (s.copyLanes 6 o.d.toNat o.m (fun n _ =>
      if n = 0 then ⟨(s.S o.a).extractLsb' 0 32, .f64l⟩ else ⟨(s.S o.a).extractLsb' 32 32, .f64h⟩)).ended := by
  have hlow : (s.S o.a).setWidth 32 = (s.S o.a).extractLsb' 0 32 := BitVec.setWidth_eq_extractLsb' (by decide)
  change execVbcastR o s = _
  simp only [execVbcastR, h, hlow, if_true]
  rfl

end

/-- Settles O14: the checks pass, a comparison is taken apart by its condition, and every other word copies lanes. -/
theorem vectorMoveResults : Obligations.VectorMoveResults := by
  unfold Obligations.VectorMoveResults
  intro o k l s t a b pair copies sets holds hactive
  have htest (c : Nat) (x y : FVal) : vcmpTest c (exactCmp x y) = holds c x y := by
    unfold exactCmp holds
    cases x.isNan || y.isNan <;> rcases c with _ | _ | _ | _ | _ | _ | _ | c <;> rfl
  refine ⟨fun ht => ⟨fun hsources => ?compare, fun hsources => ?compareI⟩, fun ha hb hpairs huniform => ?select,
    fun huniform => exec_vmovR huniform, fun h => exec_vmovL_short h s, fun p h => ?one, fun p q h => ?two,
    fun h => exec_vbcastR_single s h, fun h => exec_vbcastR_pair s h, rfl, fun n => exec_vlane⟩
  case compare =>
    obtain ⟨m, hexec, hbits⟩ := out_compareLanes (b := some b) (isComparable_of_mem ht) hsources o.d (s.valueAt b)
    exact ⟨m, hexec, fun i hi => (hbits i hi).trans (congrArg _ (htest _ _ _))⟩
  case compareI =>
    obtain ⟨m, hexec, hbits⟩ := out_compareLanes (b := none) (isComparable_of_mem ht) hsources k.d
      (fun _ _ => FVal.ofInt k.immI)
    exact ⟨m, hexec, fun i hi => (hbits i hi).trans (congrArg _ (htest _ _ _))⟩
  case select => exact exec_vsel hactive ha hb hpairs huniform
  case one => exact exec_vmovL_tagged (by simp [h]) (OpL.immN_of_one h) s
  case two => exact exec_vmovL_tagged (by simp [h]) (OpL.immN_of_two h) s

end Sys2Proof.Machine

namespace Sys2Proof.Machine

/-! ## Scratch that has been pinned (O29; R187, R188, R223) -/

section
variable {s : State} {c g off : Nat}

/-- Pages that are pinned, or that nothing has touched yet, ask for no bytes of the backing area (R188). -/
theorem State.pin_eq_self {ps : List Nat} (hpinned : ∀ p ∈ ps, p ∈ (s.wg c g).touched → p ∈ (s.wg c g).pinned) :
    s.pin c g ps = s := by
  induction ps with
  | nil => rfl
  | cons p ps ih =>
    have hp : (!(s.wg c g).touched.contains p || (s.wg c g).pinned.contains p) = true := by
      by_cases htouched : p ∈ (s.wg c g).touched
      · simp [hpinned p List.mem_cons_self htouched]
      · simp [htouched]
    rw [State.pin, if_pos hp]
    exact ih fun q hq => hpinned q (List.mem_cons_of_mem _ hq)

variable {n : Nat} (hpinned : ∀ p ∈ scratchPages off n, p ∈ (s.wg c g).touched → p ∈ (s.wg c g).pinned)
include hpinned

theorem State.scratchOp_read : s.scratchOp c g off (.read n) =
    ((s.wg c g).scratch.read off n, s.setWg c g ((s.wg c g).touch off n)) := by
  simp only [State.scratchOp, MemOp.size, State.pin_eq_self hpinned]
  rfl

theorem State.scratchOp_write (v : Nat) : s.scratchOp c g off (.write n v) =
    (0, s.setWg c g { (s.wg c g).touch off n with scratch := (s.wg c g).scratch.write off n v }) := by
  simp only [State.scratchOp, MemOp.size, State.pin_eq_self hpinned]
  rfl

end

/-- Settles O29: pinning changes nothing, so that the workgroup is all that an access touches. -/
theorem scratchAccessResults : Obligations.ScratchAccessResults := by
  unfold Obligations.ScratchAccessResults
  intro s c g off n v x hpinned
  rw [State.scratchOp_read hpinned, State.scratchOp_write hpinned]
  refine ⟨rfl, ?_, ?_, rfl, rfl, rfl, fun k => State.warp_setWg ..⟩
  · rw [State.wg_setWg]; rfl
  · rw [State.wg_setWg]

end Sys2Proof.Machine

namespace Sys2Proof.Machine

/-! ## Class changes and the management commands (O46; R197, R204, R214, R215, R392) -/

/-! ### Class changes (R204) -/

/-- The reclassification point records the new class, and changes besides what its holders have recorded: the cores, and the
inbound party's record. -/
theorem State.reclassify_keeps {β : Type} (p : State → β) (hcore : ∀ (s : State) (c : Nat) (x : Core), p (s.setCore c x) = p s)
    (hinbound : ∀ (s : State) (key : Nat), p (s.unrecord key) = p s) (s : State) (key : Nat) (c : PageClass) :
    p (s.reclassify key c) = p { s with classes := Tab.set s.classes key c } := by
  refine foldl_keeps p _ (fun t q => ?_) _ _
  cases q with
  | core n => exact hcore t n _
  | inbound => exact hinbound t key
  | _ => rfl

@[simp] theorem State.mem_reclassify (s : State) (key : Nat) (c : PageClass) : (s.reclassify key c).mem = s.mem :=
  s.reclassify_keeps State.mem (fun _ _ _ => rfl) (fun _ _ => rfl) key c

@[simp] theorem State.reclass_reclassify (s : State) (key : Nat) (c : PageClass) :
    (s.reclassify key c).reclass = s.reclass :=
  s.reclassify_keeps State.reclass (fun _ _ _ => rfl) (fun _ _ => rfl) key c

@[simp] theorem State.classOf_reclassify (s : State) (key : Nat) (c : PageClass) : (s.reclassify key c).classOf key = c := by
  rw [State.classOf, s.reclassify_keeps State.classes (fun _ _ _ => rfl) (fun _ _ => rfl) key c, Tab.get_set_self]

/-- A page that no class change holds is not changing. -/
theorem State.changing_eq_false {s : State} {key : Nat} (h : Tab.find s.reclass key = none) : s.changing key = false := by
  rw [State.changing, h]

section
variable {s : State} {page : Nat} {c : Reclass} (hchange : Tab.find s.reclass page = some c)
include hchange

theorem exec_classDrain_drained {p : Party} (hdrained : s.draining p page = false) : exec (.classDrain p page) s = .next
    ({ s with reclass := Tab.set s.reclass page { c with awaiting := c.awaiting.filter (fun q => q != p) } }.endDrain p page) := by
  simp only [exec, execClassDrain, hchange, hdrained, Bool.false_eq_true, if_false]

theorem exec_classDrain_draining {p : Party} (hdraining : s.draining p page = true) :
    exec (.classDrain p page) s = .next s := by
  simp only [exec, execClassDrain, hchange, hdraining, if_true]

/-- At the point the class is the new one, and the change is over, or stays for those who wait. -/
theorem exec_reclassificationPoint (hmade : c.made = false) (hawaiting : c.awaiting = []) :
    Ends (exec (.reclassificationPoint page) s) (fun t => t.classOf page = c.new ∧ t.mem = s.mem ∧
      t.reclass = if c.queue.isEmpty then Tab.del s.reclass page else Tab.set s.reclass page { c with made := true }) := by
  simp only [exec, execReclassificationPoint, hchange, hmade, hawaiting, List.isEmpty_nil, Bool.not_true, Bool.or_self,
    Bool.false_eq_true, if_false]
  refine ⟨_, rfl, State.classOf_reclassify .., ?_, ?_⟩
  · rw [State.mem_reclassify]
    split <;> rfl
  · rw [State.reclass_reclassify]
    split <;> rfl

end

/-! ### INVAL (R197) -/

/-- A page that loses every class has none. -/
theorem Tab.find_filter_eq_none {α : Type} {t : Tab α} {q : Nat × α → Bool} {k : Nat}
    (h : ∀ e ∈ t, e.1 = k → q e = false) : Tab.find (t.filter q) k = none := by
  refine Tab.find_none_of_not_mem _ _ fun hk => ?_
  obtain ⟨e, he, hek⟩ := List.mem_map.mp hk
  obtain ⟨het, hq⟩ := List.mem_filter.mp he
  exact Bool.false_ne_true ((h e het hek).symm.trans hq)

theorem State.classOf_untouch {s : State} {d page n p : Nat} (hp : p ∈ s.rangePages d page n) :
    (s.untouch d page n).classOf p = .untouched := by
  have hclasses : (s.untouch d page n).classes = s.classes.filter (fun e => !(s.rangePages d page n).contains e.1) :=
    foldl_keeps State.classes State.dropPage (fun _ _ => rfl) _ _
  rw [State.classOf, hclasses, Tab.get, Tab.find_filter_eq_none]
  · rfl
  · rintro e - rfl
    simpa using hp

section
variable {s u v : State} {dev : Fin 4} (hgo : (s.device dev.val).mgo = true)
include hgo

theorem exec_inval (hop : (s.device dev.val).mcmd.op = 1)
    (hbusy : s.rangeBusy dev.val ((s.device dev.val).mcmd.va / 65536) (s.device dev.val).mcmd.len = false)
    (hstill : ∀ p ∈ s.rangePages dev.val ((s.device dev.val).mcmd.va / 65536) (s.device dev.val).mcmd.len,
      Tab.find s.reclass p = none) :
    exec (.inval dev) s = .next (((s.invalRange dev.val ((s.device dev.val).mcmd.va / 65536) (s.device dev.val).mcmd.len).untouch
      dev.val ((s.device dev.val).mcmd.va / 65536) (s.device dev.val).mcmd.len).endCommand dev.val 0) := by
  have hnone : (s.rangePages dev.val ((s.device dev.val).mcmd.va / 65536) (s.device dev.val).mcmd.len).any s.changing = false :=
    List.any_eq_false.mpr fun p hp => Bool.not_eq_true _ ▸ State.changing_eq_false (hstill p hp)
  simp only [exec, execInval, hgo, hop, hbusy, hnone]
  rfl

/-! ### HARVEST (R214) -/

section
variable (hop : (s.device dev.val).mcmd.op = 2)
include hop

theorem exec_harvest_fails {cause : BitVec 10} {a : Nat}
    (husage : s.usage dev.val ((s.device dev.val).mcmd.va / 65536) (s.device dev.val).mcmd.len = (.error (cause, a), u)) :
    exec (.harvest dev) s = .next (u.failCommand dev.val cause a) := by
  simp only [exec, execHarvest, hgo, hop, husage]
  rfl

theorem exec_harvest_writes {n a : Nat} {fs : List Nat}
    (husage : s.usage dev.val ((s.device dev.val).mcmd.va / 65536) (s.device dev.val).mcmd.len = (.ok (n, fs), u))
    (hwrite : ({ u with accessed := u.accessed.filter (fun p => !fs.contains p)
                        dirty := u.dirty.filter (fun p => !fs.contains p) }).writeBytes (deviceActor dev.val 1)
      (s.device dev.val).mcmd.arg (((s.device dev.val).mcmd.len + 3) / 4) n = (.ok a, v)) :
    exec (.harvest dev) s = .next (v.endCommand dev.val 0) := by
  simp only [exec, execHarvest, hgo, hop, husage, hwrite]
  rfl

end

/-! ### MIGRATE (R215) -/

section
variable (hop : (s.device dev.val).mcmd.op = 3)
  (hbusy : s.rangeBusy dev.val ((s.device dev.val).mcmd.va / 65536) 1 = false)
include hop hbusy

theorem exec_migrate_upcall (hup : ((s.device dev.val).upcallOf ((s.device dev.val).mcmd.va / 65536)).isSome = true) :
    exec (.migrate dev) s = .next (s.endCommand dev.val 1) := by
  simp only [exec, execMigrate, hgo, hop, hbusy, hup]
  rfl

variable (hup : (s.device dev.val).upcallOf ((s.device dev.val).mcmd.va / 65536) = none)
include hup

theorem exec_migrate_absent {pgr : Nat} (hwalk : s.walkOn dev.val (s.device dev.val).mcmd.va = (.absent pgr, u)) :
    exec (.migrate dev) s = .next (u.failCommand dev.val 0x107 (s.device dev.val).mcmd.va) := by
  simp only [exec, execMigrate, hgo, hop, hbusy, hup, hwalk]
  rfl

variable {l : Leaf} {entry : Nat} (hwalk : s.walkOn dev.val (s.device dev.val).mcmd.va = (.leaf l, u))
  (hentry : u.leafEntry dev.val (s.device dev.val).mcmd.va = some entry) (hpeer : l.peer = false) (hmt : l.mt = 0)
  (hstill : Tab.find u.reclass l.key = none)
include hwalk hentry hpeer hmt hstill

theorem exec_migrate_leaf : exec (.migrate dev) s = .next
    (if ∃ i < 512, u.lineLost (l.pa + 128 * i) 128 = true ∨ u.lineLost ((s.device dev.val).mcmd.arg + 128 * i) 128 = true then
      u.failCommand dev.val 0x2C7 (s.device dev.val).mcmd.va
    else ((u.movePage entry l.pa (s.device dev.val).mcmd.arg).invalRange dev.val ((s.device dev.val).mcmd.va / 65536) 1).endCommand
      dev.val 0) := by
  have hchanging := State.changing_eq_false hstill
  simp only [exec, execMigrate, hgo, hop, hbusy, hup, hwalk, hentry, hpeer, hmt, hchanging, List.any_eq_true, List.mem_range,
    Bool.or_eq_true, Option.isSome_none, Bool.not_true, bne_self_eq_false, Bool.false_eq_true, or_self, if_false]
  split <;> rfl

end
end

/-! ### A command that does not exist (R392) -/

theorem exec_mopBadArg {s : State} {dev : Fin 4} (h1 : (s.device dev.val).mop ≠ 1) (h2 : (s.device dev.val).mop ≠ 2)
    (h3 : (s.device dev.val).mop ≠ 3) (hgo : (s.device dev.val).mgo = false) (hon : s.enabled dev.val 0x8800 = true) :
    exec (.mopBadArg dev) s = .next (s.setDevice dev.val { s.device dev.val with mst := 2 }) := by
  have hargs : (s.device dev.val).argsOk = false := by simp [Device.argsOk, h1, h2, h3]
  simp [exec, execMopBadArg, h1, h2, h3, State.hostWrite, hon, State.startCommand, hgo, hargs]

/-- Settles O46: one lemma for each outcome of a step. -/
theorem managementEventResults : Obligations.ManagementEventResults := by
  unfold Obligations.ManagementEventResults
  intro s u v dev p page a n entry c cause fs l d x k ends fails
  refine ⟨fun hchange => ⟨exec_classDrain_drained hchange, exec_classDrain_draining hchange, fun hmade hawaiting => ?point⟩,
    fun hgo hop hbusy => ?inval,
    fun hgo hop => ⟨exec_harvest_fails hgo hop, exec_harvest_writes hgo hop⟩,
    fun hgo hop hbusy => ⟨exec_migrate_upcall hgo hop hbusy, fun hup pgr => exec_migrate_absent hgo hop hbusy hup,
      fun hup hwalk hentry hpeer hmt hstill => ?migrate⟩,
    exec_mopBadArg⟩
  case point =>
    obtain ⟨t, hnext, hclass, hmem, hreclass⟩ := exec_reclassificationPoint hchange hmade hawaiting
    refine ⟨t, hnext, hclass, hmem, fun hnobody => ?_, fun hwaiting => ?_⟩
    · rw [hreclass, if_pos (by rw [hnobody]; rfl)]
      exact Tab.not_mem_keys_del _ _
    · rw [hreclass, if_neg (by simpa using hwaiting), Tab.find_set_self]
  case inval =>
    intro pages hstill
    exact ⟨exec_inval hgo hop hbusy hstill, fun t q => State.classOf_untouch⟩
  case migrate =>
    have hmigrate := exec_migrate_leaf hgo hop hbusy hup hwalk hentry hpeer hmt hstill
    exact ⟨fun hsound => hmigrate.trans (by rw [if_neg hsound]; rfl), fun hlost => hmigrate.trans (by rw [if_pos hlost]; rfl)⟩

end Sys2Proof.Machine

namespace Sys2Proof.Machine

/-! ## Base registers and class hints (O30; R206, R208, R229 to R232) -/

/-! ### What a walk keeps: memory, and the word in focus -/

/-- The bytes of memory, and which word is in focus: what no walk changes. -/
def State.unwalked (s : State) : Memory × Focus := (s.mem, s.focus)

@[simp] theorem State.unwalked_reclassify (s : State) (key : Nat) (c : PageClass) :
    (s.reclassify key c).unwalked = s.unwalked :=
  s.reclassify_keeps State.unwalked (fun _ _ _ => rfl) (fun _ _ => rfl) key c

@[simp] theorem State.unwalked_dropPage (s : State) (key : Nat) : (s.dropPage key).unwalked = s.unwalked := rfl

@[simp] theorem State.unwalked_cacheAccess (s : State) (core : Option Nat) (mine write : Bool) (pa : Nat) :
    (s.cacheAccess core mine write pa).unwalked = s.unwalked := by
  fun_cases State.cacheAccess <;> rfl

@[simp] theorem State.unwalked_ctPage (s : State) (pfn : Nat) : (s.ctPage pfn).2.unwalked = s.unwalked := by
  fun_cases State.ctPage <;> rfl

@[simp] theorem State.unwalked_ctAccess (s : State) (pa : Nat) (write : Bool) :
    (s.ctAccess pa write).unwalked = s.unwalked := by
  rw [← s.unwalked_ctPage (pa / 65536), State.ctAccess, State.unwalked_cacheAccess]
  repeat' split
  all_goals simp only [↓State.unwalked_reclassify, ↓State.unwalked_dropPage, State.unwalked]

@[simp] theorem State.unwalked_walkEntry (s : State) (dev va shift pa : Nat) :
    (s.walkEntry dev va shift pa).2.unwalked = s.unwalked := by
  unfold State.walkEntry
  dsimp only
  split
  · exact State.unwalked_ctAccess ..
  · rfl

@[simp] theorem State.unwalked_walkFrom (s : State) (dev va pa : Nat) (levels : List Nat) :
    (s.walkFrom dev va pa levels).2.unwalked = s.unwalked := by
  induction levels generalizing s pa with
  | nil => rfl
  | cons shift rest ih =>
    have hentry := s.unwalked_walkEntry dev va shift pa
    rw [State.walkFrom]
    split
    next w t hends => rwa [hends] at hentry
    next pa' t hnext => rw [ih, ← hentry, hnext]

@[simp] theorem State.unwalked_walkTable (s : State) (dev va : Nat) : (s.walkTable dev va).2.unwalked = s.unwalked := by
  unfold State.walkTable
  dsimp only
  split
  · rfl
  · split
    · rfl
    · exact State.unwalked_walkFrom ..

@[simp] theorem State.unwalked_missWalk (s : State) (c va : Nat) : (s.missWalk c va).2.unwalked = s.unwalked := by
  unfold State.missWalk
  dsimp only
  split
  · exact State.unwalked_walkFrom ..
  · split
    · rfl
    · exact State.unwalked_walkTable ..

@[simp] theorem State.unwalked_enterTlb (s : State) (c va : Nat) (w : Walk) : (s.enterTlb c va w).unwalked = s.unwalked := by
  cases w <;> rfl

theorem State.unwalked_tlbWalk (s : State) (c va : Nat) : (s.tlbWalk c va).2.unwalked = s.unwalked := by
  unfold State.tlbWalk
  split
  · rfl
  · rfl
  · exact (State.unwalked_enterTlb ..).trans (State.unwalked_missWalk ..)

theorem State.die_of_tlbWalk {s t : State} {c va : Nat} {w : Walk} (h : s.tlbWalk c va = (w, t)) : t.die = s.die := by
  have hkeeps := s.unwalked_tlbWalk c va
  rw [h] at hkeeps
  exact congrArg (fun x : Memory × Focus => dieOf x.2.core) hkeeps

/-! ### A walk is refused only as a ninth miss (R208) -/

theorem leafOf_ne_full (dev : Nat) (large : Bool) (i e : Nat) : leafOf dev large i e ≠ .full := by
  unfold leafOf
  dsimp only
  repeat' split
  all_goals simp

theorem walkStep_ne_full (dev va shift e : Nat) : walkStep dev va shift e ≠ .ends .full := by
  unfold walkStep
  dsimp only
  repeat' split
  all_goals simp [leafOf_ne_full]

theorem State.walkEntry_ne_full (s : State) (dev va shift pa : Nat) : (s.walkEntry dev va shift pa).1 ≠ .ends .full := by
  unfold State.walkEntry
  dsimp only
  repeat' split
  all_goals simp [walkStep_ne_full]

theorem State.walkFrom_ne_full (s : State) (dev va pa : Nat) (levels : List Nat) :
    (s.walkFrom dev va pa levels).1 ≠ .full := by
  induction levels generalizing s pa with
  | nil => simp [State.walkFrom]
  | cons shift rest ih =>
    have hentry := s.walkEntry_ne_full dev va shift pa
    rw [State.walkFrom]
    split
    next w t hends => rw [hends] at hentry; exact fun h => hentry (congrArg _ h)
    next pa' t hnext => exact ih _ _

theorem State.walkTable_ne_full (s : State) (dev va : Nat) : (s.walkTable dev va).1 ≠ .full := by
  unfold State.walkTable
  dsimp only
  split
  · simp
  · split
    · simp
    · exact State.walkFrom_ne_full _ _ _ _ _

theorem State.missWalk_full_iff (s : State) (c va : Nat) : (s.missWalk c va).1 = .full ↔
    missLimit ≤ (s.core c).walks.length ∧ ∀ j ∈ (s.core c).walks, j.page ≠ va / 65536 := by
  unfold State.missWalk
  dsimp only
  split
  next j hfind =>
    refine iff_of_false (State.walkFrom_ne_full _ _ _ _ _) fun h => ?_
    exact h.2 j (List.mem_of_find?_eq_some hfind) (by simpa using List.find?_some hfind)
  next hfind =>
    have hnone : ∀ j ∈ (s.core c).walks, j.page ≠ va / 65536 := by simpa using hfind
    split
    next hlimit => exact iff_of_true rfl ⟨hlimit, hnone⟩
    next hlimit => exact iff_of_false (State.walkTable_ne_full _ _ _) fun h => hlimit h.1

theorem State.tlbWalk_full_iff (s : State) (c va : Nat) : (s.tlbWalk c va).1 = .full ↔ s.missFull c va = true := by
  unfold State.tlbWalk State.missFull
  split
  next pgr hshut => simp [hshut]
  next e hshut htlb => simp [htlb]
  next hshut htlb =>
    rw [State.missWalk_full_iff]
    simp [hshut, htlb]

/-! ### A word that waits -/

theorem parks_out_wait {s t : State} {p : Park} (hmem : t.mem = s.mem) : Parks (Res.wait t p).out p (fun u => SameMemory s u) :=
  ⟨_, rfl, rfl, by rw [State.f_setF], fun a => congrArg (Memory.get · a) hmem⟩

/-! ### BTINV (R230) -/

/-- The base registers that BTINV names: all, or the one of its field. -/
theorem filter_range_bases (m : Bool) {b : Nat} (hb : b < 8) :
    (List.range 8).filter (fun i => m || i = b) = if m then List.range 8 else [b] := by
  cases m with
  | true => rfl
  | false => exact (by decide : ∀ i : Fin 8, (List.range 8).filter (fun j => false || j = i.val) = [i.val]) ⟨b, hb⟩

/-! ### BTL (R206, R229) -/

theorem exec_btl_nonCanon {s : State} {o : OpR} (hva : 2 ^ 57 ≤ (s.S o.a).toNat) : exec (.btl o) s =
    .next (s.writes 0 [.b (o.d.toNat % 8) { vbase := s.S o.a }, .s o.b.toNat (w64 (-3))]) := by
  have hcanon : nonCanon (s.S o.a).toNat = true := decide_eq_true hva
  change execBtl o s = _
  rw [execBtl, hcanon, if_pos rfl]
  rfl

/-- Why BTL leaves its register covering nothing, where the walk of its first page says so itself (R229). -/
def Walk.btlFailure : Walk → Option Int
  | .absent _ => some (-1)
  | .error | .host => some (-2)
  | .leaf l => if l.peer then some (-4) else none
  | .lost _ | .full => none

/-- The run of a BTL has at most the pages of its 2 MiB (R206). -/
theorem State.length_runPages_le (s : State) (c va : Nat) (l : Leaf) (seen : SeenClass) (n i : Nat) :
    (s.runPages c va l seen n i).1.length ≤ n := by
  induction n generalizing s i with
  | zero => simp [State.runPages]
  | succ n ih =>
    rw [State.runPages]
    dsimp only
    repeat' split
    all_goals simp [ih]

theorem State.mem_runPages (s : State) (c va : Nat) (l : Leaf) (seen : SeenClass) (n i : Nat) :
    (s.runPages c va l seen n i).2.mem = s.mem := by
  induction n generalizing s i with
  | zero => rfl
  | succ n ih =>
    have hwalk := congrArg Prod.fst (s.unwalked_tlbWalk c ((va / 65536 + i) * 65536))
    rw [State.runPages]
    dsimp only
    split
    · rfl
    · split
      next m t hleaf =>
        rw [hleaf] at hwalk
        split
        · exact (ih _ _).trans hwalk
        · exact hwalk
      next w t hnot hother => rw [hother] at hwalk; exact hwalk

section
variable {s t : State} {o : OpR} (hva : (s.S o.a).toNat < 2 ^ 57)
include hva

theorem exec_btl_waits (hmiss : ¬∀ i < 32, s.missFull s.focus.core (65536 * ((s.S o.a).toNat / 65536 + i)) = false) :
    Parks (exec (.btl o) s) (.reclass missPage) (fun t => SameMemory s t) := by
  have hcanon : nonCanon (s.S o.a).toNat = false := decide_eq_false (by omega)
  have hany : (List.range 32).any (fun i => s.missFull s.focus.core (65536 * ((s.S o.a).toNat / 65536 + i))) = true := by
    simpa using hmiss
  change Parks (execBtl o s) _ _
  rw [execBtl, hcanon, hany, if_neg Bool.false_ne_true, if_pos rfl]
  exact parks_out_wait rfl

variable (hwalks : ∀ i < 32, s.missFull s.focus.core (65536 * ((s.S o.a).toNat / 65536 + i)) = false)
include hwalks

/-- Past its first two tests BTL walks its first page. -/
theorem btl_tests_pass : nonCanon (s.S o.a).toNat = false ∧
    (List.range 32).any (fun i => s.missFull s.focus.core (65536 * ((s.S o.a).toNat / 65536 + i))) = false :=
  ⟨decide_eq_false (by omega), by simpa using hwalks⟩

theorem exec_btl_fails {w : Walk} {v : Int} (hwalk : s.tlbWalk s.focus.core (s.S o.a).toNat = (w, t))
    (hfails : w.btlFailure = some v) : exec (.btl o) s =
      .next (t.writes 0 [.b (o.d.toNat % 8) { vbase := s.S o.a }, .s o.b.toNat (w64 v)]) := by
  obtain ⟨hcanon, hany⟩ := btl_tests_pass hva hwalks
  change execBtl o s = _
  rw [execBtl, hcanon, hany, hwalk, if_neg Bool.false_ne_true, if_neg Bool.false_ne_true]
  cases w with
  | leaf l =>
    obtain ⟨hpeer, rfl⟩ : l.peer = true ∧ -4 = v := by simpa [Walk.btlFailure] using hfails
    exact congrArg Res.out (if_pos hpeer)
  | absent | error | host => cases hfails; rfl
  | lost | full => cases hfails

theorem exec_btl_lost {p : Nat} (hwalk : s.tlbWalk s.focus.core (s.S o.a).toNat = (.lost p, t)) : exec (.btl o) s =
    .next ((t.unreadable (t.laneActor 7 (lowLane t.active)) p (s.S o.a).toNat).2.writes 0
      [.b (o.d.toNat % 8) { vbase := s.S o.a }, .s o.b.toNat (w64 (-2))]) := by
  obtain ⟨hcanon, hany⟩ := btl_tests_pass hva hwalks
  change execBtl o s = _
  rw [execBtl, hcanon, hany, hwalk, if_neg Bool.false_ne_true, if_neg Bool.false_ne_true]
  rfl

/-- The first page is one of this module: the register takes its run (R206). -/
theorem exec_btl_fills {l : Leaf} {seen : SeenClass} {run : List (Nat × Bool) × State} {limit : Nat}
    (hwalk : s.tlbWalk s.focus.core (s.S o.a).toNat = (.leaf l, t)) (hpeer : l.peer = false)
    (hseen : seen = (((t.core s.focus.core).tlbAt (s.S o.a).toNat).map (fun e => e.seen)).getD .unknown)
    (hrun : run = t.runPages s.focus.core (s.S o.a).toNat l seen 31 1)
    (hlimit : limit = (run.1.length + 1) * 65536 - (s.S o.a).toNat % 65536) :
    exec (.btl o) s = .next (run.2.writes 0 [.b (o.d.toNat % 8)
      { vbase := s.S o.a, frame := l.pa + (s.S o.a).toNat % 65536, limit := limit, seen := seen, w := l.w, x := l.x,
        pages := (l.cls, l.big) :: run.1, cnt := l.cnt, mt := l.mt }, .s o.b.toNat (BitVec.ofNat 64 limit)]) := by
  obtain ⟨hcanon, hany⟩ := btl_tests_pass hva hwalks
  subst hseen hrun hlimit
  change execBtl o s = _
  rw [execBtl, hcanon, hany, hwalk, if_neg Bool.false_ne_true, if_neg Bool.false_ne_true]
  exact congrArg Res.out (if_neg (Bool.eq_false_iff.mp hpeer))

end

/-! ### CLASS over the bytes of one page (R231) -/

theorem hintLeaf_eq_none {w : Walk} (h : ∀ l, w ≠ .leaf l) : hintLeaf w = none := by
  cases w with
  | leaf l => exact absurd rfl (h l)
  | _ => rfl

/-- A hint changes a class that does not allow already what it says. -/
def PageClass.Changes (c : PageClass) (shared : Bool) : Prop := c ≠ .shared ∧ (shared = true ∨ ∀ ps, c ≠ .readOnly ps)

theorem PageClass.hinted_of_not_changes {c : PageClass} {shared : Bool} (h : ¬c.Changes shared) : c.hinted shared = none := by
  cases c with
  | shared => rfl
  | readOnly ps => cases shared with
    | false => rfl
    | true => exact absurd ⟨nofun, .inl rfl⟩ h
  | untouched | priv => exact absurd ⟨nofun, .inr nofun⟩ h

theorem PageClass.hinted_of_changes {c : PageClass} {shared : Bool} (h : c.Changes shared) :
    c.hinted shared = some (if shared then .shared else .readOnly c.holders) := by
  cases c with
  | shared => exact absurd rfl h.1
  | readOnly ps => cases shared with
    | false => exact absurd rfl (h.2.resolve_left nofun ps)
    | true => rfl
  | untouched | priv => rfl

section
variable {s t : State} {page : Nat} (hpage : page < 2 ^ 41) {w : Walk} (hwalk : s.tlbWalk s.focus.core (page * 65536) = (w, t))
include hpage hwalk

theorem State.hintPage_of_no_leaf (hleaf : hintLeaf w = none) (shared mine : Bool) :
    s.hintPage page shared mine = (some false, t) := by
  simp only [State.hintPage, Nat.not_le.mpr hpage, hwalk, hleaf, if_false]

variable {l : Leaf} (hleaf : hintLeaf w = some l) (hstill : Tab.find t.reclass l.key = none)
include hleaf hstill

/-- A page that no class change holds: its class under the mapping of this leaf, and what the hint makes of it. -/
theorem State.hintPage_stays {shared : Bool} {u : State}
    (hu : u = t.nameMapping l.key s.die (l.tlbKey (page * 65536))) (hclass : (u.classOf l.key).hinted shared = none) :
    s.hintPage page shared false = (some false, u) := by
  subst hu
  simp only [State.hintPage, Nat.not_le.mpr hpage, hwalk, hleaf, State.changing_eq_false hstill, State.die_of_tlbWalk hwalk,
    hclass, if_false, Bool.false_eq_true]

theorem State.hintPage_changes {shared : Bool} {u : State} {c : PageClass}
    (hu : u = t.nameMapping l.key s.die (l.tlbKey (page * 65536))) (hclass : (u.classOf l.key).hinted shared = some c)
    (hdrained : ∀ q ∈ (u.classOf l.key).holders, u.outstanding q l.key = false) :
    s.hintPage page shared false = (some true, u.reclassify l.key c) := by
  subst hu
  simp only [State.hintPage, Nat.not_le.mpr hpage, hwalk, hleaf, State.changing_eq_false hstill, State.die_of_tlbWalk hwalk,
    hclass, if_false, Bool.false_eq_true]
  rw [List.filter_eq_nil_iff.mpr]
  · rfl
  · simpa using hdrained

end

section
variable {s t : State} {a n : Nat} (hfresh : s.f.flight = none) (hlanes : s.focus.lanes = BitVec.allOnes 32)
  (hone : (a + n - 1) / 65536 + 1 - a / 65536 = 1) (d : BitVec 6) {shared : Bool}
include hfresh hlanes hone

/-- A word that begins over one page takes it, and finds no page left. -/
theorem State.hint_one_page : s.hint d a n shared = (s.hintPages shared 2 (a / 65536) 1 0 false).1.bind
    (fun t => .done (t.putS 0 d (BitVec.ofNat 64 (s.hintPages shared 2 (a / 65536) 1 0 false).2))) := by
  simp only [State.hint, hfresh, hlanes, hone, Option.getD_none, if_true]
  rfl

theorem parks_hint_full (hfull : s.missFull s.focus.core (a / 65536 * 65536) = true) :
    Parks (s.hint d a n shared).out (.reclass missPage) (fun t => SameMemory s t) := by
  rw [State.hint_one_page hfresh hlanes hone, State.hintPages, if_neg Nat.one_ne_zero, if_pos hfull]
  exact parks_out_wait rfl

theorem out_hint_page (hroom : s.missFull s.focus.core (a / 65536 * 65536) = false) {changed : Bool}
    (hhint : s.hintPage (a / 65536) shared false = (some changed, t)) :
    (s.hint d a n shared).out = .next (t.landed.writesS 0 d (BitVec.ofNat 64 (bit changed))) := by
  have hpages : s.hintPages shared 2 (a / 65536) 1 0 false = (.done t.landed, bit changed) := by
    simp only [State.hintPages, hroom, hhint, Nat.one_ne_zero, Nat.zero_add, Nat.sub_self, Bool.false_eq_true, if_false, if_true]
    rfl
  rw [State.hint_one_page hfresh hlanes hone, hpages]
  rfl

end

/-- The TRAPDATA of a length that CLASS refuses: the register that holds it, and its value as far as 32 bits hold it (R231). -/
theorem exec_classR_traps {s : State} {o : OpR} (hlen : (s.S o.b).toNat = 0 ∨ 2 ^ 30 < (s.S o.b).toNat) :
    Traps (exec (.classR o) s) s 0x0A2
      (BitVec.ofNat 64 (o.b.toNat + 1 * 2 ^ 15 + min (s.S o.b).toNat (2 ^ 32 - 1) * 2 ^ 32)) := by
  have hreg : o.b.toNat < 64 := o.b.isLt
  have hsum : o.b.toNat % 64 + 0 * 2 ^ 6 + 0 * 2 ^ 10 + 1 * 2 ^ 15 + min (s.S o.b).toNat (2 ^ 32 - 1) % 2 ^ 32 * 2 ^ 32 =
      o.b.toNat + 1 * 2 ^ 15 + min (s.S o.b).toNat (2 ^ 32 - 1) * 2 ^ 32 := by omega
  have hdata : opndData o.b.toNat 0 0 1 (min (s.S o.b).toNat (2 ^ 32 - 1)) =
      BitVec.ofNat 64 (o.b.toNat + 1 * 2 ^ 15 + min (s.S o.b).toNat (2 ^ 32 - 1) * 2 ^ 32) := congrArg _ hsum
  have htest : ((s.S o.b).toNat = 0 || 2 ^ 30 < (s.S o.b).toNat) = true := by simpa using hlen
  simp only [Traps, exec, execClassR, htest, hdata, if_true, Res.out_trap]

theorem exec_classR_hints {s : State} {o : OpR} (hpos : 0 < (s.S o.b).toNat) (hlen : (s.S o.b).toNat ≤ 2 ^ 30) :
    exec (.classR o) s = (s.hint o.d (s.S o.a).toNat (s.S o.b).toNat o.m).out := by
  have htest : ((s.S o.b).toNat = 0 || 2 ^ 30 < (s.S o.b).toNat) = false := by simp; omega
  simp only [exec, execClassR, htest, Bool.false_eq_true, if_false]

/-- Settles O30: a walk keeps memory and the word in focus, and each outcome of the first page's walk has its lemma. -/
theorem translationWordResults : Obligations.TranslationWordResults := by
  unfold Obligations.TranslationWordResults
  refine ⟨fun s t o om on p l => ?base, fun s t o oi w => ?classes⟩
  case base =>
    intro c va bd gives
    refine ⟨rfl, rfl, ?btinv, ?walked⟩
    case btinv =>
      rw [filter_range_bases _ (Nat.mod_lt _ (by decide))]
      rfl
    case walked =>
      intro walks
      refine ⟨exec_btl_nonCanon, exec_btl_waits, fun hva hroom hwalk => exec_btl_fails (v := -1) hva hroom hwalk rfl,
        fun hva hroom hwalk => hwalk.elim (exec_btl_fails (v := -2) hva hroom · rfl) (exec_btl_fails (v := -2) hva hroom · rfl),
        fun hva hroom => exec_btl_lost hva hroom, fun hva hroom hwalk hpeer => exec_btl_fails (v := -4) hva hroom hwalk (if_pos hpeer),
        fun hva hroom hwalk hpeer => ?fills⟩
      intro seen run limit
      have hlen : run.1.length ≤ 31 := State.length_runPages_le ..
      exact ⟨exec_btl_fills hva hroom hwalk hpeer rfl rfl rfl, by omega, by omega, State.mem_runPages ..⟩
  case classes =>
    intro a n page hinted
    have hhint (i : Instr) (d : BitVec 6) (a n : Nat) (shared : Bool) (hexec : exec i s = (s.hint d a n shared).out)
        (hone : (a + n - 1) / 65536 + 1 - a / 65536 = 1) : hinted i d (a / 65536) shared := by
      intro hpage hfresh hlanes hwalk
      have hfull := s.tlbWalk_full_iff s.focus.core (a / 65536 * 65536)
      rw [hwalk] at hfull
      have hroom (h : w ≠ .full) : s.missFull s.focus.core (a / 65536 * 65536) = false := Bool.eq_false_iff.mpr (mt hfull.mpr h)
      rw [hexec]
      refine ⟨fun h => parks_hint_full hfresh hlanes hone d (hfull.mp h), fun h hnone => ?unmapped, fun l h hfixed => ?fixed,
        fun l h hopen hstill => ?hinted⟩
      case unmapped =>
        exact out_hint_page (changed := false) hfresh hlanes hone d (hroom h)
          (State.hintPage_of_no_leaf hpage hwalk (hintLeaf_eq_none hnone) shared false)
      case fixed =>
        subst h
        exact out_hint_page (changed := false) hfresh hlanes hone d (hroom nofun)
          (State.hintPage_of_no_leaf hpage hwalk (by simp [hintLeaf, Option.ne_none_iff_isSome.mpr hfixed]) shared false)
      case hinted =>
        subst h
        have hleaf : hintLeaf (.leaf l) = some l := by simp [hintLeaf, hopen]
        intro u old changes
        refine ⟨fun hstays => out_hint_page (changed := false) hfresh hlanes hone d (hroom nofun) ?_,
          fun hchanges hdrained => out_hint_page (changed := true) hfresh hlanes hone d (hroom nofun) ?_⟩
        · exact State.hintPage_stays hpage hwalk hleaf hstill rfl (PageClass.hinted_of_not_changes hstays)
        · exact State.hintPage_changes hpage hwalk hleaf hstill rfl (PageClass.hinted_of_changes hchanges) hdrained
    refine ⟨exec_classR_traps, fun hpos hfit => ?register, fun hlen halign => ?immediate⟩
    case register =>
      exact hhint _ _ _ n _ (exec_classR_hints hpos (by omega)) (by omega)
    case immediate =>
      exact hhint (.classI oi) oi.d _ ((oi.immN / 2 + 1) * 65536) _ (by rfl) (by rw [hlen]; omega)

end Sys2Proof.Machine

namespace Sys2Proof.Machine

/-! ## Loads, stores, atomics and exact sums (O25 to O27; R216 to R228) -/

/-! ### A memory word whose accesses all end at once -/

section
variable {s t u : State} {c : Chk Flight} {fl : Flight} {commits : Bool} {got : Tab Nat} {done : State → Flight → Res}
  (hfresh : s.Fresh) (hc : c = .ok fl) (hfree : fl.free = false) (hfault : fl.fault = none) (hdrains : fl.drains = [])
  (hflown : s.flown commits fl = some (t, got))
  (hdone : ∀ d strict, done t { fl with reqs := [], got := got, done := d, strict := strict } = .done u)
include hfresh hc hfree hfault hdrains hflown hdone

/-- A memory word that keeps no progress ends as `done` leaves it (R219). -/
theorem out_runFlight (hkeep : fl.keep = false) : (s.runFlight c commits done).out = .next u.ended := by
  obtain ⟨d, hrun⟩ := runFlight_of_accessAll (done := done) hfresh hc hfree hfault hdrains hflown
  rw [hrun, hdone, hkeep]
  rfl

/-- A store or an atomic ends as `done` leaves it, and what it has kept of its lanes is gone (R220). -/
theorem out_runFlight_kept (hkeep : fl.keep = true) : (s.runFlight c commits done).out = .next u.progressed.ended := by
  obtain ⟨d, hrun⟩ := runFlight_of_accessAll (done := done) hfresh hc hfree hfault hdrains hflown
  rw [hrun, hdone, hkeep]
  simp only [Bool.true_and]
  rfl

end

/-! ### LDU of a byte that has been answered with more (O25; R224) -/

theorem exec_ldu {s t : State} {got : Tab Nat} {o : OpN} (hfresh : s.Fresh)
    (haddressed : s.Addressed (s.formN o (widthBytes o.w) false) (widthBytes o.w) (s.lanesMade true))
    (hflown : s.flown false (s.flight (s.formN o (widthBytes o.w) false) 0 true (fun _ => .read (widthBytes o.w))) =
      some (t, got)) :
    exec (.ldu o) s = .next (t.writesS 0 o.d (scalarLoad o.w (Tab.get got 0 (lowLane t.active)))) := by
  refine out_runFlight hfresh ?checks rfl rfl rfl hflown (fun _ _ => rfl) rfl
  rw [Chk.bind_ok (checkForm_ok haddressed 0 true)]
  rfl

/-- A byte load through s3 in focus, at a page of host memory; its read has been answered with 600, which no byte holds. -/
def State.overAnswered : State :=
  let s := (State.reset.withFetchWord 32 0).focusOn 0 0 0
  let s := s.setCore 0 { s.core 0 with tlb := [(2, { leaf := { pa := hostBase, mt := 1 } })] }
  let s := s.setW { s.w with sregs := [(3, 131072)] }
  let r : PeerReq := { host := true, va := hostBase, op := .read 1, waiter := .lane s.focusRef 0, result := some (.value 600) }
  { s with io := { s.io with reqs := [(0, r)] } }

/-- `ldu s6, [s3]` of a signed byte. -/
def lduByte : OpN := { d := 6, a := 3, w := 1 }

theorem State.overAnswered_flown : ∃ t got, Tab.get got 0 (lowLane t.active) = 600 ∧ t.w.pend = [] ∧
    State.overAnswered.flown false (State.overAnswered.flight (State.overAnswered.formN lduByte 1 false) 0 true
      (fun _ => .read 1)) = some (t, got) := by
  have hgot : (State.overAnswered.flown false (State.overAnswered.flight (State.overAnswered.formN lduByte 1 false) 0 true
      (fun _ => .read 1))).map (fun x => (Tab.get x.2 0 (lowLane x.1.active), x.1.w.pend)) = some (600, []) := by
    decide
  obtain ⟨⟨t, got⟩, hflown, hx⟩ := Option.map_eq_some_iff.mp hgot
  obtain ⟨hvalue, hpend⟩ := Prod.mk.inj hx
  exact ⟨t, got, hvalue, hpend, hflown⟩

/-- The write of a word that finds no other one still to complete can be read off the warp's writes. -/
theorem State.writesS_inj {t : State} {d : BitVec 6} {v v' : Word64} (hpend : t.w.pend = [])
    (h : t.writesS 0 d v = t.writesS 0 d v') : v = v' := by
  have hw := congrArg (fun s : State => s.w.pend) h
  simp only [State.w_writesS, Warp.issue, hpend, addPending] at hw
  simpa using hw

/-- Refutes O25: the model reads the sign of a loaded byte off the whole value that the access answered, the statement off its low
8 bits. They differ where the answer of host memory that waits for the load is wider than a byte: HOST_COMPLETION leaves none such
(R262), but the statement speaks of every state. -/
theorem not_loadResults : ¬ Obligations.LoadResults := by
  unfold Obligations.LoadResults
  intro h
  obtain ⟨t, got, hvalue, hpend, hflown⟩ := State.overAnswered_flown
  have hfresh : State.overAnswered.Fresh := ⟨by decide, by decide⟩
  have haddressed : State.overAnswered.Addressed (State.overAnswered.formN lduByte 1 false) 1
      (State.overAnswered.lanesMade true) := ⟨nofun, by decide⟩
  obtain ⟨-, -, -, -, hldu⟩ := h State.overAnswered t got {} lduByte hfresh (by decide)
  have hstated := hldu ⟨haddressed, hflown⟩
  rw [exec_ldu hfresh haddressed hflown, hvalue] at hstated
  have hsame := State.writesS_inj hpend (Host.Outcome.next.inj hstated)
  exact absurd hsame (by decide)

/-! ### Stores (R217, R223) -/

theorem storeRegs_eq (w : BitVec 3) (d : Nat) :
    storeRegs w d = List.range' d (if w = 7 then 4 else if w = 6 then 2 else 1) := by
  by_cases h7 : w = 7
  · subst h7; rfl
  · by_cases h6 : w = 6
    · subst h6; rfl
    · rw [if_neg h7, if_neg h6, storeRegs]
      split
      next h => exact absurd (BitVec.eq_of_toNat_eq h) h6
      next h => exact absurd (BitVec.eq_of_toNat_eq h) h7
      next => rfl

/-- A packed list of 32-bit words is the number whose digits they are. -/
theorem pack_words {α : Type} (f : α → Word32) (l : List α) :
    pack 32 (l.map (fun x => (f x).toNat)) = l.foldr (fun x acc => (f x).toNat + 2 ^ 32 * acc) 0 := by
  rw [pack, List.foldr_map]
  simp only [Nat.mod_eq_of_lt (f _).isLt]

theorem out_store {s t : State} {got : Tab Nat} {fm : Form} {u : Bool} {d : Nat} {w : BitVec 3} (hfresh : s.Fresh)
    (hactive : s.active ≠ 0) (huniform : s.Uniform u (storeRegs w d ++ fm.off.toList))
    (hdata : ∀ r ∈ storeRegs w d, ∀ l, s.active.getLsbD l = true → (s.V r l).tag ≠ .empty)
    (haddressed : s.Addressed fm (widthBytes w) (s.lanesMade (u || fm.same)))
    (hflown : s.flown false { s.flight fm 1 (u || fm.same) (fun l => .write (widthBytes w)
      (s.storeVal w d (if fm.same && !u then (lanesOf s.active).getLastD 0 else l))) with commits := !fm.scratch } =
      some (t, got)) : (s.store fm u d w).out = .next t.progressed.ended := by
  rw [State.store]
  refine out_runFlight_kept (fl := { s.flight fm 1 _ _ with keep := true, logs := !fm.scratch, commits := !fm.scratch })
    hfresh ?checks rfl rfl rfl hflown (fun _ _ => ?ends) rfl
  case checks =>
    rw [Chk.bind_ok (checkUniform_ok huniform), Chk.bind_ok (checkData_ok hdata), Chk.bind_ok (checkOffset_ok hactive haddressed),
      Chk.bind_ok (checkForm_ok haddressed 1 false)]
    rfl
  case ends => rfl

/-- Settles O26: the checks pass, and what a lane stores is the number whose digits its registers are. -/
theorem storeResults : Obligations.StoreResults := by
  unfold Obligations.StoreResults
  intro s t got om on regs value stores hfresh hactive
  have hregs (w d) : storeRegs w d.toNat = regs w d := storeRegs_eq w d.toNat
  have hvalue (w d i) : value w d i = s.storeVal w d.toNat i := by
    rw [State.storeVal, hregs, pack_words]
  have hstores {i fm u d w} (hexec : exec i s = (s.store fm u d.toNat w).out) : stores i fm u d w := by
    simp only [stores, ← hregs, hvalue]
    intro huniform hdata haddressed hflown
    exact hexec.trans (out_store hfresh hactive huniform hdata haddressed hflown)
  exact ⟨hstores rfl, hstores rfl, hstores rfl, hstores rfl⟩

/-! ### ATM and the exact sums (R225 to R228) -/

theorem State.Uniform.mono {s : State} {u : Bool} {rs rs' : List Nat} (h : s.Uniform u rs) (hsub : ∀ r ∈ rs', r ∈ rs) :
    s.Uniform u rs' :=
  fun hu hc r hr => h hu hc r (hsub r hr)

/-- The old values of an ATM: with the uniform bit every active lane receives that of the one access (R221, R226). -/
def State.oldsOf (t : State) (u : Bool) (got : Tab Nat) : Tab Nat :=
  if u then (lanesOf t.active).map (fun l => (l, Tab.get got 0 (lowLane t.active))) else got

theorem checkAtm_ok {s : State} {op : BitVec 3} {d : Nat} {tag : Tag} (hactive : s.active ≠ 0)
    (haccepts : atmAccepts op tag = true) (halign : d % atmRegs op tag = 0) (hroom : d + atmRegs op tag ≤ s.vregs)
    (htag : s.Tagged tag d) (hnew : op = 7 → s.Tagged tag (d + atmRegs op tag / 2)) : s.checkAtm op d = .ok tag := by
  rw [State.checkAtm, Chk.bind_ok (checkOne_ok hactive htag.1 3 haccepts false)]
  simp only [halign, bne_self_eq_false, Bool.false_eq_true, if_false, Nat.not_lt.mpr hroom]
  rw [Chk.bind_ok (checkPair_ok htag 3)]
  by_cases h7 : op = 7
  · rw [if_pos h7, Chk.bind_ok (checkSame_ok hactive (hnew h7) 3)]
    rfl
  · rw [if_neg h7]
    rfl

section
variable {s t : State} {got : Tab Nat} {fm : Form} {u : Bool} (hfresh : s.Fresh) (hactive : s.active ≠ 0)
include hfresh hactive

theorem out_atomic {form : Nat → Form} {op : BitVec 3} {d : Nat} {tag : Tag} (haccepts : atmAccepts op tag = true)
    (halign : d % atmRegs op tag = 0) (hroom : d + atmRegs op tag ≤ s.vregs) (htag : s.Tagged tag d)
    (hnew : op = 7 → s.Tagged tag (d + atmRegs op tag / 2))
    (huniform : s.Uniform u (List.range' d (atmRegs op tag) ++ (form 4).off.toList))
    (haddressed : s.Addressed (form 4) (if tag == .f64l then 8 else 4) (s.lanesMade u))
    (hflown : s.flown true (s.flight (form 4) 2 u (fun l => .atm op (BitVec.ofNat 4 tag.code) (s.wordAt d tag l)
      (if op = 7 then s.wordAt (d + atmRegs op tag / 2) tag l else 0))) = some (t, got)) :
    (s.atomic form u op d).out = .next ((t.putAll 0 ((t.oldsOf u got).flatMap (fun e =>
      if tag == .f64l then laneWrites d tag e.1 [e.2] else [.v d e.1 ⟨BitVec.ofNat 32 e.2, tag⟩]))).progressed.ended) := by
  have hpos : 0 < atmRegs op tag := by
    rw [atmRegs]
    positivity
  have hfirst : s.Uniform u (d :: (form 4).off.toList) := huniform.mono fun r hr => by
    simp only [List.mem_append, List.mem_range'_1]
    exact (List.mem_cons.mp hr).imp (fun hd => by omega) id
  have hrest : s.Uniform u ((List.range (atmRegs op tag)).tail.map (d + ·)) := huniform.mono fun r hr => by
    obtain ⟨k, hk, rfl⟩ := List.mem_map.mp hr
    have := List.mem_range.mp (List.mem_of_mem_tail hk)
    simp only [List.mem_append, List.mem_range'_1]
    omega
  have hlow : (s.V d (lowLane s.active)).tag = tag := htag.1.2 _ (lowLane_active hactive)
  rw [State.atomic, hlow]
  refine out_runFlight_kept (fl := { s.flight (form 4) 2 _ _ with keep := true, old := some (d, tag) }) hfresh
    ?checks rfl rfl rfl hflown (fun _ _ => ?ends) rfl
  case checks =>
    rw [Chk.bind_ok (checkUniform_ok hfirst), Chk.bind_ok (checkAtm_ok hactive haccepts halign hroom htag hnew),
      Chk.bind_ok (checkUniform_ok hrest), Chk.bind_ok (checkOffset_ok hactive haddressed),
      Chk.bind_ok (checkForm_ok haddressed 2 false)]
    rfl
  case ends => cases u <;> rfl

theorem out_exactAdd {d : Nat} (huniform : s.Uniform u (d :: fm.off.toList)) (htag : s.Tagged .f32 d)
    (haddressed : s.Addressed fm 64 (s.lanesMade u))
    (hflown : s.flown true (s.flight fm 2 u (fun l => .xadd (s.V d l).val)) = some (t, got)) :
    (s.exactAdd fm u d).out = .next t.progressed.ended := by
  rw [State.exactAdd]
  refine out_runFlight_kept (fl := { s.flight fm 2 _ _ with keep := true, logs := true }) hfresh ?checks rfl rfl rfl hflown
    (fun _ _ => ?ends) rfl
  case checks =>
    rw [Chk.bind_ok (checkUniform_ok huniform), Chk.bind_ok (checkTag_ok hactive htag 3 rfl),
      Chk.bind_ok (checkOffset_ok hactive haddressed), Chk.bind_ok (checkForm_ok haddressed 2 false)]
    rfl
  case ends => rfl

theorem exec_xclr {o : OpM} (huniform : s.Uniform o.u (s.formM o 64).off.toList)
    (haddressed : s.Addressed (s.formM o 64) 64 (s.lanesMade o.u))
    (hflown : s.flown true (s.flight (s.formM o 64) 2 o.u (fun _ => .xclr)) = some (t, got)) :
    exec (.xclr o) s = .next t.progressed.ended := by
  refine out_runFlight_kept (fl := { s.flight _ 2 _ _ with keep := true, logs := true }) hfresh ?checks rfl rfl rfl hflown
    (fun _ _ => rfl) rfl
  rw [Chk.bind_ok (checkUniform_ok huniform), Chk.bind_ok (checkOffset_ok hactive haddressed),
    Chk.bind_ok (checkForm_ok haddressed 2 false)]
  rfl

theorem out_exactRead {d : Nat} {w : BitVec 3} (huniform : s.Uniform u fm.off.toList)
    (haddressed : s.Addressed fm 64 (s.lanesMade (u || fm.same)))
    (hflown : s.flown false (s.flight fm 2 (u || fm.same) (fun _ => .xrd (w.extractLsb' 0 2) (w.getLsbD 2))) = some (t, got)) :
    (s.exactRead fm u d w).out = .next (t.writes 0 ((lanesOf t.active).flatMap (fun l =>
      let v := Tab.get got 0 (if u || fm.same then lowLane t.active else l)
      if w.getLsbD 2 then [.v d l ⟨BitVec.ofNat 32 v, .f64l⟩, .v (d + 1) l ⟨BitVec.ofNat 32 (v / 2 ^ 32), .f64h⟩]
      else [.v d l ⟨BitVec.ofNat 32 v, .f32⟩]))) := by
  rw [State.exactRead]
  refine out_runFlight hfresh ?checks rfl rfl rfl hflown (fun _ _ => ?ends) rfl
  case checks =>
    rw [Chk.bind_ok (checkUniform_ok huniform), Chk.bind_ok (checkOffset_ok hactive haddressed),
      Chk.bind_ok (checkForm_ok haddressed 2 false)]
    rfl
  case ends => cases w.getLsbD 2 <;> rfl

end

/-- Settles O27: the checks of each word pass, and its flight ends with the values that its lanes received. -/
theorem atomicResults : Obligations.AtomicResults := by
  unfold Obligations.AtomicResults
  intro s t got om on tag atm sums read hfresh hactive
  have hatm {i form u op d} (hexec : exec i s = (s.atomic form u op d).out) : atm i (form 4) u op d := by
    intro haccepts halign hroom htag hnew huniform haddressed hflown
    have := out_atomic (t := t) (got := got) (u := u) (d := d) (form := form) hfresh hactive haccepts
    simp only [beq_iff_eq, atmRegs, State.wordAt] at this
    exact hexec.trans (this halign hroom htag hnew huniform haddressed hflown)
  have hread {i fm u w d} (hexec : exec i s = (s.exactRead fm u d w).out) : read i fm u w d := by
    intro huniform haddressed hflown
    exact hexec.trans (out_exactRead hfresh hactive huniform haddressed hflown)
  refine ⟨hatm (form := s.formM om) rfl, hatm (form := fun n => s.formN on n false) rfl,
    fun huniform htag haddressed hflown => out_exactAdd hfresh hactive huniform htag haddressed hflown,
    fun huniform htag haddressed hflown => out_exactAdd hfresh hactive huniform htag haddressed hflown,
    fun huniform haddressed hflown => exec_xclr hfresh hactive huniform haddressed hflown, hread rfl, hread rfl⟩

end Sys2Proof.Machine

namespace Sys2Proof.Machine

/-! ## Messages on rings (O31; R187, R188, R233 to R237) -/

/-! ### What a read of a backing page leaves in place: the cycle, and the word in focus

A delivery may find scratch pages that have not been pinned since their workgroup was restored, and then reads them from memory. The
status that SEND issues after it must still be that of the word in focus, in its cycle. -/

/-- The cycle, and the word in focus: what decides how a register write is issued (R95, R98). -/
def State.issuing (s : State) : Nat × Focus := (s.now, s.focus)

/-- The wakes of a ring change warps alone. -/
theorem State.wakeRing_keeps {β : Type} (p : State → β)
    (hwarp : ∀ (s : State) (c k : Nat) (w : Warp), p (s.setWarp c k w) = p s) (s : State) (c g ofs held : Nat) :
    p (s.wakeRing c g ofs held) = p s := by
  refine foldl_keeps p _ (fun t e => ?_) _ _
  split
  · refine foldl_keeps p _ (fun u x => ?_) _ _
    split
    · split
      · exact (hwarp ..).trans (hwarp ..)
      · rfl
    · rfl
  · rfl

namespace State

theorem issuing_setCore (s : State) (c : Nat) (x : Core) : (s.setCore c x).issuing = s.issuing := rfl
theorem issuing_setDevice (s : State) (d : Nat) (x : Device) : (s.setDevice d x).issuing = s.issuing := rfl
theorem issuing_setWg (s : State) (c g : Nat) (x : Workgroup) : (s.setWg c g x).issuing = s.issuing := rfl
theorem issuing_logEvent (s : State) (e : Event) : (s.logEvent e).issuing = s.issuing := by
  simp only [issuing, logEvent_now, logEvent_focus]

theorem issuing_reclassify (s : State) (key : Nat) (c : PageClass) : (s.reclassify key c).issuing = s.issuing :=
  s.reclassify_keeps issuing (fun _ _ _ => rfl) (fun _ _ => rfl) key c

theorem issuing_dropPage (s : State) (key : Nat) : (s.dropPage key).issuing = s.issuing := rfl

theorem issuing_cacheAccess (s : State) (core : Option Nat) (mine write : Bool) (pa : Nat) :
    (s.cacheAccess core mine write pa).issuing = s.issuing := by
  fun_cases State.cacheAccess <;> rfl

theorem issuing_ctPage (s : State) (pfn : Nat) : (s.ctPage pfn).2.issuing = s.issuing := by
  fun_cases State.ctPage <;> rfl

theorem issuing_hostEnds (s : State) : s.hostEnds.2.issuing = s.issuing := rfl
theorem issuing_countWalk (s : State) (dev : Nat) : (s.countWalk dev).issuing = s.issuing := rfl

theorem issuing_ctAccess (s : State) (pa : Nat) (write : Bool) : (s.ctAccess pa write).issuing = s.issuing := by
  fun_cases State.ctAccess
  grind [issuing_ctPage, issuing_cacheAccess, issuing_reclassify, issuing_dropPage, issuing]

theorem issuing_walkEntry (s : State) (dev va shift pa : Nat) :
    (s.walkEntry dev va shift pa).2.issuing = s.issuing := by
  fun_cases State.walkEntry <;> grind [issuing_ctAccess, issuing_hostEnds]

theorem issuing_walkFrom (s : State) (dev va pa : Nat) (levels : List Nat) :
    (s.walkFrom dev va pa levels).2.issuing = s.issuing := by
  fun_induction State.walkFrom <;> grind [issuing_walkEntry]

theorem issuing_enterTlb (s : State) (c va : Nat) (w : Walk) : (s.enterTlb c va w).issuing = s.issuing := by
  cases w <;> rfl

theorem issuing_walkTable (s : State) (dev va : Nat) : (s.walkTable dev va).2.issuing = s.issuing := by
  fun_cases State.walkTable <;> grind [issuing_countWalk, issuing_walkFrom]

theorem issuing_missWalk (s : State) (c va : Nat) : (s.missWalk c va).2.issuing = s.issuing := by
  fun_cases State.missWalk <;> grind [issuing_countWalk, issuing_walkFrom, issuing_walkTable, issuing_setCore]

theorem issuing_tlbWalk (s : State) (c va : Nat) : (s.tlbWalk c va).2.issuing = s.issuing := by
  fun_cases State.tlbWalk <;> grind [issuing_enterTlb, issuing_missWalk]

theorem issuing_walkOn (s : State) (dev va : Nat) : (s.walkOn dev va).2.issuing = s.issuing := by
  fun_cases State.walkOn <;> grind [issuing_countWalk, issuing_walkFrom, issuing_walkTable, issuing_setDevice]

theorem issuing_walk (s : State) (dev va : Nat) : (s.walk dev va).2.issuing = s.issuing := by
  fun_cases State.walk <;> grind [issuing_walkOn]

theorem issuing_translate (s : State) (a : Actor) (va : Nat) : (s.translate a va).2.issuing = s.issuing := by
  fun_cases State.translate <;> grind [issuing_walk, issuing_tlbWalk]

theorem issuing_askDrain (s : State) (key : Nat) (r : Reclass) : (s.askDrain key r).issuing = s.issuing :=
  foldl_keeps issuing _ (fun _ p => by cases p <;> rfl) _ _

theorem issuing_classNow (s : State) (p : Party) (w : Waiter) (key : Nat) (write : Bool) (queue : List Waiter) :
    (s.classNow p w key write queue).2.issuing = s.issuing := by
  fun_cases State.classNow <;> grind [issuing_askDrain, issuing_dropPage, issuing_reclassify, issuing]

theorem issuing_classAccess (s : State) (p : Party) (w : Waiter) (drains : List Nat) (key : Nat) (write : Bool) :
    (s.classAccess p w drains key write).2.issuing = s.issuing := by
  fun_cases State.classAccess <;> grind [issuing_classNow, issuing]

theorem issuing_nameMapping (s : State) (key dev page : Nat) : (s.nameMapping key dev page).issuing = s.issuing := by
  fun_cases State.nameMapping <;> rfl

theorem issuing_classFor (s : State) (a : Actor) (l : Leaf) (va : Nat) (write : Bool) :
    (s.classFor a l va write).2.issuing = s.issuing := by
  fun_cases State.classFor <;> grind [issuing_classAccess, issuing_nameMapping]

theorem issuing_meet (s : State) (a : Actor) (hit : Bool) : (s.meet a hit).2.issuing = s.issuing := by
  fun_cases State.meet <;> rfl

theorem issuing_learn (s : State) (c va : Nat) (l : Leaf) : (s.learn c va l).issuing = s.issuing := by
  fun_cases State.learn <;> rfl

theorem issuing_unreadable (s : State) (a : Actor) (pa va : Nat) : (s.unreadable a pa va).2.issuing = s.issuing :=
  issuing_logEvent ..

theorem issuing_hostLoad (s : State) (a : Actor) (pa : Nat) (op : MemOp) : (s.hostLoad a pa op).2.issuing = s.issuing := by
  fun_cases State.hostLoad <;> rfl

theorem issuing_performFor_read (s : State) (a : Actor) (pa va n : Nat) :
    (s.performFor a pa va (.read n)).2.issuing = s.issuing := rfl

theorem issuing_hostNow_read (s : State) (a : Actor) (pa va n : Nat) :
    (s.hostNow a pa va (.read n)).2.issuing = s.issuing := by
  fun_cases State.hostNow <;> grind [issuing_hostEnds, issuing_performFor_read]

theorem issuing_homeAccessAt_read (s : State) (a : Actor) (l : Leaf) (va n : Nat) :
    (s.homeAccessAt a l va (.read n)).2.issuing = s.issuing := by
  simp only [State.homeAccessAt]
  grind [issuing_hostLoad, issuing_hostNow_read, issuing_classFor, issuing_meet, issuing_unreadable, issuing_cacheAccess,
    issuing_performFor_read, issuing_learn, issuing]

theorem issuing_readPager (s : State) (dev i type : Nat) : (s.readPager dev i type).2.issuing = s.issuing := by
  fun_cases State.readPager <;> grind [issuing_ctAccess, issuing_hostEnds]

theorem issuing_pagerLost (s : State) (a : Actor) (dev i va : Nat) (c : BitVec 10) :
    (s.pagerLost a dev i va c).2.issuing = s.issuing := by
  fun_cases State.pagerLost
  grind [issuing_logEvent]

theorem issuing_notPresent (s : State) (dev pgr va : Nat) (a : Actor) (here : Bool) :
    (s.notPresent dev pgr va a here).2.issuing = s.issuing := by
  fun_cases State.notPresent <;> grind [issuing_readPager, issuing_pagerLost, issuing_setDevice]

theorem issuing_targetFault (s : State) (dev : Nat) (a : Actor) (va : Nat) (c : BitVec 10) :
    (s.targetFault dev a va c).2.issuing = s.issuing := by
  fun_cases State.targetFault <;> grind [issuing_logEvent]

theorem issuing_targetLeaf (s : State) (dev : Nat) (a : Actor) (va : Nat) (op : MemOp) :
    (s.targetLeaf dev a va op).2.issuing = s.issuing := by
  fun_cases State.targetLeaf <;> grind [issuing_targetFault, issuing_walk, issuing_unreadable, issuing_notPresent]

theorem issuing_targetAccess_read (s : State) (dev : Nat) (a : Actor) (va n : Nat) :
    (s.targetAccess dev a va (.read n)).2.issuing = s.issuing := by
  fun_cases State.targetAccess <;> grind [issuing_targetLeaf, issuing_homeAccessAt_read, issuing_targetFault]

theorem issuing_remoteAccess (s : State) (a : Actor) (e : Import) (va : Nat) (op : MemOp) :
    (s.remoteAccess a e va op).2.issuing = s.issuing := by
  fun_cases State.remoteAccess <;> grind [State.dropReq, issuing]

theorem issuing_nearAccess_read (s : State) (a : Actor) (e : Import) (page va n : Nat) :
    (s.nearAccess a e page va (.read n)).2.issuing = s.issuing := by
  fun_cases State.nearAccess <;> grind [State.dropReq, issuing_targetAccess_read, issuing]

theorem issuing_peerAccess_read (s : State) (a : Actor) (l : Leaf) (va n : Nat) :
    (s.peerAccess a l va (.read n)).2.issuing = s.issuing := by
  fun_cases State.peerAccess <;> grind [issuing_nearAccess_read, issuing_remoteAccess]

theorem issuing_accessLeaf_read (s : State) (a : Actor) (l : Leaf) (va n : Nat) :
    (s.accessLeaf a l va (.read n)).2.issuing = s.issuing := by
  fun_cases State.accessLeaf <;> grind [issuing_peerAccess_read, issuing_homeAccessAt_read]

theorem issuing_performNow_read (s : State) (a : Actor) (l : Leaf) (va n : Nat) :
    (s.performNow a l va (.read n)).2.issuing = s.issuing := by
  fun_cases State.performNow <;> grind [issuing_unreadable, issuing_performFor_read, issuing_cacheAccess]

theorem issuing_backingOp_read (s : State) (c task va n : Nat) :
    (s.backingOp c task va (.read n)).2.issuing = s.issuing := by
  fun_cases State.backingOp <;>
    grind [issuing_translate, issuing_walkTable, issuing_unreadable, issuing_accessLeaf_read, issuing_performNow_read]

theorem issuing_backingLines (s : State) (c task va n : Nat) : (s.backingLines c task va n).2.issuing = s.issuing := by
  fun_induction State.backingLines <;> grind [issuing_backingOp_read]

theorem issuing_readBacking (s : State) (c task : Nat) (ps : List Nat) (sh acc : Nat) :
    (s.readBacking c task ps sh acc).2.issuing = s.issuing := by
  fun_induction State.readBacking <;> grind [issuing_backingLines]

theorem issuing_pin (s : State) (c g : Nat) (ps : List Nat) : (s.pin c g ps).issuing = s.issuing := by
  fun_induction State.pin <;> grind [issuing_readBacking, issuing_setWg]

theorem issuing_scratchOp (s : State) (c g off : Nat) (op : MemOp) : (s.scratchOp c g off op).2.issuing = s.issuing := by
  fun_cases State.scratchOp <;> grind [issuing_pin, issuing_setWg]

theorem issuing_ringAt (s : State) (c g ofs : Nat) : (s.ringAt c g ofs).2.issuing = s.issuing := by
  fun_cases State.ringAt <;> grind [State.scratchRead, issuing_scratchOp]

theorem issuing_wakeRing (s : State) (c g ofs held : Nat) : (s.wakeRing c g ofs held).issuing = s.issuing :=
  s.wakeRing_keeps issuing (fun _ _ _ _ => rfl) c g ofs held

theorem issuing_deliver (s : State) (c g ofs : Nat) (payload : List Word32) :
    (s.deliver c g ofs payload).2.issuing = s.issuing := by
  fun_cases State.deliver <;> grind [issuing_ringAt, State.scratchWrite, issuing_scratchOp, issuing_wakeRing]

end State

/-! ### Scratch whose touched pages all stand in the window -/

@[simp] theorem State.setWg_setWg (s : State) (c g : Nat) (x y : Workgroup) : (s.setWg c g x).setWg c g y = s.setWg c g y := by
  simp [State.setWg]

section
variable {s : State} {c g : Nat} (hsettled : (s.wg c g).Settled)
include hsettled

theorem State.scratchRead_settled (off n : Nat) :
    s.scratchRead c g off n = ((s.wg c g).scratch.read off n, s.setWg c g ((s.wg c g).touch off n)) :=
  State.scratchOp_read fun p _ => hsettled p

end

theorem mem_foldl_addNat_iff {x : Nat} (l marked : List Nat) : x ∈ l.foldl addNat marked ↔ x ∈ l ∨ x ∈ marked := by
  induction l generalizing marked with
  | nil => simp
  | cons y l ih => rw [List.foldl_cons, ih, mem_addNat, List.mem_cons, or_left_comm, or_assoc]

/-- A touch pins what it touches (R188). -/
theorem Workgroup.Settled.touch {x : Workgroup} (h : x.Settled) (off n : Nat) : (x.touch off n).Settled := fun p hp =>
  (mem_foldl_addNat_iff _ _).mpr (((mem_foldl_addNat_iff _ _).mp hp).imp_right (h p))

/-- A workgroup after a write of bytes to its window (R187, R188). -/
def Workgroup.stored (x : Workgroup) (off n v : Nat) : Workgroup :=
  { x.touch off n with scratch := x.scratch.write off n v }

@[simp] theorem Workgroup.scratch_touch (x : Workgroup) (off n : Nat) : (x.touch off n).scratch = x.scratch := rfl

@[simp] theorem Workgroup.scratch_stored (x : Workgroup) (off n v : Nat) :
    (x.stored off n v).scratch = x.scratch.write off n v := rfl

theorem Workgroup.Settled.stored {x : Workgroup} (h : x.Settled) (off n v : Nat) : (x.stored off n v).Settled := h.touch off n

section
variable {x : Workgroup} (hsettled : x.Settled) (s : State) (c g off n : Nat)
include hsettled

theorem State.scratchRead_setWg :
    (s.setWg c g x).scratchRead c g off n = (x.scratch.read off n, s.setWg c g (x.touch off n)) := by
  rw [State.scratchRead_settled (by rwa [State.wg_setWg]), State.wg_setWg, State.setWg_setWg]

theorem State.scratchWrite_setWg (v : Nat) :
    (s.setWg c g x).scratchWrite c g off n v = s.setWg c g (x.stored off n v) := by
  rw [State.scratchWrite, State.scratchOp_write fun p _ => by rw [State.wg_setWg]; exact hsettled p, State.wg_setWg,
    State.setWg_setWg]
  rfl

end

@[simp] theorem State.windowOf_setWg_touch (s : State) (c g off n : Nat) :
    (s.setWg c g ((s.wg c g).touch off n)).windowOf c g = s.windowOf c g := by
  simp only [State.windowOf, State.wg_setWg]
  rfl

/-! ### The writes that a word issues -/

theorem mem_foldl_addPending {q : Pending} {f : RegWrite → Pending} (ws : List RegWrite) (l : List Pending) :
    q ∈ ws.foldl (fun p x => addPending (f x) p) l ↔ (∃ x ∈ ws, q = f x) ∨ q ∈ l := by
  induction ws generalizing l with
  | nil => simp
  | cons x ws ih => rw [List.foldl_cons, ih, mem_addPending, List.exists_mem_cons_iff, or_left_comm, or_assoc]

/-- A state with the word of `s` in focus, in the cycle of `s`, issues what it writes as `s` does. -/
theorem issues_writes {s u : State} (h : u.issuing = s.issuing) {ws : List RegWrite} {x : RegWrite} (hx : x ∈ ws) :
    Issues s (u.writes 0 ws) 0 x := by
  obtain ⟨hnow, hfocus⟩ := Prod.mk.inj h
  rw [Issues, ← hnow, ← hfocus, show (u.writes 0 ws).w = _ from State.warp_setWarp u ..]
  exact (mem_foldl_addPending ws _).mpr (.inl ⟨x, hx, rfl⟩)

theorem State.putAll_putAll (s : State) (lat : Nat) (xs ys : List RegWrite) :
    (s.putAll lat xs).putAll lat ys = s.putAll lat (xs ++ ys) := by
  simp only [State.putAll, State.putFor]
  simp

@[simp] theorem State.wg_writes (s : State) (lat : Nat) (ws : List RegWrite) (c g : Nat) :
    (s.writes lat ws).wg c g = s.wg c g := State.wg_setWarp ..

@[simp] theorem State.wg_writesS (s : State) (lat : Nat) (d : BitVec 6) (v : Word64) (c g : Nat) :
    (s.writesS lat d v).wg c g = s.wg c g := State.wg_writes ..

theorem sameMemory_writesS {s u : State} (h : u.mem = s.mem) (lat : Nat) (d : BitVec 6) (v : Word64) :
    SameMemory s (u.writesS lat d v) := fun a => congrArg (fun m : Memory => m.get a) h

/-! ### The header of a ring (R233) -/

section
variable {s : State} {c g ofs : Nat}

theorem State.ringAt_beyond (hwindow : s.windowOf c g < ofs + 64) : s.ringAt c g ofs = (none, s) := by
  rw [State.ringAt, if_pos hwindow]

theorem State.ringAt_invalid (hsettled : (s.wg c g).Settled) (hwindow : ofs + 64 ≤ s.windowOf c g)
    (hring : (Ring.of ((s.wg c g).scratch.read ofs 64)).ok ofs (s.windowOf c g) = false) :
    s.ringAt c g ofs = (none, s.setWg c g ((s.wg c g).touch ofs 64)) := by
  rw [State.ringAt, if_neg (Nat.not_lt.mpr hwindow), State.scratchRead_settled hsettled]
  simp only [State.windowOf_setWg_touch, hring, Bool.false_eq_true, if_false]

theorem State.ringAt_valid {r : Ring} (h : s.RingAt c g ofs r) :
    s.ringAt c g ofs = (some r, s.setWg c g ((s.wg c g).touch ofs 64)) := by
  obtain ⟨hsettled, hwindow, rfl, hring⟩ := h
  rw [State.ringAt, if_neg (Nat.not_lt.mpr hwindow), State.scratchRead_settled hsettled]
  simp only [State.windowOf_setWg_touch, hring, if_true]

end

/-! ### A delivery (R235) -/

section
variable {s : State} {c g ofs : Nat} {r : Ring} {payload : List Word32}

theorem State.deliver_noRing (hsettled : (s.wg c g).Settled) (h : s.windowOf c g < ofs + 64 ∨
      (Ring.of ((s.wg c g).scratch.read ofs 64)).ok ofs (s.windowOf c g) = false) :
    (s.deliver c g ofs payload).1 = -3 ∧ ((s.deliver c g ofs payload).2.wg c g).scratch = (s.wg c g).scratch := by
  rcases Nat.lt_or_ge (s.windowOf c g) (ofs + 64) with hwindow | hwindow
  · rw [State.deliver, State.ringAt_beyond hwindow]
    exact ⟨rfl, rfl⟩
  · rw [State.deliver, State.ringAt_invalid hsettled hwindow (h.resolve_left (Nat.not_lt.mpr hwindow))]
    exact ⟨rfl, by rw [State.wg_setWg]; rfl⟩

variable (hring : s.RingAt c g ofs r)
include hring

theorem State.deliver_long (hlen : 16 * r.ssz < 16 + 4 * payload.length) :
    s.deliver c g ofs payload = (-4, s.setWg c g ((s.wg c g).touch ofs 64)) := by
  simp only [State.deliver, State.ringAt_valid hring, if_pos hlen]

variable (hlen : 16 + 4 * payload.length ≤ 16 * r.ssz)
include hlen

theorem State.deliver_full (hfull : 2 ^ r.slog ≤ r.held) : s.deliver c g ofs payload =
    (-1, s.setWg c g (((s.wg c g).touch ofs 64).stored (ofs + 12) 4 (min (r.drop + 1) (2 ^ 32 - 1)))) := by
  simp only [State.deliver, State.ringAt_valid hring, Ring.slots, Nat.not_lt.mpr hlen, hfull, if_false, if_true,
    State.scratchWrite_setWg (hring.1.touch ofs 64)]

theorem State.deliver_lands (hroom : r.held < 2 ^ r.slog) :
    (s.deliver c g ofs payload).1 = 0 ∧ (s.deliver c g ofs payload).2.mem = s.mem ∧
    ((s.deliver c g ofs payload).2.wg c g).scratch =
      (((s.wg c g).scratch.write (r.slot ofs r.tail) 16 (4 * payload.length)).write (r.slot ofs r.tail + 16)
        (4 * payload.length) (payload.foldr (fun v acc => v.toNat + 2 ^ 32 * acc) 0)).write ofs 4 ((r.tail + 1) % 2 ^ 32) := by
  have h0 := hring.1.touch ofs 64
  have h1 := h0.stored (r.slot ofs r.tail) 16 (4 * payload.length)
  have h2 := h1.stored (r.slot ofs r.tail + 16) (4 * payload.length) (payload.foldr (fun v acc => v.toNat + 2 ^ 32 * acc) 0)
  simp only [State.deliver, State.ringAt_valid hring, Ring.slots, Nat.not_lt.mpr hlen, Nat.not_le.mpr hroom, if_false,
    pack_words (fun v => v), State.scratchWrite_setWg h0, State.scratchWrite_setWg h1, State.scratchWrite_setWg h2]
  refine ⟨trivial, State.wakeRing_keeps State.mem (fun _ _ _ _ => rfl) .., ?_⟩
  rw [State.wakeRing_keeps (State.wg · c g) (fun t _ _ w => t.wg_setWarp ..), State.wg_setWg]
  simp only [Workgroup.scratch_stored, Workgroup.scratch_touch]

end

/-! ### SEND (R234, R235) -/

/-- The warp in focus of a committed state differs in its mark alone. -/
theorem Warp.applyAll_committed (w : Warp) (b : Bool) (ps : List Pending) :
    ({ w with committed := b } : Warp).applyAll ps = { w.applyAll ps with committed := b } := by
  induction ps generalizing w with
  | nil => rfl
  | cons p ps ih =>
    have happly : ({ w with committed := b } : Warp).apply p.write = { w.apply p.write with committed := b } := by
      cases p.write with
      | spr n x =>
        rw [Warp.apply, Warp.apply]
        split
        · rfl
        · split <;> rfl
      | _ => rfl
    rw [Warp.applyAll_cons, happly, ih, Warp.applyAll_cons]

@[simp] theorem State.view_commit (s : State) : s.commit.view = { s.view with committed := true } := by
  rw [State.view, State.commit, State.w_setW]
  exact Warp.applyAll_committed ..

@[simp] theorem State.S_commit (s : State) (r : BitVec 6) : s.commit.S r = s.S r := by
  rw [State.S, State.view_commit, State.S]

@[simp] theorem State.V_commit (s : State) (r i : Nat) : s.commit.V r i = s.V r i := by
  rw [State.V, State.view_commit, State.V]

@[simp] theorem State.active_commit (s : State) : s.commit.active = s.active := by
  rw [State.active, State.commit, State.f_setW]
  rfl

@[simp] theorem State.wg_commit (s : State) (c g : Nat) : s.commit.wg c g = s.wg c g := State.wg_setWarp ..

@[simp] theorem State.windowOf_commit (s : State) (c g : Nat) : s.commit.windowOf c g = s.windowOf c g := by
  rw [State.windowOf, State.wg_commit]
  rfl

theorem State.find_wgs_commit (s : State) (c g : Nat) :
    Tab.find (s.commit.core c).wgs g = Tab.find (s.core c).wgs g := by
  rw [State.commit, State.setW, State.setWarp]
  by_cases hc : c = s.focus.core
  · rw [hc, State.core_setCore]
  · rw [State.core_setCore_other _ _ _ _ hc]

theorem State.RingAt.commit {s : State} {c g ofs : Nat} {r : Ring} (h : s.RingAt c g ofs r) : s.commit.RingAt c g ofs r := by
  simpa only [State.RingAt, State.wg_commit, State.windowOf_commit] using h

/-- The delivery that the handle `h` asks for, with its status. -/
def State.sendTo (s : State) (h : Nat) (payload : List Word32) : Int × State :=
  if 192 ≤ bitsOf h 25 18 || dieOf (bitsOf h 25 18) != s.die || bitOf h 31 || bitsOf h 17 0 % 64 != 0 then (-5, s)
  else match Tab.find (s.core (bitsOf h 25 18)).wgs (bitsOf h 30 26) with
    | none => (-2, s)
    | some x => if x.rplc != bitsOf h 63 32 then (-2, s)
      else s.deliver (bitsOf h 25 18) (bitsOf h 30 26) (bitsOf h 17 0) payload

theorem State.issuing_sendTo (s : State) (h : Nat) (payload : List Word32) : (s.sendTo h payload).2.issuing = s.issuing := by
  unfold State.sendTo
  split
  · rfl
  · split
    · rfl
    · split
      · rfl
      · exact State.issuing_deliver ..

/-- The delivery of the SEND in focus, with its status (R235). -/
def State.sent (s : State) (o : OpR) : Int × State :=
  s.commit.sendTo (s.S o.a).toNat ((lanesOf s.active).map (fun i => (s.V o.b.toNat i).val))

section
variable {s : State} {o : OpR} (hdata : ∀ i, s.active.getLsbD i = true → (s.V o.b.toNat i).tag ≠ .empty)
include hdata

theorem exec_send : exec (.send o) s = .next ((s.sent o).2.writesS 0 o.d (w64 (s.sent o).1)) := by
  have hcheck : (lanesOf s.active).find? (fun i => (s.V o.b.toNat i).tag == .empty) = none :=
    find?_lanes_none (by simpa using hdata)
  change execSend o s = _
  simp only [execSend, Chk.run, State.S_commit, State.V_commit, State.active_commit, hcheck]
  rfl

/-- A SEND whose lanes hold a message ends, and its status is that of the delivery (R235). -/
theorem completes_send {st : Int} {u : State} {q : State → Prop} (hsent : s.sent o = (st, u))
    (hq : q (u.writesS 0 o.d (w64 st))) :
    Completes (exec (.send o) s) (fun t => Issues s t 0 (.s o.d.toNat (w64 st)) ∧ q t) := by
  have hissuing : (s.sent o).2.issuing = s.issuing := State.issuing_sendTo ..
  have hnext := exec_send hdata
  rw [hsent] at hissuing hnext
  exact ⟨_, hnext, rfl, issues_writes hissuing (List.mem_singleton.mpr rfl), hq⟩

end

section
variable {s : State} {h : Nat} (payload : List Word32)

theorem State.sendTo_badHandle (hbad : 192 ≤ bitsOf h 25 18 ∨ dieOf (bitsOf h 25 18) ≠ s.die ∨ bitOf h 31 = true ∨
    bitsOf h 17 0 % 64 ≠ 0) : s.sendTo h payload = (-5, s) := by
  rw [State.sendTo, if_pos (by simpa [or_assoc] using hbad)]

variable (hcore : bitsOf h 25 18 < 192) (hdie : dieOf (bitsOf h 25 18) = s.die) (hbit : bitOf h 31 = false)
  (halign : bitsOf h 17 0 % 64 = 0)
include hcore hdie hbit halign

/-- The workgroup that the handle was made for is not there (R235). -/
theorem State.sendTo_gone (hgone : Tab.find (s.core (bitsOf h 25 18)).wgs (bitsOf h 30 26) = none ∨
    (s.wg (bitsOf h 25 18) (bitsOf h 30 26)).rplc ≠ bitsOf h 63 32) : s.sendTo h payload = (-2, s) := by
  rw [State.sendTo, if_neg (by simp [hcore, hdie, hbit, halign])]
  cases hfind : Tab.find (s.core (bitsOf h 25 18)).wgs (bitsOf h 30 26) with
  | none => rfl
  | some x =>
    have hx : s.wg (bitsOf h 25 18) (bitsOf h 30 26) = x := by rw [State.wg, Tab.get, hfind, Option.getD_some]
    have hrplc : x.rplc ≠ bitsOf h 63 32 := hx ▸ hgone.resolve_left (by simp [hfind])
    exact if_pos (by simpa using hrplc)

theorem State.sendTo_delivers (hthere : (Tab.find (s.core (bitsOf h 25 18)).wgs (bitsOf h 30 26)).isSome = true)
    (hrplc : (s.wg (bitsOf h 25 18) (bitsOf h 30 26)).rplc = bitsOf h 63 32) :
    s.sendTo h payload = s.deliver (bitsOf h 25 18) (bitsOf h 30 26) (bitsOf h 17 0) payload := by
  rw [State.sendTo, if_neg (by simp [hcore, hdie, hbit, halign])]
  obtain ⟨x, hfind⟩ := Option.isSome_iff_exists.mp hthere
  have hx : s.wg (bitsOf h 25 18) (bitsOf h 30 26) = x := by rw [State.wg, Tab.get, hfind, Option.getD_some]
  rw [hfind]
  exact if_neg (by simp [← hx, hrplc])

end

/-! ### RPOP and RWAIT (R236, R237) -/

section
variable {s : State} {a : BitVec 6} {f : State → Nat → Ring → Res}

theorem State.ownRing_outside (h : (s.S a).toNat % 64 ≠ 0 ∨ s.windowOf s.focus.core s.w.wg < (s.S a).toNat + 64) :
    s.ownRing a f = .trap s 0x0A1 (opndData a.toNat 0 0 0 (s.S a).toNat) := by
  by_cases halign : (s.S a).toNat % 64 = 0
  · simp [State.ownRing, halign, State.ringAt_beyond (h.resolve_left (not_not.mpr halign))]
  · simp [State.ownRing, halign]

variable (halign : (s.S a).toNat % 64 = 0)
include halign

theorem State.ownRing_invalid (hwindow : (s.S a).toNat + 64 ≤ s.windowOf s.focus.core s.w.wg) (hsettled : s.g.Settled)
    (hring : (Ring.of (s.g.scratch.read (s.S a).toNat 64)).ok (s.S a).toNat (s.windowOf s.focus.core s.w.wg) = false) :
    s.ownRing a f = .trap (s.scratchRead s.focus.core s.w.wg (s.S a).toNat 64).2 0x0A1
      (opndData a.toNat 0 0 0 (s.S a).toNat) := by
  rw [State.scratchRead_settled hsettled]
  simp only [State.ownRing, halign, State.ringAt_invalid hsettled hwindow hring, bne_self_eq_false, Bool.false_eq_true, if_false]

theorem State.ownRing_valid {r : Ring} (hring : s.RingAt s.focus.core s.w.wg (s.S a).toNat r) :
    s.ownRing a f = f (s.setG (s.g.touch (s.S a).toNat 64)) (s.S a).toNat r := by
  simp only [State.ownRing, halign, State.ringAt_valid hring, bne_self_eq_false, Bool.false_eq_true, if_false]
  rfl

end

@[simp] theorem State.w_setG (s : State) (x : Workgroup) : (s.setG x).w = s.w := State.warp_setWg ..

@[simp] theorem State.g_setG (s : State) (x : Workgroup) : (s.setG x).g = x := by
  rw [State.g, State.w_setG]
  exact State.wg_setWg ..

@[simp] theorem State.active_setG (s : State) (x : Workgroup) : (s.setG x).active = s.active :=
  congrArg (fun w : Warp => (Tab.get w.frags {} s.focus.frag).mask) (s.w_setG x)

@[simp] theorem State.g_writes (s : State) (lat : Nat) (ws : List RegWrite) : (s.writes lat ws).g = s.g := by
  have hw : (s.writes lat ws).w.wg = s.w.wg := by
    rw [show (s.writes lat ws).w = _ from State.warp_setWarp s ..]
    rfl
  rw [State.g, hw]
  exact State.wg_writes ..

@[simp] theorem State.g_writesS (s : State) (lat : Nat) (d : BitVec 6) (v : Word64) : (s.writesS lat d v).g = s.g :=
  State.g_writes ..

theorem opndData_ring (r : BitVec 6) (ofs : Nat) :
    opndData r.toNat 0 0 0 ofs = BitVec.ofNat 64 (r.toNat + ofs % 2 ^ 32 * 2 ^ 32) := by
  rw [opndData, Nat.mod_eq_of_lt r.isLt]
  simp

theorem traps_ring_words {s t : State} {o : OpR}
    (h : ∀ f, s.ownRing o.a f = .trap t 0x0A1 (opndData o.a.toNat 0 0 0 (s.S o.a).toNat)) :
    let data : Word64 := BitVec.ofNat 64 (o.a.toNat + (s.S o.a).toNat % 2 ^ 32 * 2 ^ 32)
    Traps (exec (.rpop o) s) t 0x0A1 data ∧ Traps (exec (.rwait o) s) t 0x0A1 data := by
  simp only [opndData_ring] at h
  exact ⟨congrArg Res.out (h _), congrArg Res.out (h _)⟩

/-- The workgroup after RPOP has read the header of a ring at `ofs`, the length and the bytes of its oldest message, and moved HEAD
(R236). -/
def Workgroup.popped (x : Workgroup) (ofs : Nat) (r : Ring) : Workgroup :=
  (((x.touch ofs 64).touch (r.slot ofs r.head) 4).touch (r.slot ofs r.head + 16) (16 * r.ssz - 16)).stored (ofs + 4) 4
    ((r.head + 1) % 2 ^ 32)

@[simp] theorem Workgroup.scratch_popped (x : Workgroup) (ofs : Nat) (r : Ring) :
    (x.popped ofs r).scratch = x.scratch.write (ofs + 4) 4 ((r.head + 1) % 2 ^ 32) := by
  simp only [Workgroup.popped, Workgroup.scratch_stored, Workgroup.scratch_touch]

/-- The word of the oldest message of a ring at `ofs` that lane `i` receives (R236). -/
def Workgroup.poppedWord (x : Workgroup) (ofs : Nat) (r : Ring) (i : Nat) : Word32 :=
  if i < x.scratch.read (r.slot ofs r.head) 4 / 4 then
    BitVec.ofNat 32 (x.scratch.read (r.slot ofs r.head + 16) (16 * r.ssz - 16) / 2 ^ (32 * i))
  else 0

section
variable {s : State} {o : OpR} {r : Ring} (halign : (s.S o.a).toNat % 64 = 0)
  (hring : s.RingAt s.focus.core s.w.wg (s.S o.a).toNat r)
include halign hring

/-- The handle of a ring (R236). -/
theorem exec_rpop_handle (hm : o.m = true) : exec (.rpop o) s = .next ((s.setG (s.g.touch (s.S o.a).toNat 64)).writesS 0 o.d
    (BitVec.ofNat 64 ((s.S o.a).toNat + s.focus.core * 2 ^ 18 + s.w.wg * 2 ^ 26 + s.g.rplc * 2 ^ 32))) := by
  change execRpop o s = _
  simp only [execRpop, State.ownRing_valid halign hring, hm, if_true, State.g_setG]
  rfl

theorem exec_rpop_empty (hm : o.m = false) (hempty : r.tail = r.head) :
    exec (.rpop o) s = .next ((s.setG (s.g.touch (s.S o.a).toNat 64)).writesS 0 o.d (w64 (-1))) := by
  change execRpop o s = _
  simp only [execRpop, State.ownRing_valid halign hring, hm, hempty, if_true, Bool.false_eq_true, if_false]
  rfl

theorem exec_rpop_takes (hm : o.m = false) (hheld : r.tail ≠ r.head) :
    exec (.rpop o) s = .next ((s.setG (s.g.popped (s.S o.a).toNat r)).writes 0
      ((lanesOf s.active).map (fun i => .v o.b.toNat i ⟨s.g.poppedWord (s.S o.a).toNat r i, .x32⟩) ++
        [.s o.d.toNat (BitVec.ofNat 64 (s.g.scratch.read (r.slot (s.S o.a).toNat r.head) 4))])) := by
  have h0 : (s.g.touch (s.S o.a).toNat 64).Settled := hring.1.touch _ _
  have h1 := h0.touch (r.slot (s.S o.a).toNat r.head) 4
  have h2 := h1.touch (r.slot (s.S o.a).toNat r.head + 16) (16 * r.ssz - 16)
  change execRpop o s = _
  simp only [execRpop, State.ownRing_valid halign hring, hm, hheld, Bool.false_eq_true, if_false, State.setG,
    State.scratchRead_setWg h0, State.scratchRead_setWg h1, State.scratchWrite_setWg h2, State.putLanes]
  simp only [← State.setG.eq_def, State.active_setG, State.putS, State.put, State.putAll_putAll, out_putAll]
  rfl

theorem exec_rwait_held (hheld : r.tail ≠ r.head) :
    exec (.rwait o) s = .next ((s.setG (s.g.touch (s.S o.a).toNat 64)).writesS 0 o.d (BitVec.ofNat 64 r.held)) := by
  change execRwait o s = _
  simp only [execRwait, State.ownRing_valid halign hring, bne_iff_ne.mpr hheld, if_true]
  rfl

theorem exec_rwait_waits (hempty : r.tail = r.head) : exec (.rwait o) s =
    (Res.wait (s.setG (s.g.touch (s.S o.a).toNat 64)) (.ring (s.S o.a).toNat o.d.toNat)).out := by
  change execRwait o s = _
  simp only [execRwait, State.ownRing_valid halign hring, hempty, bne_self_eq_false, Bool.false_eq_true, if_false]

end

/-- Settles O31: SEND ends with the status of its delivery, and RPOP and RWAIT read the ring of their own workgroup. -/
theorem messageResults : Obligations.MessageResults := by
  unfold Obligations.MessageResults
  intro s o r h b own g status
  refine ⟨?send, ?pop⟩
  case send =>
    intro c rg ofs payload len at_ x sends hdata
    have hends {st : Int} {u : State} {q : State → Prop} (hto : s.commit.sendTo h payload = (st, u))
        (hq : q (u.writesS 0 o.d (w64 st))) : sends (fun t => Issues s t 0 (status st) ∧ q t) := completes_send hdata hto hq
    refine ⟨?some, fun hbad => hends (State.sendTo_badHandle payload hbad) fun _ => rfl, fun hcore hdie hbit halign => ?named⟩
    case some =>
      obtain ⟨t, hnext, hdone, hissues, -⟩ := hends (q := fun _ => True) rfl trivial
      exact ⟨t, _, hnext, hdone, hissues⟩
    case named =>
      have hto (hthere : (Tab.find (s.core c).wgs rg).isSome = true) (hrplc : x.rplc = bitsOf h 63 32) :
          s.commit.sendTo h payload = s.commit.deliver c rg ofs payload :=
        State.sendTo_delivers payload hcore hdie hbit halign (by rwa [State.find_wgs_commit]) (by rwa [State.wg_commit])
      refine ⟨fun hgone => ?gone, fun hthere hrplc hsettled hinvalid => ?noRing,
        fun hthere hrplc hring => ⟨fun hlen => ?long, fun hlen hfull => ?full, fun hlen hroom => ?lands⟩⟩
      case gone =>
        refine hends (State.sendTo_gone payload hcore hdie hbit halign ?_) fun _ => rfl
        rwa [State.find_wgs_commit, State.wg_commit]
      case noRing =>
        obtain ⟨hstatus, hscratch⟩ := State.deliver_noRing (s := s.commit) (c := c) (g := rg) (ofs := ofs) (payload := payload)
          (by rwa [State.wg_commit]) (by rwa [State.windowOf_commit, State.wg_commit])
        refine hends ((hto hthere hrplc).trans (Prod.ext hstatus rfl)) ?_
        rw [State.wg_writesS, hscratch, State.wg_commit]
      case long =>
        refine hends ((hto hthere hrplc).trans (State.deliver_long hring.commit hlen)) ?_
        rw [State.wg_writesS, State.wg_setWg, Workgroup.scratch_touch, State.wg_commit]
      case full =>
        refine hends ((hto hthere hrplc).trans (State.deliver_full hring.commit hlen hfull)) ?_
        rw [State.wg_writesS, State.wg_setWg, Workgroup.scratch_stored, Workgroup.scratch_touch, State.wg_commit]
      case lands =>
        obtain ⟨hstatus, hmem, hscratch⟩ := State.deliver_lands (payload := payload) hring.commit hlen hroom
        refine hends ((hto hthere hrplc).trans (Prod.ext hstatus rfl)) ⟨sameMemory_writesS hmem _ _ _, ?_⟩
        rw [State.wg_writesS, hscratch, State.wg_commit]
        rfl
  case pop =>
    intro ofs at_ scratch len
    have hwrites {i : Instr} {v : Word64} (hexec : exec i s = .next ((s.setG (s.g.touch ofs 64)).writesS 0 o.d v)) :
        Completes (exec i s) (fun t => Issues s t 0 (.s o.d.toNat v) ∧ t.g.scratch = scratch ∧ SameMemory s t) :=
      ⟨_, hexec, rfl, issues_writes rfl (List.mem_singleton.mpr rfl),
        by rw [State.g_writesS, State.g_setG, Workgroup.scratch_touch], fun _ => rfl⟩
    refine ⟨fun halign hring => ⟨fun hm => hwrites (exec_rpop_handle halign hring hm),
      fun hm hempty => hwrites (exec_rpop_empty halign hring hm hempty), fun hm hheld _ => ?takes, fun hheld => ?held,
      fun hempty => ?waits⟩, fun hout => traps_ring_words fun _ => State.ownRing_outside hout,
      fun halign hwindow hsettled hinvalid => traps_ring_words fun _ => State.ownRing_invalid halign hwindow hsettled hinvalid⟩
    case takes =>
      refine ⟨_, exec_rpop_takes halign hring hm hheld, rfl, issues_writes rfl ?length, fun _ => rfl, ?scratch,
        fun i hi => issues_writes rfl ?word⟩
      case length => exact List.mem_append_right _ (List.mem_singleton.mpr rfl)
      case scratch => rw [State.g_writes, State.g_setG, Workgroup.scratch_popped]
      case word => exact List.mem_append_left _ (List.mem_map.mpr ⟨i, mem_lanesOf.mpr hi, rfl⟩)
    case held =>
      obtain ⟨t, hnext, hdone, hissues, -, hmem⟩ := hwrites (exec_rwait_held halign hring hheld)
      exact ⟨t, hnext, hdone, hissues, hmem⟩
    case waits =>
      rw [exec_rwait_waits halign hring hempty]
      exact parks_out_wait rfl

end Sys2Proof.Machine

namespace Sys2Proof.Machine

/-! ## Software traps, traps that end or park a warp, and TRET (O20, O22, O23; R358 to R364) -/

/-! ### TRAP and BKPT -/

theorem trapCause_of_low6 (x : Word64) :
    BitVec.ofNat 10 (0x380 + x.toNat % 64) = 0x380#10 + (x.extractLsb' 0 6).setWidth 10 := by
  apply BitVec.eq_of_toNat_eq
  simp [Nat.add_mod]

/-- Settles O20: each of the three words is its trap. -/
theorem trapWordsTrap : Obligations.TrapWordsTrap := by
  unfold Obligations.TrapWordsTrap
  intro l r s
  refine ⟨rfl, ?_, rfl⟩
  rw [← trapCause_of_low6]
  rfl

/-! ### The completion of a phase (R348) -/

/-- A sibling fragment that an arrival holds is free again. -/
def Frag.unheld (f : Frag) : Frag := if f.park = .arriveHeld then { f with park := .none } else f

/-- The warp of a member that a completed phase releases with the result `v`: the fragment that had arrived goes on, and the warp
commits. -/
def Warp.released (w : Warp) (a : Arrival) (now slow : Nat) (v : Word64) : Warp :=
  { w with
    pend := addPending ⟨max ((Tab.get w.frags {} a.frag).issued + 1) now + slow, (Tab.get w.frags {} a.frag).issued, 0,
      .s a.d v, true⟩ w.pend
    frags := (Tab.set w.frags a.frag (Tab.get w.frags {} a.frag).finishWord).map (fun e => (e.1, e.2.unheld))
    committed := true }

/-- The state after the release of one member. -/
def State.release (s : State) (v : Word64) (a : Arrival) : State :=
  s.setWarp a.core a.slot ((s.warp a.core a.slot).released a s.now s.focus.slow v)

/-- The last arrival's phase: every member that had arrived is released with its result. -/
theorem State.completePhase_last {s : State} {r : GroupRef} (hsome : (s.phase r).arrivals ≠ [])
    (hall : ∀ m ∈ s.members r, ((s.phase r).of m).isSome = true) :
    s.completePhase r = ((s.members r).filterMap (s.phase r).of).foldl
      (State.release · (phaseResult ((s.phase r).kind.getD .bar) (((s.phase r).count + 1) % 2 ^ 32)
        (((s.members r).filterMap (s.phase r).of).map (fun a => a.value))))
      (s.setPhase r { count := ((s.phase r).count + 1) % 2 ^ 32 }) := by
  unfold State.completePhase
  dsimp only
  rw [if_neg (by simp [hsome]; exact fun m hm => Option.isSome_iff_ne_none.mp (hall m hm))]
  congr 1
  funext u a
  simp [State.finishWith, State.release, Warp.released, State.putFor, State.setFrag, State.frag, Frag.unheld]

/-- A phase that a member has not arrived at stays open. -/
theorem State.completePhase_open {s : State} {r : GroupRef} {m : Member} (hm : m ∈ s.members r)
    (hnone : (s.phase r).of m = none) : s.completePhase r = s := by
  unfold State.completePhase
  exact if_pos (by simpa using .inr ⟨m, hm, hnone⟩)

/-- A phase that is tested for its end is completed, or stays as it is. -/
theorem State.completePhase_eq (s : State) (r : GroupRef) : s.completePhase r = s ∨ ∃ (l : List Arrival) (v : Word64) (p : Phase),
    s.completePhase r = l.foldl (State.release · v) (s.setPhase r p) := by
  by_cases h : (s.phase r).arrivals ≠ [] ∧ ∀ m ∈ s.members r, ((s.phase r).of m).isSome = true
  · exact .inr ⟨_, _, _, State.completePhase_last h.1 h.2⟩
  · refine .inl ?_
    unfold State.completePhase
    exact if_pos (by simpa [Classical.or_iff_not_imp_left] using h)

/-- What a phase that is set and the release of a member keep, a phase that is tested for its end keeps. -/
theorem State.completePhase_keeps {β : Type} (read : State → β) (hset : ∀ s r p, read (State.setPhase s r p) = read s)
    (hrelease : ∀ s v a, read (State.release s v a) = read s) (s : State) (r : GroupRef) :
    read (s.completePhase r) = read s := by
  rcases s.completePhase_eq r with h | ⟨l, v, p, h⟩
  · rw [h]
  · rw [h, foldl_keeps read _ (fun t a => hrelease t v a), hset]

/-! ### The end of a warp leaves the focus -/

section
variable (s : State)

@[simp] theorem State.focus_deregister (pa : Nat) (r : WaitReg) : (s.deregister pa r).focus = s.focus := by
  fun_cases State.deregister <;> rfl

@[simp] theorem State.focus_endWaiting (c k f : Nat) : (s.endWaiting c k f).focus = s.focus := by
  unfold State.endWaiting
  split <;> simp

@[simp] theorem State.focus_setPhase (r : GroupRef) (p : Phase) : (s.setPhase r p).focus = s.focus := by
  cases r <;> rfl

@[simp] theorem State.focus_finishWith (c k f d : Nat) (v : Word64) : (s.finishWith c k f d v).focus = s.focus := rfl

@[simp] theorem State.focus_completePhase (r : GroupRef) : (s.completePhase r).focus = s.focus :=
  State.completePhase_keeps State.focus State.focus_setPhase (fun _ _ _ => rfl) s r

@[simp] theorem State.focus_departFrom (r : GroupRef) (m : Member) (fault : Bool) :
    (s.departFrom r m fault).focus = s.focus := by
  unfold State.departFrom
  cases r <;> simp

@[simp] theorem State.focus_departAll (m : Member) (unit : Nat) (fault : Bool) :
    (s.departAll m unit fault).focus = s.focus := by
  unfold State.departAll
  simp only [State.focus_departFrom]
  exact foldl_keeps State.focus _ (fun t i => t.focus_departFrom _ _ _) _ _

@[simp] theorem State.focus_freeSplit (c q key : Nat) : (s.freeSplit c q key).focus = s.focus := by
  fun_cases State.freeSplit <;> rfl

@[simp] theorem State.focus_withdraw (c k f : Nat) : (s.withdraw c k f).focus = s.focus := by
  unfold State.withdraw
  dsimp only
  split
  · simp
  · rw [State.setWarp_focus, foldl_keeps State.focus]
    · exact s.focus_endWaiting c k f
    · intro t r
      split
      · exact t.focus_setPhase r _
      · rfl
  · simp

@[simp] theorem State.focus_dropReqs (c k : Nat) (all : Bool) : (s.dropReqs c k all).focus = s.focus := rfl

@[simp] theorem State.focus_endWarp (c k : Nat) (fault : Bool) : (s.endWarp c k fault).focus = s.focus := by
  unfold State.endWarp
  simp only [State.setCore_focus, State.setWg_focus, State.setTask_focus]
  rw [foldl_keeps State.focus _ (fun t _ => t.focus_freeSplit _ _ _), State.focus_departAll, State.focus_dropReqs]
  exact foldl_keeps State.focus _ (fun t _ => t.focus_withdraw _ _ _) _ _

@[simp] theorem State.focus_taskFault (t status : Nat) (cause : BitVec 10) :
    (s.taskFault t status cause).focus = s.focus := by
  fun_cases State.taskFault <;> rfl

@[simp] theorem State.focus_faultWarp (c k : Nat) (cause : BitVec 10) (pc data aux : Word64) :
    (s.faultWarp c k cause pc data aux).focus = s.focus := by
  simp [State.faultWarp, State.logWarp]

theorem State.slot_not_mem_faultWarp (c k : Nat) (cause : BitVec 10) (pc data aux : Word64) :
    k ∉ ((s.faultWarp c k cause pc data aux).core c).warps.keys :=
  State.slot_not_mem_endWarp _ c k true

end

/-! ### How a trap is disposed of -/

section
variable {s : State} {cause : BitVec 10} {data : Word64} {decodeFault : Bool}

/-- A trap is recorded (`State.trapped`), and then parks its warp for the debugger, ends it, or enters the handler (R358). -/
theorem State.takeTrap_eq (hstopped : s.f.stopped = none) (hparked : s.w.debugParked = none) :
    s.takeTrap cause data decodeFault =
      if (0x340 ≤ cause && cause < 0x380) && (s.device s.die).dbgen then (s.trapped cause data decodeFault).debugPark
      else if cause = 0x303 || cause = 0x304 || cause = 0x30B || s.t.desc.trapIdx = 0xFFFFFFFF then
        (s.trapped cause data decodeFault).faultWarp s.focus.core s.focus.slot cause s.f.pc data 0
      else if 2 ≤ s.w.hidden.length then
        (s.trapped cause data decodeFault).faultWarp s.focus.core s.focus.slot 0x304 s.f.pc data (BitVec.ofNat 64 cause.toNat)
      else (s.trapped cause data decodeFault).enterHandler decodeFault := by
  unfold State.takeTrap
  rw [if_neg (by simp [hstopped, hparked])]
  dsimp only
  rw [State.trapWarp_eq_settleSpr]
  change (if ((0x340 ≤ cause && cause < 0x380) && (s.device s.die).dbgen) then _
    else if cause = 0x303 || cause = 0x304 || cause = 0x30B ||
      (s.trapped cause data decodeFault).t.desc.trapIdx = 0xFFFFFFFF then _
    else if 2 ≤ (s.trapped cause data decodeFault).w.hidden.length then _
    else (s.trapped cause data decodeFault).enterHandler decodeFault) = _
  rw [State.t_trapped, State.w_trapped]
  rfl

theorem State.takeTrap_parks (hstopped : s.f.stopped = none) (hparked : s.w.debugParked = none) (hfirst : 0x340 ≤ cause)
    (hlast : cause < 0x380) (hdebug : (s.device s.die).dbgen = true) :
    s.takeTrap cause data decodeFault = (s.trapped cause data decodeFault).debugPark := by
  rw [State.takeTrap_eq hstopped hparked, if_pos (by simpa [hdebug] using ⟨hfirst, hlast⟩)]

/-- The warp that a trap ends faults with the trap's cause or with that of a trap at depth 2. -/
theorem State.takeTrap_ends (hstopped : s.f.stopped = none) (hparked : s.w.debugParked = none)
    (hends : cause ∈ [(0x303 : BitVec 10), 0x304, 0x30B] ∨ ((0x340 ≤ cause ∧ cause < 0x380 → (s.device s.die).dbgen = false) ∧
      (s.t.desc.trapIdx = 0xFFFFFFFF ∨ 2 ≤ s.w.hidden.length))) :
    ∃ c aux, s.takeTrap cause data decodeFault =
      (s.trapped cause data decodeFault).faultWarp s.focus.core s.focus.slot c s.f.pc data aux := by
  rw [State.takeTrap_eq hstopped hparked]
  have hnopark : ((0x340 ≤ cause && cause < 0x380) && (s.device s.die).dbgen) = false := by
    rcases hends with hcause | ⟨hdebug, -⟩
    · simp only [List.mem_cons, List.not_mem_nil, or_false] at hcause
      rcases hcause with rfl | rfl | rfl <;> rfl
    · rw [Bool.and_eq_false_imp]
      exact fun hclass => hdebug (by simpa using hclass)
  rw [hnopark, if_neg Bool.false_ne_true]
  split
  · exact ⟨_, _, rfl⟩
  · rename_i hother
    have hdepth : 2 ≤ s.w.hidden.length := by
      rcases hends with hcause | ⟨-, hhandler | hdepth⟩
      · exact absurd (by simpa [or_assoc] using Or.inl hcause) hother
      · exact absurd (by simp [hhandler]) hother
      · exact hdepth
    rw [if_pos hdepth]
    exact ⟨_, _, rfl⟩

end

/-! ### The debugger's parking -/

/-- The fragment of a warp that is parked for the debugger: it decodes its packet anew (R364). -/
def Frag.debugged (f : Frag) : Frag :=
  { f with decoded := false, groups := [], words := [], target := none, flight := none, park := .none,
           startGroup := f.groupNo }

section
variable (s : State)

theorem State.debugPark_eq : s.debugPark = (s.setW { s.w with
    frags := Tab.set s.w.frags s.focus.frag s.f.debugged, debugParked := some s.f.mask }).send
      (.debug s.focus.core s.focus.slot) := by
  change ((s.setF s.f.debugged).setW { (s.setF s.f.debugged).w with debugParked := some s.f.mask }).send _ = _
  rw [State.w_setF, State.setF_eq, State.setW_setW]
  rfl

@[simp] theorem State.w_send (o : Output) : (s.send o).w = s.w := rfl
@[simp] theorem State.f_send (o : Output) : (s.send o).f = s.f := rfl

@[simp] theorem State.w_debugPark : s.debugPark.w = { s.w with
    frags := Tab.set s.w.frags s.focus.frag s.f.debugged, debugParked := some s.f.mask } := by
  rw [State.debugPark_eq, State.w_send, State.w_setW]

@[simp] theorem State.f_debugPark : s.debugPark.f = s.f.debugged := by
  rw [State.debugPark_eq, State.f_send, State.f_setW, Tab.get_set_self]

end

/-- Settles O22: the trap is `State.faultWarp`, or `State.debugPark`, of the state in which it is recorded. -/
theorem trapEndsOrParksWarp : Obligations.TrapEndsOrParksWarp := by
  unfold Obligations.TrapEndsOrParksWarp
  refine ⟨fun s cause data decodeFault hstopped hparked hends => ?ends,
    fun s cause data decodeFault hstopped hparked hfirst hlast hdebug => ?parks⟩
  case ends =>
    obtain ⟨c, aux, htrap⟩ := State.takeTrap_ends (data := data) (decodeFault := decodeFault) hstopped hparked hends
    dsimp only
    rw [htrap]
    exact ⟨by rw [State.focus_faultWarp]; rfl, State.slot_not_mem_faultWarp _ _ _ _ _ _ _⟩
  case parks =>
    dsimp only
    rw [State.takeTrap_parks hstopped hparked hfirst hlast hdebug, State.w_debugPark, State.f_debugPark, State.w_trapped,
      State.f_trapped]
    exact ⟨rfl, rfl, rfl, rfl, rfl, rfl, rfl, fun _ => rfl⟩

/-! ### TRET -/

/-- The trap registers that the writes still to complete give a warp reach nothing else of it. -/
theorem Warp.settleSpr_eq (w : Warp) : w.settleSpr = { w with
    pend := w.pend.filter (fun p => !p.isSpr), trapPc := w.settleSpr.trapPc, trapData := w.settleSpr.trapData } :=
  (w.settleSpr_overwritten w.settleSpr.trapPc w.settleSpr.trapData).symm ▸ rfl

@[simp] theorem Warp.settleSpr_hidden (w : Warp) : w.settleSpr.hidden = w.hidden := (congrArg Warp.hidden w.settleSpr_eq).trans rfl
@[simp] theorem Warp.settleSpr_exited (w : Warp) : w.settleSpr.exited = w.exited := (congrArg Warp.exited w.settleSpr_eq).trans rfl
@[simp] theorem Warp.settleSpr_tokens (w : Warp) : w.settleSpr.tokens = w.tokens := (congrArg Warp.tokens w.settleSpr_eq).trans rfl
@[simp] theorem Warp.settleSpr_frags (w : Warp) : w.settleSpr.frags = w.frags := (congrArg Warp.frags w.settleSpr_eq).trans rfl
@[simp] theorem Warp.settleSpr_progress (w : Warp) : w.settleSpr.progress = w.progress :=
  (congrArg Warp.progress w.settleSpr_eq).trans rfl
theorem Warp.settleSpr_pend (w : Warp) : w.settleSpr.pend = w.pend.filter (fun p => !p.isSpr) :=
  (congrArg Warp.pend w.settleSpr_eq).trans rfl

/-- Where a TRET of the level `h` resumes: a packet and its first group (R363). -/
def Warp.resumeAt (w : Warp) (h : Hidden) (next : Bool) : Word64 × Nat :=
  if !decide (w.trapPc = h.trapPc) then (w.trapPc, 0)
  else if !next then (w.trapPc, h.group)
  else if h.decodeFault || !h.later then (w.trapPc + 12, 0)
  else (w.trapPc, h.group + 1)

section
variable {w : Warp} {h : Hidden} {next : Bool}

theorem Warp.resumeAt_moved (hmoved : w.trapPc ≠ h.trapPc) : w.resumeAt h next = (w.trapPc, 0) := by
  simp [Warp.resumeAt, hmoved]

theorem Warp.resumeAt_again (hsame : w.trapPc = h.trapPc) (hnext : next = false) :
    w.resumeAt h next = (w.trapPc, h.group) := by
  simp [Warp.resumeAt, hsame, hnext]

theorem Warp.resumeAt_packet (hsame : w.trapPc = h.trapPc) (hnext : next = true)
    (hlast : h.decodeFault = true ∨ h.later = false) : w.resumeAt h next = (w.trapPc + 12, 0) := by
  simp [Warp.resumeAt, hsame, hnext, hlast]

theorem Warp.resumeAt_group (hsame : w.trapPc = h.trapPc) (hnext : next = true) (hplain : h.decodeFault = false)
    (hlater : h.later = true) : w.resumeAt h next = (w.trapPc, h.group + 1) := by
  simp [Warp.resumeAt, hsame, hnext, hplain, hlater]

end

/-- The fragment that a TRET of the level `h` resumes (R363). -/
def State.resumed (s : State) (h : Hidden) (next : Bool) : Frag :=
  { s.f with mask := h.mask &&& ~~~s.w.settleSpr.exited, pc := (s.w.settleSpr.resumeAt h next).1, arrived := s.f.pc,
             token := h.token, decoded := false, groups := [], groupNo := 0,
             startGroup := (s.w.settleSpr.resumeAt h next).2, target := none, words := [] }

/-- The warp that a TRET of the level `h` leaves, with the levels `hs` (R363). -/
def State.returned (s : State) (h : Hidden) (hs : List Hidden) (next : Bool) : Warp :=
  { s.w.settleSpr with
    hidden := hs
    tokens := s.w.settleSpr.tokens.filter (fun e => h.tokens.contains e.1)
    progress := { s.w.settleSpr.progress with armed := true }
    frags := Tab.set (s.w.settleSpr.release (hs.length + 1)) s.focus.frag (s.resumed h next) }

theorem State.w_clearProgress (s : State) (w : Warp) :
    ((s.setW w).clearProgress s.focus.core s.focus.slot).w = { w with progress := {} } := by
  change ((s.setW w).setW { (s.setW w).w with progress := {} }).w = _
  rw [State.w_setW, State.w_setW]

theorem State.f_eq (s : State) : s.f = Tab.get s.w.frags {} s.focus.frag := rfl

/-- The state that a TRET of the level `h` leaves: it gives up the progress of the trapped instruction, unless it resumes it. -/
def State.returns (s : State) (h : Hidden) (hs : List Hidden) (next : Bool) : State :=
  if s.w.settleSpr.resumeAt h next = (h.trapPc, h.group) then s.setW (s.returned h hs next)
  else (s.setW (s.returned h hs next)).clearProgress s.focus.core s.focus.slot

section
variable {s : State} {h : Hidden} {hs : List Hidden} {next : Bool}

theorem State.w_returns : (s.returns h hs next).w = { s.returned h hs next with
    progress := if s.w.settleSpr.resumeAt h next = (h.trapPc, h.group) then { s.w.progress with armed := true } else {} } := by
  unfold State.returns
  split
  · rw [State.w_setW, ← s.w.settleSpr_progress]
    rfl
  · exact s.w_clearProgress _

theorem State.focus_returns : (s.returns h hs next).focus = s.focus := by
  unfold State.returns
  split <;> rfl

theorem State.f_returns : (s.returns h hs next).f = s.resumed h next := by
  rw [State.f_eq, State.w_returns, State.focus_returns]
  exact Tab.get_set_self _ _ _ _

theorem State.mem_returns : (s.returns h hs next).mem = s.mem := by
  unfold State.returns
  split <;> rfl

variable (hhidden : s.w.hidden = h :: hs)
include hhidden

theorem State.returnFromTrap_returns (hlanes : h.mask &&& ~~~s.w.exited &&& ~~~s.active = 0) :
    s.returnFromTrap next = .done (s.returns h hs next) := by
  have hsettled : s.w.settleSpr.hidden = h :: hs := s.w.settleSpr_hidden.trans hhidden
  unfold State.returnFromTrap
  simp only [hsettled]
  rw [if_neg (by simp [hlanes])]
  rfl

theorem State.returnFromTrap_lost (hlanes : h.mask &&& ~~~s.w.exited &&& ~~~s.active ≠ 0) :
    s.returnFromTrap next = .trap s 0x30A 0 := by
  have hsettled : s.w.settleSpr.hidden = h :: hs := s.w.settleSpr_hidden.trans hhidden
  unfold State.returnFromTrap
  simp only [hsettled]
  exact if_pos (by simpa using hlanes)

end

theorem State.returnFromTrap_outside {s : State} {next : Bool} (hhidden : s.w.hidden = []) :
    s.returnFromTrap next = .trap s 0x30A 0 := by
  have hsettled : s.w.settleSpr.hidden = [] := s.w.settleSpr_hidden.trans hhidden
  unfold State.returnFromTrap
  simp only [hsettled]

/-- The fragments that the level had stopped may issue again. -/
theorem State.find_frags_returned {s : State} {h : Hidden} {hs : List Hidden} {next : Bool} {k : Nat} {f : Frag}
    (hk : k ≠ s.focus.frag) (hf : Tab.find s.w.frags k = some f) (hstopped : f.stopped = some (hs.length + 1)) :
    Tab.find (s.returned h hs next).frags k = some { f with stopped := none, again := false } := by
  change Tab.find (Tab.set (s.w.settleSpr.release (hs.length + 1)) _ _) k = _
  rw [Tab.find_set_other _ _ _ _ hk, Warp.release, s.w.settleSpr_frags,
    Tab.find_map s.w.frags (fun _ g => if g.stopped = some (hs.length + 1) then { g with stopped := none, again := false } else g),
    hf, Option.map_some, if_pos hstopped]

theorem exec_tret (o : OpR) (s : State) : exec (.tret o) s = (s.returnFromTrap o.m).out := rfl

/-- What TRET leaves where the level and its lanes are there (R363), beside the packet and the group that it resumes at. -/
theorem State.returns_keeps (s : State) {h : Hidden} (hs : List Hidden) (next : Bool) :
    let t := (s.returns h hs next).ended
    (∀ e, e ∈ t.w.tokens ↔ e ∈ s.w.tokens ∧ e.1 ∈ h.tokens) ∧
    (∀ k f, k ≠ s.focus.frag → Tab.find s.w.frags k = some f → f.stopped = some (hs.length + 1) →
      ∃ f', Tab.find t.w.frags k = some f' ∧ f'.stopped = none) ∧
    ((t.f.pc, t.f.startGroup) ≠ (h.trapPc, h.group) → t.w.progress = {}) ∧
    ((t.f.pc, t.f.startGroup) = (h.trapPc, h.group) → t.w.progress = { s.w.progress with armed := true }) ∧
    (∀ p, p ∈ t.w.pend ↔ p ∈ s.w.pend ∧ ∀ n x, p.write ≠ .spr n x) ∧
    t.w.trapData = s.w.settleSpr.trapData ∧ SameMemory s t := by
  intro t
  have hmem : (s.returns h hs next).ended.mem = s.mem := (State.mem_ended _).trans State.mem_returns
  simp only [t, State.w_ended, State.f_ended, State.f_returns, State.w_returns]
  refine ⟨fun e => ?tokens, fun k f hk hf hstopped => ⟨_, State.find_frags_returned hk hf hstopped, rfl⟩,
    fun hother => if_neg hother, fun hkept => if_pos hkept, fun p => ?pend, rfl, fun a => ?memory⟩
  case memory => rw [hmem]
  case tokens => simp [State.returned, List.mem_filter]
  case pend =>
    change p ∈ s.w.settleSpr.pend ↔ _
    rw [Warp.settleSpr_pend, List.mem_filter, Bool.not_eq_true', ← Bool.not_eq_true, Pending.isSpr_iff]
    simp only [not_exists, ne_eq]

/-- Settles O23: TRET ends in `State.returns`, at the place that `Warp.resumeAt` names, or traps. -/
theorem trapReturnResults : Obligations.TrapReturnResults := by
  unfold Obligations.TrapReturnResults
  intro o s w
  refine ⟨?inside, fun hhidden => ?outside⟩
  case outside => rw [exec_tret, State.returnFromTrap_outside hhidden]; rfl
  case inside =>
    intro h hs hhidden rest moved
    refine ⟨fun hlanes => ?returns, fun hlanes => ?lost⟩
    case lost => rw [exec_tret, State.returnFromTrap_lost hhidden hlanes]; rfl
    case returns =>
      rw [exec_tret, State.returnFromTrap_returns hhidden hlanes, Res.out_done]
      refine ⟨_, rfl, rfl, ?_, ?_, ?_, ?_, ?_, ?_, ?_, ?_, ?_, s.returns_keeps hs o.m⟩ <;>
        simp only [State.w_ended, State.f_ended, State.f_returns, State.w_returns]
      · rfl
      · simp [State.resumed, rest]
      · rfl
      · rfl
      · rfl
      · intro hmoved
        simp [State.resumed, Warp.resumeAt_moved hmoved, w]
      · intro hsame hm
        simp [State.resumed, Warp.resumeAt_again (not_not.mp hsame) hm, w]
      · intro hsame hm hlast
        simp [State.resumed, Warp.resumeAt_packet (not_not.mp hsame) hm hlast, w]
      · intro hsame hm hplain hlater
        simp [State.resumed, Warp.resumeAt_group (not_not.mp hsame) hm hplain hlater, w]

end Sys2Proof.Machine

namespace Sys2Proof.Machine

/-! ## Named groups and arrivals (O35, O36; R345, R347 to R350, R367) -/

/-! ### What the commit of the warp leaves (R367) -/

section
variable (s : State)

@[simp] theorem State.group_commit (i : Nat) : s.commit.group i = s.group i := rfl
@[simp] theorem State.membersUsed_commit : s.commit.membersUsed = s.membersUsed := rfl
@[simp] theorem State.groupsOf_commit (m : Member) : s.commit.groupsOf m = s.groupsOf m := rfl
@[simp] theorem State.groups_commit : s.commit.groups = s.groups := rfl
@[simp] theorem State.die_commit : s.commit.die = s.die := rfl
@[simp] theorem State.device_commit (d : Nat) : s.commit.device d = s.device d := rfl

theorem State.w_commit : s.commit.w = { s.w with committed := true } := State.w_setW s _

/-- The member that a warp is depends on its workgroup and its number only. -/
theorem State.self_setW {w : Warp} (hwg : w.wg = s.w.wg) (hid : w.warpId = s.w.warpId) : (s.setW w).self = s.self := by
  have hself (t : State) : t.self = ⟨(t.wg t.focus.core t.w.wg).task, (t.wg t.focus.core t.w.wg).linear, t.w.warpId⟩ := rfl
  rw [hself, hself, State.w_setW, hwg, hid]
  exact congrArg (fun g : Workgroup => (⟨g.task, g.linear, s.w.warpId⟩ : Member)) (State.wg_setWarp s _ _ _ _ w)

@[simp] theorem State.self_commit : s.commit.self = s.self := s.self_setW rfl rfl

@[simp] theorem State.G_commit (r : Nat) : s.commit.G r = s.G r := by
  rw [State.G, State.view_commit, State.G]

@[simp] theorem State.groupHandle_commit (a : BitVec 6) : s.commit.groupHandle a = s.groupHandle a := by
  rw [State.groupHandle, State.G_commit, State.groupHandle]

end

/-! ### Handles of named groups (R344, R345) -/

/-- The handle `h` names the group `i` for the warp in focus. -/
def State.Names (s : State) (h : Word32) (i : Nat) : Prop :=
  h.toNat % 4096 = i ∧ (s.group i).live = true ∧ (s.group i).gen = h.toNat / 4096 ∧ h.toNat / 4096 ≠ 0xFFFFF ∧
    ((s.group i).dev = s.die ∨ (s.group i).shared = true)

section
variable {s : State} {h : Word32} {i : Nat}

theorem State.resolve_of_names (hnames : s.Names h i) (implicit : Bool) : s.resolve h implicit = .ok (.named i) := by
  obtain ⟨hindex, hlive, hgen, hplain, hdie⟩ := hnames
  have hwg : h ≠ 0xFFFFF000 := fun e => hplain (by rw [e]; rfl)
  have hgang : h ≠ 0xFFFFF001 := fun e => hplain (by rw [e]; rfl)
  have hdevice : ((s.group i).dev != s.die && !(s.group i).shared) = false := by
    rcases hdie with hdev | hshared <;> simp [*]
  unfold State.resolve
  simp only [hwg, hgang, if_false, hindex, hlive, hgen, hplain, hdevice]
  simp

theorem State.names_commit (hnames : s.Names h i) : s.commit.Names h i := hnames

theorem State.resolve_commit (hnames : s.Names h i) (implicit : Bool) : s.commit.resolve h implicit = .ok (.named i) :=
  State.resolve_of_names (State.names_commit hnames) implicit

end

theorem foldl_add_eq_sum (l : List Nat) : l.foldl (· + ·) 0 = l.sum := List.sum_eq_foldl.symm

theorem State.membersUsed_eq (s : State) : s.membersUsed = (s.groups.map (fun e => e.2.members.length)).sum :=
  foldl_add_eq_sum _

theorem State.length_groupsOf (s : State) (m : Member) :
    (s.groupsOf m).length = (s.groups.filter (fun e => e.2.members.contains m)).length := List.length_map _

/-! ### GNEW, GJOIN, GFREE and GSTAT -/

/-- The state in which GNEW or GJOIN has ended with a handle and a scalar. -/
def State.givesGroup (t : State) (o : OpR) (h : Word32) (v : Word64) : State :=
  t.writes 0 [.g (o.d.toNat % 8) h, .s o.b.toNat v]

section
variable {s : State} {o : OpR} {i : Nat}

theorem exec_gnew_some (hfree : firstFree ((s.groups.filter (fun e => e.2.live)).map (fun e => e.1)) 0 4096 = some i)
    (hroom : s.membersUsed < 32768 ∧ (s.groupsOf s.self).length < 16) :
    exec (.gnew o) s = .next ((s.commit.setGroup i
      { gen := (s.group i).gen, live := true, dev := s.die, shared := o.m, members := [s.self] }).givesGroup o
        (groupHandleOf i (s.group i).gen) ((groupHandleOf i (s.group i).gen).setWidth 64)) := by
  change execGnew o s = _
  unfold execGnew
  have hroom' : (decide (32768 ≤ s.commit.membersUsed) || decide (16 ≤ (s.commit.groupsOf s.commit.self).length)) = false :=
    Bool.or_eq_false_iff.mpr ⟨decide_eq_false (Nat.not_le.mpr hroom.1),
      decide_eq_false (Nat.not_le.mpr (by rw [State.self_commit]; exact hroom.2))⟩
  simp only [State.groups_commit, hfree]
  rw [hroom', if_neg Bool.false_ne_true, State.self_commit, ← BitVec.ofNat_toNat]
  rfl

theorem exec_gnew_none (hfull : firstFree ((s.groups.filter (fun e => e.2.live)).map (fun e => e.1)) 0 4096 = none ∨
      32768 ≤ s.membersUsed ∨ 16 ≤ (s.groupsOf s.self).length) :
    exec (.gnew o) s = .next ((s.commit.setDevice s.die { s.device s.die with gnone := bump32 (s.device s.die).gnone }).givesGroup
      o 0xFFFFFFFF 0xFFFFFFFF) := by
  change execGnew o s = _
  unfold execGnew
  simp only [State.groups_commit]
  split
  · rename_i j hfree
    have hroom : (decide (32768 ≤ s.commit.membersUsed) || decide (16 ≤ (s.commit.groupsOf s.commit.self).length)) = true := by
      rw [State.self_commit, Bool.or_eq_true, decide_eq_true_iff, decide_eq_true_iff]
      exact hfull.resolve_left (by simp [hfree])
    rw [if_pos hroom]
    rfl
  · rfl

section
variable (hnames : s.Names ((s.S o.a).setWidth 32) i)
include hnames

theorem exec_gjoin : exec (.gjoin o) s =
    (let give (t : State) (v : Int) : Host.Outcome State Fault Refusal :=
      .next (t.givesGroup o ((s.S o.a).setWidth 32) (BitVec.ofInt 64 v))
    if (s.group i).members.contains s.self then give s.commit ((s.group i).members.findIdx (fun m => m == s.self))
    else if 32768 ≤ s.membersUsed then give s.commit (-1)
    else if 16 ≤ (s.groupsOf s.self).length then give s.commit (-2)
    else give (s.commit.setGroup i { s.group i with members := (s.group i).members ++ [s.self] })
      (s.group i).members.length) := by
  change execGjoin o s = _
  unfold execGjoin
  dsimp only
  rw [State.S_commit, Chk.run_ok (State.resolve_commit hnames false)]
  simp only [State.self_commit, State.group_commit, State.membersUsed_commit, State.groupsOf_commit]
  split
  · rfl
  · split
    · rfl
    · split <;> rfl

end

section
variable (hnames : s.Names (s.groupHandle o.a) i)
include hnames

theorem exec_gleave_other (hother : (s.group i).members.contains s.self = false) :
    exec (.gleave o) s = .next (s.commit.writesS 0 o.d (BitVec.allOnes 64)) := by
  change execGleave o s = _
  unfold execGleave
  dsimp only
  rw [State.groupHandle_commit, Chk.run_ok (State.resolve_commit hnames false)]
  dsimp only
  rw [State.self_commit, State.group_commit, hother]
  rfl

theorem exec_gfree_used (hused : (s.group i).members ≠ []) :
    exec (.gfree o) s = .next (s.commit.writesS 0 o.d (BitVec.allOnes 64)) := by
  change execGfree o s = _
  unfold execGfree
  dsimp only
  rw [State.groupHandle_commit, Chk.run_ok (State.resolve_commit hnames false)]
  dsimp only
  rw [State.group_commit, if_neg (by simpa using hused)]
  rfl

/-- The generation of a handle is below the reserved one, so the next one fits its 20 bits. -/
theorem exec_gfree_empty (hempty : (s.group i).members = []) :
    exec (.gfree o) s = .next ((s.commit.setGroup i { gen := ((s.group i).gen + 1) % 0xFFFFF }).writesS 0 o.d 0) := by
  have ⟨_, _, hgen, hplain, _⟩ := hnames
  have hnext : (if (s.group i).gen + 1 = 0xFFFFF then 0 else ((s.group i).gen + 1) % 2 ^ 20) =
      ((s.group i).gen + 1) % 0xFFFFF := by
    have hbound : (s.group i).gen < 0x100000 := by
      rw [hgen]
      have := (s.groupHandle o.a).isLt
      omega
    split <;> omega
  change execGfree o s = _
  unfold execGfree
  dsimp only
  rw [State.groupHandle_commit, Chk.run_ok (State.resolve_commit hnames false)]
  dsimp only
  rw [State.group_commit, hempty, hnext]
  rfl

theorem exec_gstat_named (hb : o.b ≠ 0) :
    exec (.gstat o) s = .next (s.writesS 0 o.d (BitVec.ofNat 64 (s.groupStat (.named i) o.b.toNat))) := by
  change execGstat o s = _
  unfold execGstat
  dsimp only
  rw [if_neg hb, Chk.run_ok (State.resolve_of_names hnames true)]
  rfl

end

theorem exec_gstat_handle (hb : o.b = 0) : exec (.gstat o) s = .next (s.writesS 0 o.d ((s.groupHandle o.a).setWidth 64)) := by
  change execGstat o s = _
  unfold execGstat
  dsimp only
  rw [if_pos hb, ← BitVec.ofNat_toNat]
  rfl

end

/-! ### What the completion of a phase leaves (R348) -/

section
variable (s : State)

@[simp] theorem State.mem_setPhase (r : GroupRef) (p : Phase) : (s.setPhase r p).mem = s.mem := by
  cases r <;> rfl

theorem State.members_setPhase_group (r : GroupRef) (p : Phase) (i : Nat) :
    ((s.setPhase r p).group i).members = (s.group i).members := by
  cases r with
  | named j =>
    by_cases hij : i = j
    · subst hij; simp [State.setPhase]
    · simp [State.setPhase, hij]
  | wg t l => rfl
  | gang t u => rfl

@[simp] theorem State.mem_completePhase (r : GroupRef) : (s.completePhase r).mem = s.mem :=
  State.completePhase_keeps State.mem State.mem_setPhase (fun _ _ _ => rfl) s r

theorem State.members_completePhase_group (r : GroupRef) (i : Nat) :
    ((s.completePhase r).group i).members = (s.group i).members :=
  State.completePhase_keeps (fun t => (t.group i).members) (fun t q p => t.members_setPhase_group q p i) (fun _ _ _ => rfl) s r

theorem State.members_departFrom (i : Nat) (m : Member) (fault : Bool) :
    ((s.departFrom (.named i) m fault).group i).members = (s.group i).members.filter (fun x => x != m) := by
  unfold State.departFrom
  dsimp only
  rw [State.members_completePhase_group, State.group_setGroup]
  dsimp only
  rw [State.members_setPhase_group]

theorem State.mem_departFrom (i : Nat) (m : Member) (fault : Bool) : (s.departFrom (.named i) m fault).mem = s.mem := by
  unfold State.departFrom
  simp

end

section
variable {s : State} {o : OpR} {i : Nat}

/-- The warp's fragments that wait at a barrier are free to execute their words again. -/
def State.unbarred (s : State) : State :=
  s.setW { s.w with frags := s.w.frags.map (fun (e : Nat × Frag) => (e.1, match e.2.park with
    | .barrier _ => { e.2 with park := .none }
    | .arriveHeld => { e.2 with park := .none }
    | _ => e.2)) }

theorem State.self_unbarred (s : State) : s.unbarred.self = s.self := by
  apply State.self_setW <;> rfl

/-- A member that leaves departs from its group; where it had arrived, its fragments are freed first. -/
theorem exec_gleave_member (hnames : s.Names (s.groupHandle o.a) i) (hmember : (s.group i).members.contains s.self = true) :
    ∃ t : State, exec (.gleave o) s = .next ((t.putS 0 o.d 0).departFrom (.named i) s.self false).ended ∧
      t.group i = s.group i ∧ t.mem = s.mem := by
  have hself : s.commit.unbarred.self = s.self := s.commit.self_unbarred.trans s.self_commit
  have hexec : exec (.gleave o) s = (match (s.commit.phase (.named i)).of s.self with
      | some _ => (Res.done ((s.commit.unbarred.putS 0 o.d 0).departFrom (.named i) s.commit.unbarred.self false)).out
      | none => (Res.done ((s.commit.putS 0 o.d 0).departFrom (.named i) s.commit.self false)).out) := by
    change execGleave o s = _
    unfold execGleave
    dsimp only
    rw [State.groupHandle_commit, Chk.run_ok (State.resolve_commit hnames false)]
    dsimp only
    rw [State.self_commit, State.group_commit, if_pos hmember]
    cases (s.commit.phase (.named i)).of s.self with
    | none => exact congrArg (fun m => (Res.done ((s.commit.putS 0 o.d 0).departFrom (.named i) m false)).out) s.self_commit
    | some x => rfl
  rw [hexec, hself, State.self_commit]
  split
  · exact ⟨s.commit.unbarred, rfl, rfl, rfl⟩
  · exact ⟨s.commit, rfl, rfl, rfl⟩

end

/-- Settles O35: an equation for each word and each case of its group; a member that leaves is out of the list (`State.departFrom`). -/
theorem groupMembershipResults : Obligations.GroupMembershipResults := by
  unfold Obligations.GroupMembershipResults
  intro s o i me live used mine c pair names low h
  have hused : s.membersUsed = used := s.membersUsed_eq
  have hmine : (s.groupsOf s.self).length = mine := s.length_groupsOf s.self
  refine ⟨fun hfree hroom hmine' => ?new, fun hfull => ?full, fun hnames => ⟨fun hmember => ?rank, fun hmember => ?joins⟩,
    fun hnames => ⟨fun hmember => ?leaves, fun hmember => exec_gleave_other hnames hmember,
      fun hmembers => exec_gfree_used hnames hmembers, fun hmembers => exec_gfree_empty hnames hmembers, fun hb => ?stat1,
      fun hb => ?stat3⟩, fun hb => exec_gstat_handle hb⟩
  case new => exact exec_gnew_some hfree ⟨hused ▸ hroom, hmine ▸ hmine'⟩
  case full => exact exec_gnew_none (by rw [hused, hmine]; exact hfull)
  case rank =>
    rw [exec_gjoin hnames]
    exact if_pos hmember
  case joins =>
    have hjoins : exec (.gjoin o) s = _ := (exec_gjoin hnames).trans (if_neg (Bool.not_eq_true _ ▸ hmember))
    rw [hjoins, hused, hmine]
    refine ⟨fun hfull => ?_, fun hroom hmany => ?_, fun hroom hfew => ?_⟩
    · rw [if_pos hfull]; rfl
    · rw [if_neg (by omega), if_pos hmany]; rfl
    · rw [if_neg (by omega), if_neg (by omega)]; rfl
  case leaves =>
    obtain ⟨t, hexec, hgroup, hmem⟩ := exec_gleave_member hnames hmember
    refine ⟨_, hexec, ?_, ?_, ?_⟩
    · rfl
    · rw [← hgroup]
      exact State.members_departFrom ..
    · rw [← hmem]
      exact State.mem_departFrom ..
  case stat1 =>
    rw [exec_gstat_named hnames (by simp [hb]), hb]
    rfl
  case stat3 =>
    have hstat : s.groupStat (.named i) 3 = (s.group i).dev + if (s.group i).shared then 4 else 0 := by
      change (s.group i).dev + bit (s.group i).shared * 4 = _
      cases (s.group i).shared <;> rfl
    rw [exec_gstat_named hnames (by simp [hb]), hb, ← hstat]
    rfl

/-! ### Arrivals (R348) -/

@[simp] theorem Frag.issued_finishWord (f : Frag) : f.finishWord.issued = f.issued := by
  unfold Frag.finishWord Frag.advance
  dsimp only
  split
  · split <;> rfl
  · rfl

@[simp] theorem Frag.park_finishWord (f : Frag) : f.finishWord.park = .none := by
  unfold Frag.finishWord Frag.advance
  dsimp only
  split
  · split <;> rfl
  · rfl

@[simp] theorem Frag.issued_unheld (f : Frag) : f.unheld.issued = f.issued := by
  unfold Frag.unheld
  split <;> rfl

theorem Frag.park_unheld {f : Frag} (h : f.park = .none) : f.unheld.park = .none := by
  unfold Frag.unheld
  split
  · rfl
  · exact h

theorem Tab.get_map_unheld (t : Tab Frag) (k : Nat) :
    Tab.get (t.map (fun e => (e.1, e.2.unheld))) {} k = (Tab.get t {} k).unheld :=
  Tab.get_map t (fun e => (e.1, e.2.unheld)) (fun _ => rfl) rfl

section
variable (w : Warp) (a : Arrival) (now slow : Nat) (v : Word64)

theorem Warp.get_frags_released (k : Nat) : Tab.get (w.released a now slow v).frags {} k =
    (if k = a.frag then (Tab.get w.frags {} a.frag).finishWord else Tab.get w.frags {} k).unheld := by
  rw [Warp.released, Tab.get_map_unheld]
  split
  · rename_i hk; rw [hk, Tab.get_set_self]
  · rename_i hk; rw [Tab.get_set_other _ _ _ _ _ hk]

theorem Warp.issued_released (k : Nat) :
    (Tab.get (w.released a now slow v).frags {} k).issued = (Tab.get w.frags {} k).issued := by
  rw [Warp.get_frags_released, Frag.issued_unheld]
  split
  · rename_i hk; rw [hk, Frag.issued_finishWord]
  · rfl

end

/-- What a completed phase has done for a member's arrival, in terms of the state `s` before: its fragment goes on, its warp has
committed, and the result is among the warp's writes. -/
def State.Released (s : State) (v : Word64) (a : Arrival) (t : State) : Prop :=
  (t.frag a.core a.slot a.frag).park = .none ∧ (t.warp a.core a.slot).committed = true ∧
    ∃ q ∈ (t.warp a.core a.slot).pend,
      q.due = max ((s.frag a.core a.slot a.frag).issued + 1) s.now + s.focus.slow ∧ q.write = .s a.d v

/-- What the releases leave of a state: the cycle, the word in focus and the issue of every fragment. -/
def State.SameIssue (s t : State) : Prop :=
  t.now = s.now ∧ t.focus = s.focus ∧ ∀ c k f, (t.frag c k f).issued = (s.frag c k f).issued

section
variable {s t : State} {v : Word64} {a b : Arrival}

theorem State.warp_release (c k : Nat) : (t.release v b).warp c k =
    if (c, k) = (b.core, b.slot) then (t.warp b.core b.slot).released b t.now t.focus.slow v else t.warp c k := by
  unfold State.release
  split
  · rename_i h
    obtain ⟨rfl, rfl⟩ := Prod.mk.inj h
    exact State.warp_setWarp ..
  · rename_i h
    exact State.warp_setWarp_other _ _ _ _ _ _ h

theorem State.sameIssue_release (h : s.SameIssue t) : s.SameIssue (t.release v b) := by
  obtain ⟨hnow, hfocus, hissued⟩ := h
  refine ⟨hnow, hfocus, fun c k f => ?_⟩
  rw [← hissued c k f, State.frag, State.frag, State.warp_release]
  split
  · rename_i hck
    obtain ⟨rfl, rfl⟩ := Prod.mk.inj hck
    exact Warp.issued_released ..
  · rfl

/-- The release of a member gives its fragment the result. -/
theorem State.released_self (h : s.SameIssue t) : s.Released v a (t.release v a) := by
  obtain ⟨hnow, hfocus, hissued⟩ := h
  have hwarp : (t.release v a).warp a.core a.slot = (t.warp a.core a.slot).released a t.now t.focus.slow v := by
    rw [State.warp_release, if_pos rfl]
  rw [State.Released, State.frag, hwarp, Warp.get_frags_released, if_pos rfl, ← hissued, ← hnow, ← hfocus]
  exact ⟨Frag.park_unheld (Frag.park_finishWord _), rfl, _, mem_addPending.mpr (.inl rfl), rfl, rfl⟩

/-- The release of another member, or another arrival, keeps it. -/
theorem State.released_release (h : s.Released v a t) : s.Released v a (t.release v b) := by
  obtain ⟨hpark, hcommitted, q, hq, hdue, hwrite⟩ := h
  rw [State.Released, State.frag, State.warp_release]
  split
  · rename_i hck
    obtain ⟨hcore, hslot⟩ := Prod.mk.inj hck
    rw [hcore, hslot] at hq
    refine ⟨?_, rfl, q, mem_addPending.mpr (.inr hq), hdue, hwrite⟩
    rw [Warp.get_frags_released]
    refine Frag.park_unheld ?_
    split
    · exact Frag.park_finishWord _
    · rw [← hcore, ← hslot]; exact hpark
  · exact ⟨hpark, hcommitted, q, hq, hdue, hwrite⟩

theorem State.released_foldl (l : List Arrival) (h : s.SameIssue t) (hpast : s.Released v a t ∨ a ∈ l) :
    s.Released v a (l.foldl (State.release · v) t) := by
  induction l generalizing t with
  | nil => exact hpast.resolve_right (List.not_mem_nil)
  | cons b l ih =>
    refine ih (State.sameIssue_release h) ?_
    rcases hpast with hpast | hmem
    · exact .inl (State.released_release hpast)
    · rcases List.mem_cons.mp hmem with rfl | hmem
      · exact .inl (State.released_self h)
      · exact .inr hmem

end

section
variable (s : State)

@[simp] theorem State.phase_setPhase (r : GroupRef) (p : Phase) : (s.setPhase r p).phase r = p := by
  cases r <;> simp [State.setPhase, State.phase]

@[simp] theorem State.members_setPhase (r : GroupRef) (p : Phase) : (s.setPhase r p).members r = s.members r := by
  cases r <;> simp [State.setPhase, State.members, Task.unitWgs, Task.gang, Task.payload, Task.word]

@[simp] theorem State.phase_setF (r : GroupRef) (f : Frag) : (s.setF f).phase r = s.phase r := by
  cases r <;> rfl

@[simp] theorem State.members_setF (r : GroupRef) (f : Frag) : (s.setF f).members r = s.members r := by
  cases r <;> rfl

theorem State.phase_release (r : GroupRef) (v : Word64) (a : Arrival) : (s.release v a).phase r = s.phase r := by
  cases r <;> rfl

theorem State.warp_setF (f : Frag) (c k : Nat) : (s.setF f).warp c k =
    if (c, k) = (s.focus.core, s.focus.slot) then { s.w with frags := Tab.set s.w.frags s.focus.frag f } else s.warp c k := by
  unfold State.setF State.setFrag
  split
  · rename_i h
    obtain ⟨rfl, rfl⟩ := Prod.mk.inj h
    exact State.warp_setWarp ..
  · rename_i h
    exact State.warp_setWarp_other _ _ _ _ _ _ h

/-- What a fragment in focus keeps when it is set, every fragment keeps. -/
theorem State.frag_setF_keeps {β : Type} (read : Frag → β) {f : Frag} (hf : read f = read s.f) (c k j : Nat) :
    read ((s.setF f).frag c k j) = read (s.frag c k j) := by
  rw [State.frag, State.warp_setF]
  split
  · rename_i hck
    obtain ⟨rfl, rfl⟩ := Prod.mk.inj hck
    by_cases hj : j = s.focus.frag
    · subst hj
      rw [Tab.get_set_self, hf]
      rfl
    · rw [Tab.get_set_other _ _ _ _ _ hj]
      rfl
  · rfl

theorem State.warp_setF_keeps {β : Type} (read : Warp → β) (hread : ∀ (w : Warp) fs, read { w with frags := fs } = read w)
    (f : Frag) (c k : Nat) : read ((s.setF f).warp c k) = read (s.warp c k) := by
  rw [State.warp_setF]
  split
  · rename_i hck
    obtain ⟨rfl, rfl⟩ := Prod.mk.inj hck
    exact hread s.w _
  · rfl

theorem State.frag_setPhase (r : GroupRef) (p : Phase) (c k f : Nat) : (s.setPhase r p).frag c k f = s.frag c k f := by
  cases r <;> rfl

theorem State.now_setPhase (r : GroupRef) (p : Phase) : (s.setPhase r p).now = s.now := by
  cases r <;> rfl

/-- The phase `p` with one arrival more. -/
def Phase.joined (p : Phase) (kind : ArriveKind) (x : Arrival) (now : Nat) : Phase :=
  { p with kind := some kind, arrivals := p.arrivals ++ [x], since := some (p.since.getD now) }

/-- The arrival of the word in focus. -/
def State.arrival (d : BitVec 6) (v : Word64) : Arrival :=
  { who := s.self, core := s.focus.core, slot := s.focus.slot, frag := s.focus.frag, d := d.toNat, value := v }

/-- The state with that arrival at the phase of `r`, before the phase is tested for its end. -/
def State.arriving (r : GroupRef) (d : BitVec 6) (kind : ArriveKind) (v : Word64) : State :=
  let t := s.setPhase r ((s.phase r).joined kind (s.arrival d v) s.now)
  t.setF { t.f with park := .barrier d.toNat }

variable {r : GroupRef} {d : BitVec 6} {kind : ArriveKind} {v : Word64}

theorem State.phase_arriving : (s.arriving r d kind v).phase r = (s.phase r).joined kind (s.arrival d v) s.now := by
  rw [State.arriving, State.phase_setF, State.phase_setPhase]

theorem State.members_arriving : (s.arriving r d kind v).members r = s.members r := by
  rw [State.arriving, State.members_setF, State.members_setPhase]

theorem State.mem_arriving : (s.arriving r d kind v).mem = s.mem := by
  rw [State.arriving, State.setF_mem, State.mem_setPhase]

theorem State.f_arriving : (s.arriving r d kind v).f.park = .barrier d.toNat := by
  rw [State.arriving, State.f_setF]

theorem State.sameIssue_setPhase {s t : State} (h : s.SameIssue t) (r : GroupRef) (p : Phase) : s.SameIssue (t.setPhase r p) := by
  obtain ⟨hnow, hfocus, hissued⟩ := h
  refine ⟨?_, ?_, fun c k f => ?_⟩
  · rw [State.now_setPhase, hnow]
  · rw [State.focus_setPhase, hfocus]
  · rw [State.frag_setPhase, hissued]

theorem State.sameIssue_arriving : s.SameIssue (s.arriving r d kind v) := by
  obtain ⟨hnow, hfocus, hissued⟩ := State.sameIssue_setPhase (s := s) ⟨rfl, rfl, fun _ _ _ => rfl⟩ r
    ((s.phase r).joined kind (s.arrival d v) s.now)
  refine ⟨hnow, hfocus, fun c k f => ?_⟩
  rw [State.arriving, State.frag_setF_keeps (read := Frag.issued)]
  · exact hissued c k f
  · rfl

end

/-- The state in which the word of the fragment in focus has not ended, the fragment as it is otherwise. -/
def State.held (s : State) : State :=
  { s with focus := { s.focus with out := .waiting } }.setF { s.f with parkedAt :=
    if s.f.park.waits && s.f.park.waits then s.f.parkedAt else s.counted s.die }

theorem out_wait_park (s : State) : (Res.wait s s.f.park).out = .next s.held := rfl

theorem State.released_held {s t : State} {v : Word64} {a : Arrival} (h : s.Released v a t) : s.Released v a t.held := by
  obtain ⟨hpark, hcommitted, q, hq, hwrite⟩ := h
  rw [State.Released, State.held, State.frag_setF_keeps (read := Frag.park), State.warp_setF_keeps (read := Warp.committed),
    State.warp_setF_keeps (read := Warp.pend)]
  · exact ⟨hpark, hcommitted, q, hq, hwrite⟩
  · exact fun _ _ => rfl
  · exact fun _ _ => rfl
  · rfl

section
variable {s : State} {r : GroupRef} {d a : BitVec 6} {kind : ArriveKind} {v : Word64}
  (hresolve : s.resolve (s.groupHandle a) true = .ok r) (hmember : s.self ∈ s.members r)
  (hnew : ∀ x ∈ (s.phase r).arrivals, x.who ≠ s.self)
include hresolve hmember hnew

theorem State.arrive_eq : s.arrive d a kind v =
    if (match (s.phase r).kind with | some k => k != kind | none => false) then .trap s 0x242 ((s.groupHandle a).setWidth 64)
    else .wait ((s.arriving r d kind v).completePhase r) ((s.arriving r d kind v).completePhase r).f.park := by
  have hnot : ((s.phase r).of s.self).isSome = false := by
    rw [Option.isSome_eq_false_iff, Option.isNone_iff_eq_none, Phase.of, List.find?_eq_none]
    simpa using hnew
  have hcheck : (do let r ← s.resolve (s.groupHandle a) true; s.needMember (s.groupHandle a) r; return r : Chk GroupRef) =
      .ok r := by
    have hneed : s.needMember (s.groupHandle a) r = .ok () := if_pos (by simpa using hmember)
    rw [Chk.bind_ok hresolve, Chk.bind_ok hneed]
    rfl
  unfold State.arrive
  dsimp only
  rw [Chk.run_ok hcheck, hnot, if_neg Bool.false_ne_true, BitVec.ofNat_toNat]
  rfl

theorem State.arrive_other (hsome : (s.phase r).kind.isSome = true) (hkind : (s.phase r).kind ≠ some kind) :
    s.arrive d a kind v = .trap s 0x242 ((s.groupHandle a).setWidth 64) := by
  rw [State.arrive_eq hresolve hmember hnew]
  obtain ⟨k, hk⟩ := Option.isSome_iff_exists.mp hsome
  rw [hk] at hkind ⊢
  exact if_pos (by simpa using hkind)

theorem State.arrive_same (hkind : (s.phase r).kind = none ∨ (s.phase r).kind = some kind) :
    s.arrive d a kind v = .wait ((s.arriving r d kind v).completePhase r) ((s.arriving r d kind v).completePhase r).f.park := by
  rw [State.arrive_eq hresolve hmember hnew]
  rcases hkind with hk | hk <;> rw [hk] <;> simp

/-- An arrival that is not the last waits at the barrier. -/
theorem State.arrive_parks (hkind : (s.phase r).kind = none ∨ (s.phase r).kind = some kind) {m : Member}
    (hm : m ∈ s.members r) (hnone : ((s.phase r).arrivals ++ [s.arrival d v]).find? (fun x => x.who == m) = none) :
    Parks (s.arrive d a kind v).out (.barrier d.toNat) (fun t =>
      (t.phase r).arrivals = (s.phase r).arrivals ++ [s.arrival d v] ∧ (t.phase r).kind = some kind ∧ t.mem = s.mem) := by
  have hopen : (s.arriving r d kind v).completePhase r = s.arriving r d kind v :=
    State.completePhase_open (m := m) (by rwa [State.members_arriving]) (by rw [State.phase_arriving]; exact hnone)
  rw [State.arrive_same hresolve hmember hnew hkind, hopen, out_wait_park]
  have hphase : (s.arriving r d kind v).held.phase r = (s.phase r).joined kind (s.arrival d v) s.now := by
    rw [← State.phase_arriving]
    exact State.phase_setF _ _ _
  refine ⟨_, rfl, rfl, ?_, ?_, ?_, State.mem_arriving s⟩
  · rw [State.held, State.f_setF]
    exact State.f_arriving s
  · rw [hphase]; rfl
  · rw [hphase]; rfl

/-- The last arrival completes the phase. -/
theorem State.arrive_completes (hkind : (s.phase r).kind = none ∨ (s.phase r).kind = some kind)
    (hall : ∀ m ∈ s.members r, (((s.phase r).arrivals ++ [s.arrival d v]).find? (fun x => x.who == m)).isSome = true) :
    let of_ (m : Member) : Option Arrival := ((s.phase r).arrivals ++ [s.arrival d v]).find? (fun x => x.who == m)
    Ends (s.arrive d a kind v).out (fun t =>
      (t.phase r).count = ((s.phase r).count + 1) % 2 ^ 32 ∧ (t.phase r).arrivals = [] ∧ t.mem = s.mem ∧
      ∀ m ∈ s.members r, ∃ x, of_ m = some x ∧ s.Released (phaseResult kind (((s.phase r).count + 1) % 2 ^ 32)
        (((s.members r).filterMap of_).map (fun x => x.value))) x t) := by
  intro of_
  have hlast := State.completePhase_last (s := s.arriving r d kind v) (r := r)
    (by rw [State.phase_arriving]; simp [Phase.joined])
    (by rw [State.phase_arriving, State.members_arriving]; exact hall)
  rw [State.members_arriving, State.phase_arriving] at hlast
  rw [State.arrive_same hresolve hmember hnew hkind, out_wait_park]
  have hphase : ((s.arriving r d kind v).completePhase r).held.phase r =
      { count := ((s.phase r).count + 1) % 2 ^ 32 } := by
    refine (State.phase_setF _ _ _).trans ?_
    change ((s.arriving r d kind v).completePhase r).phase r = _
    rw [hlast, foldl_keeps (fun t : State => t.phase r) _ (fun t x => t.phase_release r _ x), State.phase_setPhase]
    rfl
  refine ⟨_, rfl, ?_, ?_, ?_, fun m hm => ?_⟩
  · rw [hphase]
  · rw [hphase]
  · exact (State.mem_completePhase _ r).trans (State.mem_arriving s)
  · obtain ⟨x, hx⟩ := Option.isSome_iff_exists.mp (hall m hm)
    refine ⟨x, hx, State.released_held ?_⟩
    rw [hlast]
    exact State.released_foldl _ (State.sameIssue_setPhase s.sameIssue_arriving r _)
      (.inr (List.mem_filterMap.mpr ⟨m, hm, hx⟩))

end

/-- The group of a word that arrives (R348): a named one, or that of the workgroup or the gang. -/
theorem State.resolve_arrival {s : State} {a : BitVec 6} {i : Nat} {r : GroupRef}
    (h : (r = .named i ∧ s.Names (s.groupHandle a) i) ∨ (a = 8 ∧ r = .wg s.g.task s.g.linear) ∨
      (a = 9 ∧ r = .gang s.g.task s.g.unit)) : s.resolve (s.groupHandle a) true = .ok r := by
  rcases h with ⟨rfl, hnames⟩ | ⟨rfl, rfl⟩ | ⟨rfl, rfl⟩
  · exact State.resolve_of_names hnames true
  · rfl
  · rfl

/-! ### What a phase gives its members (R350) -/

theorem phaseResult_vote (n : Nat) (xs : List Word64) : phaseResult .vote n xs =
    (let count := (xs.filter (fun x => x != 0)).length
     BitVec.ofNat 64 (count + (if count = xs.length then 2 ^ 32 else 0) + if count = 0 then 0 else 2 ^ 33)) := by
  simp only [phaseResult, Nat.pos_iff_ne_zero, ite_not]

theorem phaseResult_red (xm : Nat) (rm : BitVec 2) (n : Nat) (x : Word64) (xs : List Word64) :
    phaseResult (.red xm rm) n (x :: xs) = xs.foldl (gredStep xm (Rm.ofBits rm)) (gredFirst xm x) := rfl

theorem phaseResult_red_eq {xm : Nat} {rm : BitVec 2} {n : Nat} {x y : Word64} {xs : List Word64}
    {f : Word64 → Word64 → Word64} (hfirst : gredFirst xm x = y) (hstep : ∀ a v, gredStep xm (Rm.ofBits rm) a v = f a v) :
    phaseResult (.red xm rm) n (x :: xs) = xs.foldl f y := by
  rw [phaseResult_red, hfirst, funext₂ hstep]

/-- Settles O36: every arrival is one of `State.arrive`. -/
theorem arrivalResults : Obligations.ArrivalResults := by
  unfold Obligations.ArrivalResults
  refine ⟨fun s o i r => ?arrivals, fun n x xs rm => ?results⟩
  case arrivals =>
    intro me h p named arrives hgroup hmember hnew
    have hresolve := State.resolve_arrival hgroup
    have harrives (j : Instr) (kind : ArriveKind) (v : Word64) (hexec : exec j s = (s.arrive o.d o.a kind v).out) :
        arrives j kind v := by
      refine ⟨fun hsome hkind => ?_, fun hkind => ⟨fun ⟨m, hm, hnone⟩ => ?_, fun hall => ?_⟩⟩
      · rw [hexec, State.arrive_other hresolve hmember hnew hsome hkind]
        rfl
      · rw [hexec]
        exact State.arrive_parks hresolve hmember hnew hkind hm hnone
      · rw [hexec]
        exact State.arrive_completes hresolve hmember hnew hkind hall
    exact ⟨harrives _ _ _ rfl, harrives _ _ _ rfl, harrives _ _ _ rfl⟩
  case results =>
    have hmin (p : Prop) [Decidable p] (b : Bool) (h : b = decide p) (a v : Word64) :
        (if p then v else a) = if b then v else a := by simp [h]
    refine ⟨rfl, phaseResult_vote n (x :: xs), phaseResult_red_eq rfl fun _ _ => rfl,
      ⟨phaseResult_red_eq rfl fun _ _ => rfl, phaseResult_red_eq rfl fun _ _ => rfl, phaseResult_red_eq rfl fun _ _ => rfl,
        phaseResult_red_eq rfl fun _ _ => rfl⟩, phaseResult_red_eq rfl fun a v => hmin _ _ rfl a v,
      phaseResult_red_eq rfl fun a v => hmin _ _ rfl a v, phaseResult_red_eq rfl fun a v => hmin _ _ rfl a v,
      phaseResult_red_eq rfl fun a v => hmin _ _ rfl a v, phaseResult_red_eq rfl fun _ _ => rfl,
      phaseResult_red_eq rfl fun _ _ => rfl, phaseResult_red_eq rfl fun _ _ => rfl⟩

end Sys2Proof.Machine

namespace Sys2Proof.Machine

/-! ## CWWAIT of a target beyond 64 bits (O34; R74, R339) -/

/-- `cwwait s3, s4` whose immediate, extended by four words, is 2^79: the model waits for its low 64 bits, which are 0. -/
def endlessWait : OpI := { d := 3, a := 4, imm := 0, ext := [1, 0, 0, 0] }

/-- The read of the count word, 7, that the wait makes. -/
def sevenRead : Acc × State :=
  Tests.sevenCount.access (Tests.sevenCount.laneActor 0 (lowLane Tests.sevenCount.active)) none
    (Tests.sevenCount.S 4).toNat .cwRead

theorem sevenRead_fst : sevenRead.1 = .ok 7 := by decide

/-- How the word that an outcome leaves has ended. -/
def outOf : Host.Outcome State Fault Refusal → WordEnd
  | .next t => t.focus.out
  | _ => .waiting

theorem endlessWait_ends : outOf (exec (.cwwaitI endlessWait) Tests.sevenCount) = .done := by decide

/-- Refutes O34: the model compares the word with the low 64 bits of the immediate, the statement with the whole immediate. They
differ where the immediate is wider than 64 bits: R74 allows one extension word here, but the statement speaks of every operand. -/
theorem not_countWordResults : ¬ Obligations.CountWordResults := by
  unfold Obligations.CountWordResults
  intro h
  obtain ⟨-, -, -, -, -, -, -, -, -, hword⟩ := h Tests.sevenCount sevenRead.2 {} endlessWait 7 0
  have hread : sevenRead = (.ok 7, sevenRead.2) := Prod.ext sevenRead_fst rfl
  obtain ⟨-, hparks⟩ := hword (by decide) (by decide) hread
  obtain ⟨u, hexec, hwaiting, -⟩ := hparks (by decide)
  have hdone := endlessWait_ends
  rw [hexec] at hdone
  exact absurd (hwaiting.symm.trans hdone) (by decide)

end Sys2Proof.Machine

namespace Sys2Proof.Machine

/-! ## Shapes, copies and shuffles (O37, O38; R264, R266 to R268, R272, R275 to R277, R281 to R283) -/

/-! ### What the commit of the warp leaves (R367) -/

section
variable (s : State)

@[simp] theorem State.H_commit (r : Nat) : s.commit.H r = s.H r := by
  rw [State.H, State.view_commit, State.H]

@[simp] theorem State.g_commit : s.commit.g = s.g := by
  rw [State.g, State.w_commit]
  exact s.wg_commit _ _

@[simp] theorem State.t_commit : s.commit.t = s.t := by
  rw [State.t, State.g_commit]
  rfl

@[simp] theorem State.window_commit : s.commit.window = s.window := by
  rw [State.window, State.t_commit, State.window]

@[simp] theorem State.engineActor_commit : s.commit.engineActor = s.engineActor := by
  rw [State.engineActor, State.g_commit]
  rfl

@[simp] theorem State.flight_commit : s.commit.f.flight = s.f.flight := by
  rw [State.commit, State.f_setW]
  rfl

end

/-! ### A memory word that does not begin, or fails at its end -/

section
variable {s t u : State} {c : Chk Flight} {fl : Flight} {commits : Bool} {got : Tab Nat} {done : State → Flight → Res}

theorem runFlight_error {e : BitVec 10 × Word64} (hflight : s.f.flight = none) (hc : c = .error e) :
    s.runFlight c false done = .trap s e.1 e.2 := by
  unfold State.runFlight
  simp only [hflight]
  exact Chk.run_error hc s _

/-- What the accesses of a word do depends on the accesses, their type and whether they commit. -/
theorem State.flown_congr {fl' : Flight} (htype : fl'.type = fl.type) (hcommits : fl'.commits = fl.commits)
    (hreqs : fl'.reqs = fl.reqs) (hgot : fl'.got = fl.got) : s.flown commits fl' = s.flown commits fl := by
  simp only [State.flown, State.begun, htype, hcommits, hreqs, hgot]

/-- A word that keeps no progress ends, once its accesses have all ended, as `done` does. -/
theorem runFlight_ends {r : Res} (hfresh : s.Fresh) (hc : c = .ok fl) (hfree : fl.free = false) (hfault : fl.fault = none)
    (hdrains : fl.drains = []) (hkeep : fl.keep = false) (hflown : s.flown commits fl = some (t, got))
    (hdone : ∀ d strict, done t { fl with reqs := [], got := got, done := d, strict := strict } = r) :
    s.runFlight c commits done = r := by
  obtain ⟨d, hrun⟩ := runFlight_of_accessAll (done := done) hfresh hc hfree hfault hdrains hflown
  rw [hrun, hdone, hkeep]
  cases r <;> rfl

end

/-! ### LDSHAPE and STSHAPE (R266 to R268) -/

theorem copyData_side (side h : Nat) (hh : h < 8) : copyData 0 side h 0 = BitVec.ofNat 64 (side * 4 + h * 8) := by
  simp [copyData, Nat.mod_eq_of_lt hh]

theorem copyData_index (i : Nat) : copyData 0 0 0 i = BitVec.ofNat 64 (i % 2 ^ 32 * 2 ^ 32) := by
  simp [copyData]

theorem alignData_eq (a : BitVec 6) (va : Word64) :
    alignData a va = BitVec.ofNat 64 (a.toNat + va.toNat % 2 ^ 32 * 2 ^ 32) := by
  rw [alignData, opndData, Nat.mod_eq_of_lt a.isLt]
  simp

section
variable {a : BitVec 6} {va : Word64} {type : Nat}

theorem shapeAddr_unaligned (h : va.toNat % 64 ≠ 0) : shapeAddr a va type = .error (0x0A0, alignData a va) := by
  simp [shapeAddr, h]

theorem shapeAddr_nonCanon (halign : va.toNat % 64 = 0) (h : 2 ^ 57 ≤ va.toNat) :
    shapeAddr a va type = .error (BitVec.ofNat 10 (0x110 + type), va) := by
  have hout : nonCanon va.toNat = true := by simpa [nonCanon] using h
  simp [shapeAddr, halign, hout]

theorem shapeAddr_ok (halign : va.toNat % 64 = 0) (h : va.toNat < 2 ^ 57) : shapeAddr a va type = .ok () := by
  have hin : nonCanon va.toNat = false := by simpa [nonCanon] using h
  simp [shapeAddr, halign, hin]

end

/-- The checks of an LDSHAPE (R267), and its flight. -/
def State.ldshapeChecks (s : State) (o : OpR) : Chk Flight := do
  shapeAddr o.a (s.S o.a) 7
  return oneAccess 7 (s.S o.a).toNat (.read 64)

/-- The checks of an STSHAPE (R268), and its flight. -/
def State.stshapeChecks (s : State) (o : OpR) : Chk Flight := do
  shapeAddr o.a (s.S o.a) 1
  match s.H (o.d.toNat % 8) with
  | none => .error (0x1C0, copyData 0 0 (o.d.toNat % 8) 0)
  | some ws => return { oneAccess 1 (s.S o.a).toNat (.write 64 (pack 64 (ws.map (fun x => x.toNat)))) with
                   keep := true, logs := true, commits := true }

/-- An LDSHAPE whose record has been read. -/
def endLdshape (o : OpR) (s : State) (fl : Flight) : Res :=
  match shapeFault (wordsOf 8 (Tab.get fl.got 0 0)) with
  | some c => .trap s c 0
  | none => .done (s.put 0 (.h (o.d.toNat % 8) (some (wordsOf 8 (Tab.get fl.got 0 0)))))

section
variable {s t : State} {o : OpR} {got : Tab Nat}

theorem exec_ldshape : exec (.ldshape o) s = (s.runFlight (s.ldshapeChecks o) false (endLdshape o)).out := rfl

theorem exec_stshape : exec (.stshape o) s = (s.runFlight (s.stshapeChecks o) false (fun s _ => .done s)).out := rfl

theorem exec_ldshape_traps {e : BitVec 10 × Word64} (hflight : s.f.flight = none) (he : shapeAddr o.a (s.S o.a) 7 = .error e) :
    Traps (exec (.ldshape o) s) s e.1 e.2 := by
  rw [exec_ldshape, runFlight_error hflight (show s.ldshapeChecks o = _ from Chk.bind_error he _)]
  rfl

theorem exec_stshape_traps {e : BitVec 10 × Word64} (hflight : s.f.flight = none) (he : shapeAddr o.a (s.S o.a) 1 = .error e) :
    Traps (exec (.stshape o) s) s e.1 e.2 := by
  rw [exec_stshape, runFlight_error hflight (show s.stshapeChecks o = _ from Chk.bind_error he _)]
  rfl

theorem ldshapeChecks_ok (halign : (s.S o.a).toNat % 64 = 0) (hcanon : (s.S o.a).toNat < 2 ^ 57) :
    s.ldshapeChecks o = .ok (oneAccess 7 (s.S o.a).toNat (.read 64)) := by
  rw [State.ldshapeChecks, Chk.bind_ok (shapeAddr_ok halign hcanon)]
  rfl

section
variable (hfresh : s.Fresh) (halign : (s.S o.a).toNat % 64 = 0) (hcanon : (s.S o.a).toNat < 2 ^ 57)
include hfresh halign hcanon

theorem exec_ldshape_reads
    (hflown : s.flown false { type := 7, reqs := [{ lane := 0, va := (s.S o.a).toNat, op := .read 64 }] } = some (t, got))
    (hshape : shapeFault (wordsOf 8 (Tab.get got 0 0)) = none) :
    exec (.ldshape o) s = .next (t.writes 0 [.h (o.d.toNat % 8) (some (wordsOf 8 (Tab.get got 0 0)))]) := by
  rw [exec_ldshape]
  refine out_runFlight hfresh (ldshapeChecks_ok halign hcanon) rfl rfl rfl hflown (fun _ _ => ?_) rfl
  unfold endLdshape
  simp only [hshape]
  rfl

theorem exec_ldshape_fails {c : BitVec 10}
    (hflown : s.flown false { type := 7, reqs := [{ lane := 0, va := (s.S o.a).toNat, op := .read 64 }] } = some (t, got))
    (hshape : shapeFault (wordsOf 8 (Tab.get got 0 0)) = some c) : Traps (exec (.ldshape o) s) t c 0 := by
  have hrun : s.runFlight (s.ldshapeChecks o) false (endLdshape o) = .trap t c 0 :=
    runFlight_ends hfresh (ldshapeChecks_ok halign hcanon) rfl rfl rfl rfl hflown
      (fun _ _ => by unfold endLdshape; simp only [hshape])
  rw [exec_ldshape, hrun]
  rfl

theorem exec_stshape_invalid (hshape : s.H (o.d.toNat % 8) = none) :
    Traps (exec (.stshape o) s) s 0x1C0 (BitVec.ofNat 64 (o.d.toNat % 8 * 8)) := by
  have hchecks : s.stshapeChecks o = .error (0x1C0, copyData 0 0 (o.d.toNat % 8) 0) := by
    rw [State.stshapeChecks, Chk.bind_ok (shapeAddr_ok halign hcanon), hshape]
  rw [exec_stshape, runFlight_error hfresh.1 hchecks, copyData_side _ _ (Nat.mod_lt _ (by decide)), Nat.zero_mul, Nat.zero_add]
  rfl

theorem exec_stshape_writes {ws : List Word64} (hshape : s.H (o.d.toNat % 8) = some ws)
    (hflown : s.flown false { type := 1, commits := true, reqs := [
      { lane := 0, va := (s.S o.a).toNat, op := .write 64 (pack 64 (ws.map (fun x => x.toNat))) }] } = some (t, got)) :
    exec (.stshape o) s = .next t.progressed.ended := by
  rw [exec_stshape]
  refine out_runFlight_kept (got := got) (fl := { oneAccess 1 (s.S o.a).toNat (.write 64 (pack 64 (ws.map (fun x => x.toNat)))) with
    keep := true, logs := true, commits := true }) hfresh ?checks rfl rfl rfl ?flown (fun _ _ => rfl) rfl
  case flown => rw [← hflown]; apply State.flown_congr <;> rfl
  rw [State.stshapeChecks, Chk.bind_ok (shapeAddr_ok halign hcanon), hshape]
  rfl

end
end

/-! ### SHUF (R281 to R283) -/

/-- The source elements of a shuffle whose first step is `w`: one more than the highest that it reads. -/
def shuffleSpan (w : Nat) : Nat :=
  (if stepMode w = 2 then stepP w 2 + (stepCount w - 1) * stepP w 1 else stepCount w - 1) + 1

/-- The shuffle of the program `steps`, as the workgroup of the word in focus queues it. -/
def State.shuffle (s : State) (ofs cw : Word64) (steps : List Word64) : Shuffle :=
  { wg := s.w.wg, rplc := s.g.rplc, task := s.g.task, n := stepCount (steps.headD 0).toNat,
    e := 4 * 2 ^ stepSize (steps.headD 0).toNat, steps := steps, dofs := bitsOf ofs.toNat 17 0, sofs := bitsOf ofs.toNat 35 18,
    cw := cw }

theorem headD_map_toNat (steps : List Word64) : (steps.map (fun w => w.toNat)).headD 0 = (steps.headD 0).toNat := by
  cases steps <;> rfl

section
variable {s t : State} {ofs cw : Word64} {steps : List Word64}

theorem State.startShuffle_bad {i : Nat} (h : badStep (steps.map (fun w => w.toNat)) = some i) :
    s.startShuffle ofs cw steps = .trap s 0x1C8 (BitVec.ofNat 64 (i % 2 ^ 32 * 2 ^ 32)) := by
  unfold State.startShuffle
  simp only [h]
  rw [copyData_index]

/-- A valid program over two disjoint parts of the window joins the queue of its core, or waits while it is full. -/
theorem State.startShuffle_valid (hsteps : badStep (steps.map (fun w => w.toNat)) = none) (hofs : ofs.toNat < 2 ^ 36)
    (hsrc : bitsOf ofs.toNat 35 18 + shuffleSpan (steps.headD 0).toNat * (4 * 2 ^ stepSize (steps.headD 0).toNat) ≤ s.window)
    (hdst : bitsOf ofs.toNat 17 0 + stepCount (steps.headD 0).toNat * (4 * 2 ^ stepSize (steps.headD 0).toNat) ≤ s.window)
    (happart : bitsOf ofs.toNat 17 0 + stepCount (steps.headD 0).toNat * (4 * 2 ^ stepSize (steps.headD 0).toNat) ≤
        bitsOf ofs.toNat 35 18 ∨
      bitsOf ofs.toNat 35 18 + shuffleSpan (steps.headD 0).toNat * (4 * 2 ^ stepSize (steps.headD 0).toNat) ≤
        bitsOf ofs.toNat 17 0)
    (hcw : ∀ k, s.namedCount s.engineActor cw k = k t) : s.startShuffle ofs cw steps =
      if 16 ≤ (t.core t.focus.core).shuffles.length then .wait t .busy
      else .done (t.setCore t.focus.core { t.core t.focus.core with
        shuffles := (t.core t.focus.core).shuffles ++ [t.shuffle ofs cw steps] }) := by
  unfold State.startShuffle
  simp only [hsteps]
  rw [headD_map_toNat, if_neg, if_neg, if_neg, hcw]
  · rfl
  · simpa [shuffleSpan, imp_iff_not_or] using happart
  · exact Nat.not_lt.mpr hdst
  · have hfits : ofs.toNat / 2 ^ 36 = 0 := Nat.div_eq_of_lt hofs
    rw [hfits]
    simpa [shuffleSpan] using hsrc

end

/-- Settles O37: the shape words are one access each, and a shuffle is `State.startShuffle`. -/
theorem shapeShuffleWordResults : Obligations.ShapeShuffleWordResults := by
  unfold Obligations.ShapeShuffleWordResults
  refine ⟨?shapes, ?shuffles⟩
  case shapes =>
    intro s t o got ws c va h both hfresh
    refine ⟨fun halign => ⟨?_, ?_⟩, fun halign hcanon => ⟨?_, ?_⟩, fun halign hcanon => ⟨?_, ?_, ?_⟩⟩
    · rw [← alignData_eq]
      exact exec_ldshape_traps hfresh.1 (shapeAddr_unaligned halign)
    · rw [← alignData_eq]
      exact exec_stshape_traps hfresh.1 (shapeAddr_unaligned halign)
    · exact exec_ldshape_traps hfresh.1 (shapeAddr_nonCanon halign hcanon)
    · exact exec_stshape_traps hfresh.1 (shapeAddr_nonCanon halign hcanon)
    · exact fun hflown => ⟨exec_ldshape_reads hfresh halign hcanon hflown, exec_ldshape_fails hfresh halign hcanon hflown⟩
    · exact exec_stshape_invalid hfresh halign hcanon
    · exact exec_stshape_writes hfresh halign hcanon
  case shuffles =>
    intro s t o oi starts
    have hstarts (i : Instr) (ofs cw : Word64) (steps : List Word64)
        (hexec : exec i s = (s.commit.startShuffle ofs cw steps).out) : starts i ofs cw steps := by
      refine ⟨fun j hbad => ?bad, fun hsteps hofs hsrc hdst hapart hcw => ?valid⟩
      case bad =>
        rw [hexec, State.startShuffle_bad hbad]
        rfl
      case valid =>
        have hvalid := State.startShuffle_valid (s := s.commit) (t := t) (cw := cw) hsteps hofs
          (by rw [State.window_commit]; exact hsrc) (by rw [State.window_commit]; exact hdst) hapart
          (by rw [State.engineActor_commit]; exact hcw)
        rw [hexec, hvalid]
        refine ⟨fun hroom => ?_, fun hfull => ?_⟩
        · rw [if_neg (Nat.not_le.mpr hroom)]
          rfl
        · rw [if_pos hfull]
          exact parks_out_wait rfl
    refine ⟨hstarts _ _ _ _ ?_, hstarts _ _ _ _ ?_⟩
    · change execShufR o s = _
      simp only [execShufR, State.S_commit]
    · change execShufI oi s = _
      simp only [execShufI, State.S_commit]

/-! ### The checks of a copy, and its fork (R264, R272) -/

section
variable {s t : State} {x : Copy} {hs hd : Nat}

theorem State.checkSlot_ok (hslots : s.t.desc.cslots ≠ 0) : s.checkSlot = .ok () := if_neg hslots

theorem State.checkShapes_ok {a b : List Word64} (ha : s.H hs = some a) (hb : s.H hd = some b) (hslots : s.t.desc.cslots ≠ 0)
    (hsize : (Shape.of a).esize = (Shape.of b).esize) : s.checkShapes hs hd = .ok (Shape.of a, Shape.of b) := by
  unfold State.checkShapes
  simp only [ha, hb]
  rw [Chk.bind_ok (State.checkSlot_ok hslots)]
  exact if_neg (by simpa using hsize)

theorem State.checkShapes_source (ha : s.H hs = none) : s.checkShapes hs hd = .error (0x1C0, copyData 0 0 hs 0) := by
  unfold State.checkShapes
  simp only [ha]

theorem State.checkShapes_target {a : List Word64} (ha : s.H hs = some a) (hb : s.H hd = none) :
    s.checkShapes hs hd = .error (0x1C0, copyData 0 1 hd 0) := by
  unfold State.checkShapes
  simp only [ha, hb]

/-- What a copy needs to pass items 2 to 4 of R272 in the state `s`, with the state `t` after the test of its count word. -/
def State.CopyPasses (s t : State) (x : Copy) (hs hd : Nat) : Prop :=
  (∀ k, s.namedCount s.engineActor x.cw k = k t) ∧ x.rangeFault hs hd = none ∧
  (x.srcScr = true → hullOut x.srcHull t.window = none) ∧ (x.dstScr = true → hullOut x.dstHull t.window = none)

theorem State.copyChecks_pass (h : s.CopyPasses t x hs hd) (next : State → Res) : s.copyChecks x hs hd next = next t := by
  obtain ⟨hcw, hrange, hsrc, hdst⟩ := h
  have hsrc' : (if x.srcScr then hullOut x.srcHull t.window else none) = none := by
    split
    · exact hsrc ‹_›
    · rfl
  have hdst' : (if x.dstScr then hullOut x.dstHull t.window else none) = none := by
    split
    · exact hdst ‹_›
    · rfl
  unfold State.copyChecks
  rw [hcw]
  simp only [hrange, hsrc', hdst']

theorem State.startCopy_pass (h : s.CopyPasses t x hs hd)
    (happart : x.srcScr = x.dstScr → hullsMeet x.srcHull x.dstHull 0 = false) : s.startCopy x hs hd = t.forkCopy x := by
  unfold State.startCopy
  rw [State.copyChecks_pass h]
  exact if_neg (by simpa using happart)

/-- The copy as its slot holds it. -/
def State.forked (s : State) (x : Copy) : Copy :=
  { x with wg := some s.w.wg, rplc := s.g.rplc, task := s.g.task, linear := s.g.linear }

theorem State.out_forkCopy_slot {k : Nat} (h : s.freeCopySlot = some k) :
    (s.forkCopy x).out = .next (s.setCopy s.focus.core k (s.forked x)).ended := by
  unfold State.forkCopy
  simp only [h]
  rfl

theorem State.out_forkCopy_full (h : s.freeCopySlot = none) : Parks (s.forkCopy x).out .busy (fun u => SameMemory s u) := by
  unfold State.forkCopy
  simp only [h]
  exact parks_out_wait rfl

/-- A word that comes down to the fork of a copy takes a free slot, or waits for one. -/
theorem forks_of_eq {i : Instr} (hexec : exec i s = (t.forkCopy x).out) :
    (∀ k, t.freeCopySlot = some k → exec i s = .next (t.setCopy t.focus.core k (t.forked x)).ended) ∧
    (t.freeCopySlot = none → Parks (exec i s) .busy (fun u => SameMemory t u)) :=
  ⟨fun _ h => hexec.trans (State.out_forkCopy_slot h), fun h => hexec ▸ State.out_forkCopy_full h⟩

end

/-! ### CPY (R275, R276) -/

/-- The copy of a CPY of two shapes (R275). -/
def State.cpyRCopy (s : State) (o : OpR) (a b : Shape) : Copy :=
  { src := a, dst := b
    origin := if o.cv then (List.range 4).map (fun i => (s.S o.creg).toNat / 2 ^ (16 * i) % 2 ^ 16) else [0, 0, 0, 0]
    odst := o.sub.getLsbD 0, srcScr := o.xm.getLsbD 0, dstScr := o.xm.getLsbD 1, cw := s.S o.b
    it := if o.sub.getLsbD 0 then a.ext else b.ext }

/-- The copy of a CPY of elements of 16 bytes (R276). -/
def State.cpyICopy (s : State) (o : OpI) : Copy :=
  { src := Shape.linear (s.S o.a).toNat 4 (o.immN / 4), dst := Shape.linear (s.S o.d).toNat 4 (o.immN / 4)
    origin := [0, 0, 0, 0], srcScr := o.immN % 2 = 1, dstScr := o.immN / 2 % 2 = 1, cw := s.S (o.d + 1)
    it := [o.immN / 4, 1, 1, 1] }

section
variable {s t : State} {o : OpR} {oi : OpI} {a b : List Word64}

theorem exec_cpyR : exec (.cpyR o) s = ((s.commit.checkShapes (o.a.toNat % 8) (o.d.toNat % 8)).run s.commit (fun e =>
    s.commit.startCopy (s.cpyRCopy o e.1 e.2) (o.a.toNat % 8) (o.d.toNat % 8))).out := by
  change execCpyR o s = _
  simp only [execCpyR, State.S_commit]
  rfl

theorem exec_cpyR_forks (ha : s.H (o.a.toNat % 8) = some a) (hb : s.H (o.d.toNat % 8) = some b)
    (hslots : s.t.desc.cslots ≠ 0) (hsize : (Shape.of a).esize = (Shape.of b).esize)
    (hpass : s.commit.CopyPasses t (s.cpyRCopy o (Shape.of a) (Shape.of b)) (o.a.toNat % 8) (o.d.toNat % 8))
    (happart : o.xm.getLsbD 0 = o.xm.getLsbD 1 →
      hullsMeet (s.cpyRCopy o (Shape.of a) (Shape.of b)).srcHull (s.cpyRCopy o (Shape.of a) (Shape.of b)).dstHull 0 = false) :
    exec (.cpyR o) s = (t.forkCopy (s.cpyRCopy o (Shape.of a) (Shape.of b))).out := by
  have hshapes : s.commit.checkShapes (o.a.toNat % 8) (o.d.toNat % 8) = .ok (Shape.of a, Shape.of b) :=
    State.checkShapes_ok (by rwa [State.H_commit]) (by rwa [State.H_commit]) (by rwa [State.t_commit]) hsize
  rw [exec_cpyR, Chk.run_ok hshapes, State.startCopy_pass hpass happart]

/-- The address checks of a CPY of elements (R276). -/
def State.cpyIChecks (s : State) (o : OpI) : Chk Unit := do
  s.checkSlot
  if (s.S o.a).toNat % 16 != 0 then .error (0x1C6, copyData 0 0 0 0)
  else if (s.S o.d).toNat % 16 != 0 then .error (0x1C6, copyData 0 1 0 0)
  else .ok ()

theorem exec_cpyI : exec (.cpyI oi) s =
    ((s.commit.cpyIChecks oi).run s.commit (fun _ => s.commit.startCopy (s.cpyICopy oi) 0 0)).out := by
  change execCpyI oi s = _
  simp only [execCpyI, State.S_commit, State.cpyIChecks]
  rfl

theorem exec_cpyI_forks (hslots : s.t.desc.cslots ≠ 0) (ha : (s.S oi.a).toNat % 16 = 0) (hd : (s.S oi.d).toNat % 16 = 0)
    (hpass : s.commit.CopyPasses t (s.cpyICopy oi) 0 0)
    (happart : (s.cpyICopy oi).srcScr = (s.cpyICopy oi).dstScr →
      hullsMeet (s.cpyICopy oi).srcHull (s.cpyICopy oi).dstHull 0 = false) :
    exec (.cpyI oi) s = (t.forkCopy (s.cpyICopy oi)).out := by
  have hchecks : s.commit.cpyIChecks oi = .ok () := by
    rw [State.cpyIChecks, Chk.bind_ok (State.checkSlot_ok (by rwa [State.t_commit])), State.S_commit, State.S_commit]
    simp [ha, hd]
  rw [exec_cpyI, Chk.run_ok hchecks, State.startCopy_pass hpass happart]

theorem exec_cpyI_noslot (hslots : s.t.desc.cslots = 0) : Traps (exec (.cpyI oi) s) s.commit 0x1C5 0 := by
  have hslot : s.commit.checkSlot = .error (0x1C5, 0) := if_pos (by rwa [State.t_commit])
  rw [exec_cpyI, Chk.run_error (show s.commit.cpyIChecks oi = _ from Chk.bind_error hslot _)]
  rfl

theorem exec_cpyR_invalid {data : Word64}
    (h : s.commit.checkShapes (o.a.toNat % 8) (o.d.toNat % 8) = .error (0x1C0, data)) :
    Traps (exec (.cpyR o) s) s.commit 0x1C0 data := by
  rw [exec_cpyR, Chk.run_error h]
  rfl

end

/-! ### CPYM (R277) -/

/-- The copy of a CPYM, before its landing handles are read. -/
def State.cpymCopy (s : State) (o : OpR) (a b : Shape) : Copy :=
  { src := a, dst := b, origin := [0, 0, 0, 0], srcScr := o.xm.getLsbD 4, dstScr := true, cw := s.S o.b, it := b.ext }

/-- The accesses that read the landing handles. -/
def handleReads (n list : Nat) : Flight :=
  { type := 7, plain := true, single := true,
    reqs := (List.range n).map (fun i => { lane := i, va := list + 8 * i, op := .read 8 }) }

/-- The landing handles that have been read. -/
def handlesOf (n : Nat) (got : Tab Nat) : List Word64 := (List.range n).map (fun i => BitVec.ofNat 64 (Tab.get got 0 i))

/-- Whether a landing handle names no core of this die, or has its reserved bit set (R277). -/
def State.badHandle (s : State) (h : Word64) : Bool := 192 ≤ landCore h || dieOf (landCore h) != s.die || h.getLsbD 31

/-- Whether a landing handle names the window of the word in focus. -/
def State.ownHandle (s : State) (h : Word64) : Bool :=
  landCore h = s.focus.core && landWg h = s.w.wg && landStamp h = s.g.rplc

/-- A CPYM whose landing handles have been read. -/
def endCpym (n : Nat) (x : Copy) (s : State) (fl : Flight) : Res :=
  match (handlesOf n fl.got).findIdx? s.badHandle with
  | some i => .trap s 0x1C7 (copyData 0 0 0 i)
  | none =>
    if x.srcScr && (handlesOf n fl.got).any (fun h => s.ownHandle h && hullsMeet x.srcHull x.dstHull (landOfs h)) then
      .trap s 0x1C4 0
    else s.forkCopy { x with items := (handlesOf n fl.got).map (fun h => { handle := h }) }

/-- A CPYM whose copy has passed its checks reads its landing handles. -/
def State.runCpym (s : State) (o : OpR) (list : Word64) (x : Copy) : Res :=
  s.runFlight (if list.toNat % 8 != 0 then .error (0x0A0, alignData o.creg list)
    else .ok (handleReads (o.xm.toNat % 16 + 1) list.toNat)) false (endCpym (o.xm.toNat % 16 + 1) x)

section
variable {s t u : State} {o : OpR} {a b : List Word64} {got : Tab Nat} {x : Copy}

theorem exec_cpym : exec (.cpym o) s = ((s.commit.checkShapes (o.a.toNat % 8) (o.d.toNat % 8)).run s.commit (fun e =>
    if s.f.flight.isSome then s.commit.runCpym o (s.S o.creg) (s.cpymCopy o e.1 e.2)
    else s.commit.copyChecks (s.cpymCopy o e.1 e.2) (o.a.toNat % 8) (o.d.toNat % 8)
      (fun s' => s'.runCpym o (s.S o.creg) (s.cpymCopy o e.1 e.2)))).out := by
  change execCpym o s = _
  simp only [execCpym, State.S_commit, State.flight_commit]
  rfl

theorem endCpym_forks {n : Nat} {fl : Flight} (hgot : fl.got = got) (hgood : ∀ h ∈ handlesOf n got, s.badHandle h = false)
    (happart : x.srcScr = true → ∀ h ∈ handlesOf n got, s.ownHandle h = true →
      hullsMeet x.srcHull x.dstHull (landOfs h) = false) :
    endCpym n x s fl = s.forkCopy { x with items := (handlesOf n got).map (fun h => { handle := h }) } := by
  have hnone : (handlesOf n got).findIdx? s.badHandle = none := List.findIdx?_eq_none_iff.mpr hgood
  unfold endCpym
  simp only [hgot, hnone]
  refine if_neg ?_
  rw [Bool.and_eq_true, List.any_eq_true]
  rintro ⟨hsrc, h, hh, hmeets⟩
  rw [Bool.and_eq_true] at hmeets
  rw [happart hsrc h hh hmeets.1] at hmeets
  exact Bool.false_ne_true hmeets.2

theorem State.runCpym_forks {list : Word64} (hfresh : t.Fresh) (halign : list.toNat % 8 = 0)
    (hflown : t.flown false (handleReads (o.xm.toNat % 16 + 1) list.toNat) = some (u, got))
    (hgood : ∀ h ∈ handlesOf (o.xm.toNat % 16 + 1) got, u.badHandle h = false)
    (happart : x.srcScr = true → ∀ h ∈ handlesOf (o.xm.toNat % 16 + 1) got, u.ownHandle h = true →
      hullsMeet x.srcHull x.dstHull (landOfs h) = false) :
    t.runCpym o list x =
      u.forkCopy { x with items := (handlesOf (o.xm.toNat % 16 + 1) got).map (fun h => { handle := h }) } :=
  runFlight_ends hfresh (if_neg (by simp [halign])) rfl rfl rfl rfl hflown
    (fun _ _ => endCpym_forks rfl hgood happart)

theorem exec_cpym_forks (ha : s.H (o.a.toNat % 8) = some a) (hb : s.H (o.d.toNat % 8) = some b)
    (hslots : s.t.desc.cslots ≠ 0) (hsize : (Shape.of a).esize = (Shape.of b).esize) (hflight : s.f.flight = none)
    (hpass : s.commit.CopyPasses t (s.cpymCopy o (Shape.of a) (Shape.of b)) (o.a.toNat % 8) (o.d.toNat % 8)) :
    exec (.cpym o) s = (t.runCpym o (s.S o.creg) (s.cpymCopy o (Shape.of a) (Shape.of b))).out := by
  have hshapes : s.commit.checkShapes (o.a.toNat % 8) (o.d.toNat % 8) = .ok (Shape.of a, Shape.of b) :=
    State.checkShapes_ok (by rwa [State.H_commit]) (by rwa [State.H_commit]) (by rwa [State.t_commit]) hsize
  rw [exec_cpym, Chk.run_ok hshapes, hflight, State.copyChecks_pass hpass]
  rfl

end

/-- Settles O38: a copy that passes its checks comes down to `State.forkCopy`. -/
theorem copyWordResults : Obligations.CopyWordResults := by
  unfold Obligations.CopyWordResults
  intro s t u o oi a b got hs hd src dst forks passes apart
  have hpasses {x : Copy} {hs hd : Nat} (h : passes x hs hd) : s.commit.CopyPasses t x hs hd := by
    simpa only [State.CopyPasses, State.engineActor_commit] using h
  refine ⟨?shapes, ?elements, ?multicast, ?source, ?target, exec_cpyI_noslot⟩
  case shapes =>
    intro ha hb hslots hsize org odst x hpass happart
    exact forks_of_eq (exec_cpyR_forks ha hb hslots hsize (hpasses hpass) happart)
  case elements =>
    intro n line x hslots ha hd hpass happart
    exact forks_of_eq (exec_cpyI_forks hslots ha hd (hpasses hpass) happart)
  case multicast =>
    intro ha hb hslots hsize n list x handles hflight hfresh hpass halign hflown hcores happart
    have hreads : t.flown false (handleReads (o.xm.toNat % 16 + 1) (s.S o.creg).toNat) = some (u, got) := by
      rw [← hflown]
      apply State.flown_congr <;> rfl
    have hfork := State.runCpym_forks (o := o) (x := x) hfresh halign hreads
      (fun h hh => by
        obtain ⟨hcore, hdie, hbit⟩ := hcores h hh
        rw [State.badHandle, hbit, hdie]
        simp [hcore])
      (fun hsrc h hh hown => by
        simp only [State.ownHandle, Bool.and_eq_true, decide_eq_true_eq] at hown
        exact happart hsrc h hh hown.1.1 hown.1.2 hown.2)
    exact forks_of_eq ((exec_cpym_forks ha hb hslots hsize hflight (hpasses hpass)).trans (congrArg Res.out hfork))
  case source =>
    intro ha
    have h := State.checkShapes_source (s := s.commit) (hd := hd) (by rwa [State.H_commit])
    rw [copyData_side _ _ (Nat.mod_lt _ (by decide)), Nat.zero_mul, Nat.zero_add] at h
    exact exec_cpyR_invalid h
  case target =>
    intro ha hb
    have h := State.checkShapes_target (s := s.commit) (hs := hs) (by rwa [State.H_commit]) (by rwa [State.H_commit])
    rw [copyData_side _ _ (Nat.mod_lt _ (by decide))] at h
    exact exec_cpyR_invalid h

end Sys2Proof.Machine

namespace Sys2Proof.Machine

/-! ## Steps of the engines (O49; R265, R273, R274, R278, R281, R317) -/

/-! ### A line request of the copy engine (R265, R273) -/

/-- The state in which the engine's turn has passed on from a slot. -/
def State.copyTurned (s : State) (c slot : Nat) : State :=
  s.setCore c { s.core c with copyPtr := (slot + 1) % 32 }

section
variable {s u : State} {core : Fin 192} {slot k m v : Nat} {x : Copy}

section
variable (hnext : (s.core core.val).nextCopy = some (slot, x)) (hfailed : x.failed = none) (hheld : x.held = none)
  (hhalf : x.half = [])
include hnext hfailed hheld hhalf

theorem exec_copyLineRequest (sel : Nat) : exec (.copyLineRequest core sel) s = .next (
    let t := s.copyTurned core.val slot
    let k := sel / 2
    if sel % 2 = 0 then if k < x.count then t.copyRead core.val slot x k else t
    else if x.items.isEmpty then if k < x.count then t.copyWrite core.val slot x k else t
    else if k / 16 < x.count then t.landWrite core.val slot x (k % 16) (k / 16) else t) := by
  change execCopyLineRequest core sel s = _
  unfold execCopyLineRequest
  simp only [hnext, hfailed, hheld, hhalf, Option.isSome_none, Bool.or_self, Bool.false_eq_true, if_false]
  repeat' split
  all_goals rfl

theorem exec_copyLineRequest_read (hk : k < x.count) :
    exec (.copyLineRequest core (2 * k)) s = .next ((s.copyTurned core.val slot).copyRead core.val slot x k) := by
  have hhalved : 2 * k / 2 = k := by omega
  simp [exec_copyLineRequest hnext hfailed hheld hhalf, hhalved, hk]

theorem exec_copyLineRequest_write (hk : k < x.count) (hitems : x.items = []) :
    exec (.copyLineRequest core (2 * k + 1)) s = .next ((s.copyTurned core.val slot).copyWrite core.val slot x k) := by
  have hhalved : (2 * k + 1) / 2 = k := by omega
  have hodd : (2 * k + 1) % 2 = 1 := by omega
  simp [exec_copyLineRequest hnext hfailed hheld hhalf, hhalved, hodd, hitems, hk]

theorem exec_copyLineRequest_land (hk : k < x.count) (hitems : x.items ≠ []) (hm : m < 16) :
    exec (.copyLineRequest core (2 * (16 * k + m) + 1)) s =
      .next ((s.copyTurned core.val slot).landWrite core.val slot x m k) := by
  have hhalved : (2 * (16 * k + m) + 1) / 2 = 16 * k + m := by omega
  have hodd : (2 * (16 * k + m) + 1) % 2 = 1 := by omega
  have helem : (16 * k + m) / 16 = k := by omega
  have hitem : (16 * k + m) % 16 = m := by omega
  simp [exec_copyLineRequest hnext hfailed hheld hhalf, hhalved, hodd, helem, hitem, hitems, hk]

end

/-- An element that lies in one line is one piece. -/
theorem elemPiece_of_line {a : Int} {n : Nat} (h : a % 128 + n ≤ 128) (second : Bool) : elemPiece a n second = (a, n, true) := by
  unfold elemPiece
  exact if_pos (by omega)

section
variable {c : Nat} {a : Int} (hfrom : x.from_ k = .inl a) (hbuf : Tab.find x.buf k = none)
include hfrom hbuf

theorem State.copyRead_line (hglobal : x.srcScr = false) (hpart : Tab.find x.part k = none) (hline : a % 128 + x.size ≤ 128)
    (hread : s.access (x.actor c slot) none a (.read x.size) = (.ok v, u)) : s.copyRead c slot x k =
      u.setCopy c slot { x with buf := Tab.set x.buf k v, part := Tab.del x.part k } := by
  unfold State.copyRead
  simp only [hfrom, hbuf, hglobal, hpart, elemPiece_of_line hline, hread]
  simp

theorem State.copyRead_scratch (hscratch : x.srcScr = true) : s.copyRead c slot x k =
    (s.scratchRead c (x.wg.getD 0) a.toNat x.size).2.setCopy c slot
      { x with buf := Tab.set x.buf k (s.scratchRead c (x.wg.getD 0) a.toNat x.size).1 } := by
  unfold State.copyRead
  simp only [hfrom, hbuf, hscratch]
  simp

end

section
variable {c i : Nat} (hvalue : x.value k = some v) (hnew : x.next ≤ k) (hdone : x.done.contains k = false)
include hvalue hnew hdone

theorem State.copyWrite_scratch (hscratch : x.dstScr = true) (hmay : x.mayWrite sameOffsets x.done x.next k = true) :
    s.copyWrite c slot x k =
      (s.scratchWrite c (x.wg.getD 0) (x.to k).toNat x.size v).setCopy c slot (x.wrote k) := by
  unfold State.copyWrite
  simp only [hvalue, hscratch, hmay, hdone]
  simp [Nat.not_lt.mpr hnew]

theorem State.copyWrite_line (hglobal : x.dstScr = false) (hmay : x.mayWrite (s.maySame (dieOf c)) x.done x.next k = true)
    (hline : x.to k % 128 + x.size ≤ 128) (hhalf : x.half = [])
    (hwrite : s.access (x.actor c slot) none (x.to k) (.write x.size (v % 2 ^ (8 * x.size))) = (.ok i, u)) :
    s.copyWrite c slot x k = u.setCopy c slot (x.wrote k) := by
  have hput : s.copyPut c slot x k v = u.setCopy c slot (x.wrote k) := by
    unfold State.copyPut
    simp only [hhalf, elemPiece_of_line hline, Tab.find, Option.isSome_none, if_true, Nat.sub_self, Nat.mul_zero, Nat.pow_zero,
      Nat.div_one, hwrite]
  unfold State.copyWrite
  simp only [hvalue, hglobal, hmay, hdone, hput]
  simp [Nat.not_lt.mpr hnew]

end

/-! ### The end of a copy and of a delivery item (R274, R278) -/

section
variable {slot : Fin 32} (hslot : Tab.find (s.core core.val).copies slot.val = some x) (hheld : x.held = none)
  (hwaits : s.copyWaits core.val slot.val = false)
include hslot hheld hwaits

theorem exec_copyCompletion_ends (hitems : x.items = []) (hcomplete : x.failed = none → x.complete = true)
    (hadd : (s.dropCopyReqs core.val slot.val).engineAdd (x.actor core.val slot.val) x.cw
      (x.bytes + if x.failed.isSome then 2 ^ 48 else 0) 0 = (.over, u)) :
    exec (.copyCompletion core slot) s = .next (u.endCopy core.val slot.val x) := by
  have hready : (x.failed.isNone && !x.complete) = false := by
    cases hfailed : x.failed with
    | none => simp [hcomplete hfailed]
    | some f => rfl
  change execCopyCompletion core slot s = _
  unfold execCopyCompletion
  simp only [hslot, hheld, hwaits, hitems, hready, hadd]
  simp

theorem exec_copyCompletion_multicast (hitems : x.items ≠ []) (hended : ∀ i ∈ x.items, i.ended = true) :
    exec (.copyCompletion core slot) s = .next (s.freeCopy core.val slot.val x) := by
  have hall : x.items.all (fun i => i.ended) = true := List.all_eq_true.mpr hended
  have hsome : (!x.items.isEmpty) = true := by simpa using hitems
  change execCopyCompletion core slot s = _
  unfold execCopyCompletion
  simp only [hslot, hheld, hwaits, hall, hsome]
  simp

theorem exec_multicastItem {item : Fin 16} {it : McItem} (hitem : x.items[item.val]? = some it) (hended : it.ended = false)
    (hdone : (if x.failed.isSome then s.dropCopyReqs core.val slot.val else s).itemFault x it = none →
      it.done.length = x.count)
    (hadd : (if x.failed.isSome then s.dropCopyReqs core.val slot.val else s).engineAdd (x.actor core.val slot.val) x.cw
      (x.bytes + if ((if x.failed.isSome then s.dropCopyReqs core.val slot.val else s).itemFault x it).isSome then 2 ^ 48 else 0)
      item.val = (.over, u)) :
    exec (.multicastItem core slot item) s = .next (u.endItem core.val slot.val x item.val it) := by
  have hready : (((if x.failed.isSome then s.dropCopyReqs core.val slot.val else s).itemFault x it).isNone &&
      it.done.length != x.count) = false := by
    cases hfault : (if x.failed.isSome then s.dropCopyReqs core.val slot.val else s).itemFault x it with
    | none => simp [hdone hfault]
    | some f => rfl
  change execMulticastItem core slot item s = _
  unfold execMulticastItem
  simp only [hslot, hitem, hended, hheld, hwaits, hready, hadd]
  simp

end

theorem State.core_endCopy_copies (s : State) (c slot : Nat) (x : Copy) :
    slot ∉ Tab.keys ((s.endCopy c slot x).core c).copies := by
  have hfreed (t : State) : slot ∉ Tab.keys ((t.freeCopy c slot x).core c).copies := by
    have hcopies : ((t.freeCopy c slot x).core c).copies = Tab.del ((t.dropCopyReqs c slot).core c).copies slot := by
      unfold State.freeCopy
      dsimp only
      split
      · exact congrArg Core.copies (State.core_setCore _ c _)
      · rw [State.core_setCore]
        rfl
    rw [hcopies]
    exact Tab.not_mem_keys_del _ _
  exact hfreed _

end

/-! ### The shuffle at the head of a queue (R281) -/

/-- The actor of the shuffle queue of a core. -/
def Shuffle.actor (y : Shuffle) (c : Nat) : Actor :=
  { party := .core c, dev := dieOf c, task := some y.task, type := 4, waiter := .engine c 32 }

section
variable {s u : State} {core : Fin 192} {y : Shuffle} {rest : List Shuffle} {k sel v : Nat}
  (hhead : (s.core core.val).shuffles = y :: rest)
include hhead

theorem exec_shuffleExecute_ends (hfailed : y.failed = none) (hall : y.next + y.done.length = y.n)
    (hadd : s.engineAdd (y.actor core.val) y.cw (y.n * y.e) 0 = (.over, u)) : exec (.shuffleExecute core sel) s =
      .next (u.setCore core.val { u.core core.val with shuffles := (u.core core.val).shuffles.tail }) := by
  change execShuffleExecute core sel s = _
  unfold execShuffleExecute
  simp only [hhead, hfailed, hall]
  rw [if_pos (by simp)]
  change (match s.engineAdd (y.actor core.val) y.cw (y.n * y.e) 0 with | (.held h, s) => _ | (.again, s) => _ | (.over, s) => _) = _
  rw [hadd]

theorem exec_shuffleExecute_fails {f : BitVec 10 × Word64} (hfailed : y.failed = some f)
    (hadd : s.engineAdd (y.actor core.val) y.cw (y.n * y.e + 2 ^ 48) 0 = (.over, u)) : exec (.shuffleExecute core sel) s =
      (let t := u.logEvent { cause := f.1, src := dieOf core.val, core := core.val, addr := f.2, task := some y.task, aux := y.cw }
       .next (t.setCore core.val { t.core core.val with shuffles := (t.core core.val).shuffles.tail })) := by
  change execShuffleExecute core sel s = _
  unfold execShuffleExecute
  simp only [hhead, hfailed]
  rw [if_pos (by simp)]
  change (match s.engineAdd (y.actor core.val) y.cw (y.n * y.e + 2 ^ 48) 0 with
    | (.held h, s) => _ | (.again, s) => _ | (.over, s) => _) = _
  rw [hadd]

section
variable (hfailed : y.failed = none) (hleft : y.next + y.done.length ≠ y.n) (hk : k < y.n) (hnew : y.next ≤ k)
  (hdone : y.done.contains k = false)
include hfailed hleft hk hnew hdone

theorem exec_shuffleExecute_read (hbuf : Tab.find y.buf k = none) : exec (.shuffleExecute core (2 * k)) s =
    (let got := s.scratchRead core.val y.wg (y.sofs + y.source k * y.e) y.e
     .next (got.2.setCore core.val { got.2.core core.val with
       shuffles := { y with buf := Tab.set y.buf k got.1 } :: rest })) := by
  have hhalved : 2 * k / 2 = k := by omega
  have hopen : (decide (y.n ≤ k) || decide (k < y.next) || y.done.contains k) = false := by
    simpa [hk, hnew] using hdone
  change execShuffleExecute core (2 * k) s = _
  unfold execShuffleExecute
  simp only [hhead, hfailed, hhalved, hbuf]
  rw [if_neg (by simp [hleft]), if_neg (by rw [hopen]; simp), if_pos (by omega)]
  rfl

theorem exec_shuffleExecute_write (hbuf : Tab.find y.buf k = some v) : exec (.shuffleExecute core (2 * k + 1)) s =
    (let t := s.scratchWrite core.val y.wg (y.dofs + k * y.e) y.e v
     let z := { y with buf := Tab.del y.buf k }
     .next (t.setCore core.val { t.core core.val with
       shuffles := (if k = y.next then { z with next := k + 1 } else { z with done := k :: z.done }) :: rest })) := by
  have hhalved : (2 * k + 1) / 2 = k := by omega
  have hopen : (decide (y.n ≤ k) || decide (k < y.next) || y.done.contains k) = false := by
    simpa [hk, hnew] using hdone
  change execShuffleExecute core (2 * k + 1) s = _
  unfold execShuffleExecute
  simp only [hhead, hfailed, hhalved, hbuf]
  rw [if_neg (by simp [hleft]), if_neg (by rw [hopen]; simp), if_neg (by omega)]

end
end

/-! ### A reclaim walk (R317) -/

/-- A tree context of a die. -/
def State.walkCtx (s : State) (d i : Nat) : TreeCtx := Tab.get (s.device d).spinel.ctxs {} i

/-- The state with a tree context of a die set. -/
def State.setWalkCtx (s : State) (d i : Nat) (x : TreeCtx) : State :=
  s.setSpinel d { (s.device d).spinel with ctxs := Tab.set (s.device d).spinel.ctxs i x }

section
variable {s u : State} {die : Fin 4} {ci : Fin 16} {i g v : Nat} {todo : List (Nat × Nat × Bool)}

theorem exec_reclaimWalk_ends (hwalk : (s.walkCtx die.val ci.val).walk = some []) :
    exec (.reclaimWalk die ci) s =
      .next (s.setWalkCtx die.val ci.val { s.walkCtx die.val ci.val with walk := none }) := by
  change execReclaimWalk die ci s = _
  unfold execReclaimWalk
  dsimp only
  change (match (s.walkCtx die.val ci.val).walk with
    | none => _ | some [] => _ | some ((i, g, true) :: rest) => _ | some ((i, _, false) :: rest) => _) = _
  rw [hwalk]
  rfl

theorem exec_reclaimWalk_frees (hwalk : (s.walkCtx die.val ci.val).walk = some ((i, g, true) :: todo))
    (hlock : (s.walkCtx die.val ci.val).freeing = none →
      s.treeHeld (s.walkCtx die.val ci.val) (192, die.val, ci.val) = false)
    (haccess :
      let z := s.walkCtx die.val ci.val
      let at_ := z.freeing.getD (0, 0)
      s.access (walkActor die.val ci.val z.task) none (z.freeOp i g at_.1 at_.2).1 (z.freeOp i g at_.1 at_.2).2 = (.ok v, u)) :
    exec (.reclaimWalk die ci) s = .next (u.setWalkCtx die.val ci.val (
      let z := s.walkCtx die.val ci.val
      let at_ := z.freeing.getD (0, 0)
      if at_.1 < 2 then
        { z with freeing := some (at_.1 + 1, freeHead g at_.1 v at_.2), lock := some (192, die.val, ci.val) }
      else { z with walk := some todo, freeing := none,
                    lock := if z.lock = some (192, die.val, ci.val) then none else z.lock })) := by
  have hfree : ((s.walkCtx die.val ci.val).freeing.isNone &&
      s.treeHeld (s.walkCtx die.val ci.val) (192, die.val, ci.val)) = false := by
    cases hfreeing : (s.walkCtx die.val ci.val).freeing with
    | none => simp [hlock hfreeing]
    | some e => rfl
  change execReclaimWalk die ci s = _
  unfold State.setWalkCtx execReclaimWalk
  unfold State.walkCtx at *
  dsimp only at haccess ⊢
  rw [hwalk]
  dsimp only
  rw [hfree, if_neg Bool.false_ne_true, haccess]
  dsimp only
  split <;> rfl

theorem exec_reclaimWalk_visits (hwalk : (s.walkCtx die.val ci.val).walk = some ((i, g, false) :: todo))
    (haccess : s.access (walkActor die.val ci.val (s.walkCtx die.val ci.val).task) none ((s.walkCtx die.val ci.val).node i)
      (.read 64) = (.ok v, u)) :
    exec (.reclaimWalk die ci) s = .next (u.setWalkCtx die.val ci.val { s.walkCtx die.val ci.val with
      walk := some ((if nodeExp v then (List.range (nodeNch v)).map (fun j => (nodeChild v + j, 0, false)) ++
        [(nodeChild v, (nodeNch v + 7) / 8, true)] else []) ++ todo) }) := by
  change execReclaimWalk die ci s = _
  unfold State.setWalkCtx execReclaimWalk
  unfold State.walkCtx at *
  dsimp only
  rw [hwalk]
  dsimp only
  rw [haccess]
  rfl

end

/-- Settles O49: an equation for each step, in each of the cases that the statement names. -/
theorem engineEventResults : Obligations.EngineEventResults := by
  unfold Obligations.EngineEventResults
  intro s u core slot item die ci at_ k m v i g x it y rest todo a c turned line
  refine ⟨?request, ?reads, ?writes, ?completion, ?shuffle, ?walk⟩
  case request =>
    intro hnext hfailed hheld hhalf hk
    exact ⟨exec_copyLineRequest_read hnext hfailed hheld hhalf hk, exec_copyLineRequest_write hnext hfailed hheld hhalf hk,
      exec_copyLineRequest_land hnext hfailed hheld hhalf hk⟩
  case reads =>
    exact fun hfrom hbuf => ⟨State.copyRead_line hfrom hbuf, State.copyRead_scratch hfrom hbuf⟩
  case writes =>
    intro hvalue hnew hdone hhalf
    exact ⟨State.copyWrite_scratch hvalue hnew hdone,
      fun hglobal hmay hline => State.copyWrite_line hvalue hnew hdone hglobal hmay hline hhalf⟩
  case completion =>
    intro hslot hheld hwaits dropped sum
    refine ⟨fun hitems hcomplete hadd => ?_, exec_copyCompletion_multicast hslot hheld hwaits, ?_⟩
    · exact ⟨_, exec_copyCompletion_ends hslot hheld hwaits hitems hcomplete hadd, rfl, State.core_endCopy_copies _ _ _ _⟩
    · exact fun hitem hended => exec_multicastItem hslot hheld hwaits hitem hended
  case shuffle =>
    intro hhead put does add gone
    exact ⟨exec_shuffleExecute_ends hhead, fun f => exec_shuffleExecute_fails hhead,
      fun hfailed hleft hk hnew hdone => ⟨exec_shuffleExecute_read hhead hfailed hleft hk hnew hdone,
        exec_shuffleExecute_write hhead hfailed hleft hk hnew hdone⟩⟩
  case walk =>
    intro d z put
    exact ⟨exec_reclaimWalk_ends, exec_reclaimWalk_frees, exec_reclaimWalk_visits⟩

end Sys2Proof.Machine

namespace Sys2Proof.Machine

/-! ## The torus, the Abian links and the host port (O47; R241, R246, R248 to R252, R261) -/

/-! ### The torus and its crossings -/

@[simp] theorem State.module_send (s : State) (o : Output) : (s.send o).module = s.module := rfl

theorem State.fatal_fatalEvent {s : State} (hfatal : s.module.fatal = none) (c : BitVec 10) (src : Nat) (logged : Bool) :
    (s.fatalEvent c src logged).module.fatal = some c := by
  unfold State.fatalEvent
  rw [hfatal]
  cases logged <;> simp

section
variable {s : State} {stop : Fin 194} {input : Fin 7} {flit : Flit}

theorem exec_torus_nowhere (hnone : portExists stop.val input.val = false) :
    exec (.torusPacketArrival stop input flit) s = .next s := by
  change execTorusPacketArrival stop input flit s = _
  unfold execTorusPacketArrival
  simp only [hnone]
  split <;> simp

theorem exec_torus_parity {j : Nat} (hport : portExists stop.val input.val = true) (hparity : flit.parityOk = false)
    (hcrosses : inputCrossing stop.val input.val = some j) :
    exec (.torusPacketArrival stop input flit) s = .next (s.fatalEvent (BitVec.ofNat 10 (0x3D0 + j)) 4 true) := by
  change execTorusPacketArrival stop input flit s = _
  unfold execTorusPacketArrival
  simp only [hcrosses, hparity, hport, if_true]

/-- The reassembly context of a flit at an input. -/
def torusKey (stop : Fin 194) (input : Fin 7) (flit : Flit) : Nat := (stop.val * 7 + input.val) * 8 + flit.cls.toNat

/-- The state after a flit has joined the packet whose earlier flits are `ctx`. -/
def State.reassembled (s : State) (stop : Fin 194) (input : Fin 7) (flit : Flit) (ctx : Option (List (BitVec 256))) : State :=
  let flits := (if flit.first then [] else ctx.getD []) ++ [flit.content]
  if flit.last then { s with io := { s.io with torus := Tab.del s.io.torus (torusKey stop input flit),
                                               arrived := s.io.arrived ++ [(stop.val, input.val, flits)] } }
  else { s with io := { s.io with torus := Tab.set s.io.torus (torusKey stop input flit) flits } }

theorem exec_torus_flit (hport : portExists stop.val input.val = true) (hfatal : s.module.fatal = none)
    (hsound : flit.parityOk = true ∨ inputCrossing stop.val input.val = none) :
    exec (.torusPacketArrival stop input flit) s =
      match Tab.find s.io.torus (torusKey stop input flit), flit.first with
      | none, false => .next s
      | ctx, _ => .next (s.reassembled stop input flit ctx) := by
  change execTorusPacketArrival stop input flit s = _
  unfold execTorusPacketArrival
  have hopen : (s.module.fatal.isSome || !portExists stop.val input.val) = false := by simp [hfatal, hport]
  simp only [hopen]
  split
  · rename_i hcrosses hparity
    rcases hsound with hsound | hsound
    · simp [hparity] at hsound
    · simp [hcrosses] at hsound
  · simp only [Bool.false_eq_true, if_false]
    change (match Tab.find s.io.torus (torusKey stop input flit), flit.first with | none, false => _ | ctx, _ => _) = _
    split
    · rfl
    · unfold State.reassembled
      split <;> rfl

end

/-! ### What a port does -/

section
variable {s : State} {port : Fin 16}

theorem State.startRetrain_up {p : Nat} (hup : (s.port p).state = 2) : s.startRetrain p =
    ((s.setPort p { (s.port p).paid with state := 3, force := false, retrains := bump32 (s.port p).retrains, retrainAt := s.now,
                                         noProgress := 0 }).send (.link p (s.port p).retrainFlit)).logEvent
      { cause := 0x009, src := 5, aux := BitVec.ofNat 64 p } := if_pos hup

theorem State.startRetrain_other {p : Nat} (hup : (s.port p).state ≠ 2) : s.startRetrain p = s := if_neg hup

@[simp] theorem State.port_resend (s : State) (p q : Nat) : (s.resend p).port q = s.port q :=
  foldl_keeps (fun t : State => t.port q) (fun s f => s.send (.link p f)) (fun _ _ => rfl) _ _

@[simp] theorem State.mem_resend (s : State) (p : Nat) : (s.resend p).mem = s.mem :=
  foldl_keeps State.mem (fun s f => s.send (.link p f)) (fun _ _ => rfl) _ _

theorem exec_laneLockLoss : exec (.laneLockLoss port) s = .next (s.startRetrain port.val) := rfl

theorem State.hostWrite_ready {d o : Nat} {t : State} (hready : s.module.ready = true) : s.hostWrite d o t = t :=
  if_pos (by simp [State.enabled, hready])

theorem exec_forceRetrain (hready : s.module.ready = true) : exec (.forceRetrain port) s =
    .next ((s.setPort port.val { s.port port.val with force := true }).startRetrain port.val) :=
  congrArg _ (State.hostWrite_ready hready)

theorem exec_portEnable (hready : s.module.ready = true) (hen : (s.port port.val).en = false) : exec (.portEnable port) s =
    .next (s.setPort port.val { s.port port.val with en := true, state := 1 }) := by
  have hwrite : s.writePortEn port.val true = s.setPort port.val { s.port port.val with en := true, state := 1 } := by
    unfold State.writePortEn
    exact if_pos (by simp [hen])
  exact congrArg _ ((State.hostWrite_ready hready).trans hwrite)

theorem exec_portDisable (hready : s.module.ready = true) (hen : (s.port port.val).en = true) : exec (.portDisable port) s =
    .next (let t := s.setPort port.val { s.port port.val with en := false }
      if (s.port port.val).state = 0 then t else t.linkDown port.val) := by
  have hwrite : s.writePortEn port.val false = (let t := s.setPort port.val { s.port port.val with en := false }
      if (s.port port.val).state = 0 then t else t.linkDown port.val) := by
    unfold State.writePortEn
    simp [hen]
  exact congrArg _ ((State.hostWrite_ready hready).trans hwrite)

/-- The port after a NACK of the number `n`, which it has begun to replay from (R250). -/
def Port.replaying (x : Port) (n : Nat) : Port :=
  { x.ack n with replays := bump32 x.replays, noProgress := (x.ack n).noProgress + 1,
                 sendSeq := (n + (x.ack n).replay.length) % 4096 }

theorem State.replayFrom_eq (p n : Nat) : s.replayFrom p n =
    if 8 ≤ ((s.port p).replaying n).noProgress then
      ((s.setPort p ((s.port p).replaying n)).resend p).startRetrain p
    else (s.setPort p ((s.port p).replaying n)).resend p := rfl

theorem exec_nackReceive {lseq : BitVec 12} (hup : (s.port port.val).state = 2) :
    exec (.nackReceive port lseq) s = .next (s.replayFrom port.val lseq.toNat) := if_pos hup

/-- A NACK that is the eighth without progress retrains the port as well. -/
theorem exec_nackReceive_retrains {lseq : BitVec 12} (hup : (s.port port.val).state = 2)
    (hstuck : 8 ≤ ((s.port port.val).replaying lseq.toNat).noProgress) : exec (.nackReceive port lseq) s =
      .next (((s.setPort port.val ((s.port port.val).replaying lseq.toNat)).resend port.val).startRetrain port.val) := by
  rw [exec_nackReceive hup, State.replayFrom_eq, if_pos hstuck]

theorem exec_nackReceive_replays {lseq : BitVec 12} (hup : (s.port port.val).state = 2)
    (hprogress : ((s.port port.val).replaying lseq.toNat).noProgress < 8) : exec (.nackReceive port lseq) s =
      .next ((s.setPort port.val ((s.port port.val).replaying lseq.toNat)).resend port.val) := by
  rw [exec_nackReceive hup, State.replayFrom_eq, if_neg (Nat.not_le.mpr hprogress)]

theorem exec_linkTrained {pm : BitVec 16} {pp : BitVec 4} (hstate : (s.port port.val).state = 1)
    (hforce : (s.port port.val).force = false) : exec (.linkTrained port pm pp) s = .next (s.setPort port.val {
      s.port port.val with
      state := 2, peermod := pm.toNat, peerport := pp.toNat, sendSeq := 0, expectSeq := 0, nacked := false, replay := [],
      open_ := [], out := [], noProgress := 0, credit := (List.range 3).map Config.linkCredit, owed := [0, 0, 0],
      passed := (0, 0) }) := by
  change execLinkTrained port pm pp s = _
  unfold execLinkTrained
  rw [if_pos hstate]
  unfold State.upForced
  rw [State.port_setPort, if_neg (by simp [hforce])]

theorem millisecond_eq : millisecond = 1400000 := rfl

theorem exec_linkDownEvent (hstate : (s.port port.val).state = 3) (hlate : (s.port port.val).retrainAt + 1400000 < s.now) :
    exec (.linkDownEvent port) s = .next (s.linkDown port.val) := by
  change execLinkDownEvent port s = _
  unfold execLinkDownEvent
  dsimp only
  rw [hstate, millisecond_eq, decide_eq_true hlate]
  rfl

/-- A port that a retrain brings up again (R251). -/
def Port.resumed (x : Port) (n now : Nat) : Port :=
  { x.ack n with state := 2, noProgress := 0, nacked := false, sendSeq := (n + (x.ack n).replay.length) % 4096,
                 longest := x.noted now }

theorem exec_retrainEnd {lseq : BitVec 12} (hstate : (s.port port.val).state = 3) (hforce : (s.port port.val).force = false)
    (htime : s.now ≤ (s.port port.val).retrainAt + 1400000) : exec (.retrainEnd port lseq) s =
      .next (((s.noteRetrain port.val).setPort port.val ((s.port port.val).resumed lseq.toNat s.now)).resend port.val) := by
  have hnoted : (s.noteRetrain port.val).port port.val =
      { s.port port.val with longest := (s.port port.val).noted s.now } := by
    unfold State.noteRetrain
    rw [State.port_setPort, Port.noted, if_pos hstate]
  change execRetrainEnd port lseq s = _
  unfold execRetrainEnd
  dsimp only
  rw [millisecond_eq, if_neg (by rw [hstate, decide_eq_false (Nat.not_lt.mpr htime)]; simp), hnoted]
  change Host.Outcome.next (State.upForced (State.resend (State.setPort _ _ ((s.port port.val).resumed lseq.toNat s.now)) _) _) = _
  unfold State.upForced
  rw [State.port_resend, State.port_setPort]
  exact congrArg _ (if_neg (by rw [Bool.not_eq_true]; exact hforce))

/-! ### A flit of a link -/

section
variable {lf : LinkFlit} (hup : (s.port port.val).state = 2)
include hup

theorem exec_linkFlit_bad (hbad : lf.crcOk = false ∨ 4 ≤ lf.type.toNat) : exec (.linkFlitReceive port lf) s =
    .next ((s.setPort port.val { s.port port.val with crcerr := bump32 (s.port port.val).crcerr }).sendNack port.val) := by
  have hdrop : (!lf.crcOk || decide (4 ≤ lf.type)) = true := by
    simpa [BitVec.le_def] using hbad
  change execLinkFlitReceive port lf s = _
  unfold execLinkFlitReceive
  dsimp only
  rw [if_neg (by simp [hup]), if_pos hdrop]

/-- A flit that is read through, by its type (R249, R250). -/
theorem exec_linkFlit (hcrc : lf.crcOk = true) (hack : lf.ackv = false) (htype : lf.type.toNat < 4) :
    exec (.linkFlitReceive port lf) s = (
      let x := s.port port.val
      let t := s.setPort port.val x
      let filled := t.setPort port.val (x.refill lf)
      match lf.type.toNat with
      | 0 => if lf.lseq.toNat = x.expectSeq then .next (filled.takeLink port.val lf)
        else .next (if x.nacked then t else t.sendNack port.val)
      | 1 => .next filled
      | 2 => .next (filled.replayFrom port.val lf.lack.toNat)
      | _ => .next (filled.startRetrain port.val)) := by
  have hread : (!lf.crcOk || decide (4 ≤ lf.type)) = false := by
    simpa [BitVec.le_def, hcrc] using htype
  change execLinkFlitReceive port lf s = _
  unfold execLinkFlitReceive
  dsimp only
  rw [if_neg (by simp [hup]), hread, if_neg Bool.false_ne_true, hack]
  rfl

end

/-- What a data flit in order leaves (R249): the next one is expected, and the credits that came with it stay. -/
theorem State.port_takeLink (s : State) (p : Nat) (lf : LinkFlit) :
    ((s.takeLink p lf).port p).expectSeq = ((s.port p).expectSeq + 1) % 4096 ∧ ((s.takeLink p lf).port p).nacked = false ∧
      ((s.takeLink p lf).port p).credit = (s.port p).credit ∧ (s.takeLink p lf).mem = s.mem := by
  unfold State.takeLink
  dsimp only
  split
  · simp [State.port, State.setPort]
  · rw [State.port_setPort]
    exact ⟨rfl, rfl, rfl, rfl⟩

theorem Port.credit_refill (x : Port) (lf : LinkFlit) {g : Nat} (hg : g < 3) :
    (x.refill lf).credit.getD g 0 = x.credit.getD g 0 + bitsOf lf.cred.toNat (8 * g + 7) (8 * g) := by
  match g, hg with
  | 0, _ => rfl
  | 1, _ => rfl
  | 2, _ => rfl

theorem exec_linkFlit_data {lf : LinkFlit} (hup : (s.port port.val).state = 2) (hcrc : lf.crcOk = true)
    (hack : lf.ackv = false) (htype : lf.type = 0) (hseq : lf.lseq.toNat = (s.port port.val).expectSeq) :
    Ends (exec (.linkFlitReceive port lf) s) (fun t =>
      (t.port port.val).expectSeq = ((s.port port.val).expectSeq + 1) % 4096 ∧ (t.port port.val).nacked = false ∧
      t.mem = s.mem ∧ ∀ g < 3, (t.port port.val).credit.getD g 0 =
        (s.port port.val).credit.getD g 0 + bitsOf lf.cred.toNat (8 * g + 7) (8 * g)) := by
  rw [exec_linkFlit hup hcrc hack (by simp [htype]), htype]
  refine ⟨_, if_pos hseq, ?_⟩
  obtain ⟨hexpect, hnacked, hcredit, hmem⟩ :=
    ((s.setPort port.val (s.port port.val)).setPort port.val ((s.port port.val).refill lf)).port_takeLink port.val lf
  rw [State.port_setPort] at hexpect hcredit
  exact ⟨hexpect, hnacked, hmem, fun g hg => by rw [hcredit]; exact Port.credit_refill _ lf hg⟩

end

/-- Settles O47: an equation for each step; a retrain, a NACK and a replay are `State.startRetrain`, `State.sendNack` and
`State.replayFrom`. -/
theorem linkEventResults : Obligations.LinkEventResults := by
  unfold Obligations.LinkEventResults
  intro s stop input flit crossing port lf lseq pm pp dev speed width j p x key ctx flits crosses exists_ retrains nacks acked
  have hretrains {t : State} (hup : (t.port p).state = 2) : t.startRetrain p = retrains t := State.startRetrain_up hup
  refine ⟨?flit, ?nowhere, ?parity, ?crossing, ?badFlit, ?goodFlit, ?nack, ?lock, ?force, ?retrainEnd, ?down, ?trained, ?ports, rfl⟩
  case flit =>
    intro hport hfatal hsound
    rw [exec_torus_flit hport hfatal hsound]
    refine ⟨fun hctx hfirst => ?_, fun hopen => ?_⟩
    · change (match ctx, flit.first with | none, false => _ | ctx, _ => _) = _
      rw [hctx, hfirst]
    · have hreassembled : (match ctx, flit.first with
          | none, false => (.next s : Host.Outcome State Fault Refusal)
          | c, _ => .next (s.reassembled stop input flit c)) = .next (s.reassembled stop input flit ctx) := by
        cases hctx : ctx with
        | none => rw [hopen.resolve_left (not_not.mpr hctx)]
        | some l => rfl
      exact hreassembled
  case nowhere =>
    intro hnone
    exact exec_torus_nowhere (Bool.eq_false_iff.mpr hnone)
  case parity =>
    intro hport hfatal hparity hcrosses
    exact ⟨_, exec_torus_parity hport hparity hcrosses, State.fatal_fatalEvent hfatal ..⟩
  case crossing => exact fun hfatal => ⟨_, rfl, State.fatal_fatalEvent hfatal ..⟩
  case badFlit => exact fun hup hbad => exec_linkFlit_bad hup hbad
  case goodFlit =>
    intro hup hcrc hack
    refine ⟨exec_linkFlit_data hup hcrc hack, fun htype hseq => ?_, ?_⟩
    · rw [exec_linkFlit hup hcrc hack (by simp [htype]), htype]
      exact if_neg hseq
    · intro filled
      have hfilled : (filled.port p).state = 2 := by
        change (State.port (State.setPort _ p (x.refill lf)) p).state = 2
        rw [State.port_setPort]
        exact hup
      refine ⟨fun htype => ?_, fun htype => ?_, fun htype => ?_⟩
      · rw [exec_linkFlit hup hcrc hack (by simp [htype]), htype]
        rfl
      · rw [exec_linkFlit hup hcrc hack (by simp [htype]), htype, exec_nackReceive hfilled]
        rfl
      · rw [exec_linkFlit hup hcrc hack (by simp [htype]), htype, ← hretrains hfilled]
        rfl
  case nack =>
    intro hup z y
    refine ⟨exec_nackReceive_replays hup, fun hstuck => ?_⟩
    rw [exec_nackReceive_retrains hup hstuck]
    refine congrArg _ (hretrains ?_)
    rw [State.port_resend, State.port_setPort]
    exact hup
  case lock => exact fun hup => exec_laneLockLoss.trans (congrArg _ (hretrains hup))
  case force =>
    intro hready t
    have hport : t.port p = { x with force := true } := State.port_setPort ..
    have hstate : (t.port p).state = x.state := by rw [hport]
    refine ⟨fun hup => ?_, fun hdown => ?_⟩
    · rw [exec_forceRetrain hready, ← hretrains (hstate.trans hup)]
    · rw [exec_forceRetrain hready]
      exact congrArg _ (State.startRetrain_other (hstate ▸ hdown))
  case retrainEnd =>
    intro hstate hforce htime
    refine ⟨_, exec_retrainEnd hstate hforce htime, ?_⟩
    dsimp only
    rw [State.port_resend, State.port_setPort, State.mem_resend]
    exact ⟨rfl, rfl, rfl, rfl, rfl⟩
  case down =>
    intro hstate hlate
    refine ⟨_, exec_linkDownEvent hstate hlate, ?_⟩
    dsimp only
    rw [State.port_linkDown]
    exact ⟨rfl, rfl, rfl, rfl⟩
  case trained => exact fun hstate hforce => exec_linkTrained hstate hforce
  case ports =>
    intro hready
    refine ⟨exec_portEnable hready, fun hen hdown => ?_, fun hen hup => ⟨_, exec_portDisable hready hen, ?_⟩⟩
    · rw [exec_portDisable hready hen]
      exact congrArg _ (if_pos hdown)
    · dsimp only
      rw [if_neg hup, State.port_linkDown, State.port_setPort]
      exact ⟨rfl, rfl, rfl⟩

end Sys2Proof.Machine

namespace Sys2Proof.Machine

/-! ## Requests between modules and the accesses of the host (O48; R253 to R255, R259, R260) -/

/-! ### At the source (R253, R255) -/

/-- The state with a request set. -/
def State.setReq (s : State) (i : Nat) (r : PeerReq) : State := { s with io := { s.io with reqs := Tab.set s.io.reqs i r } }

/-- A request with the next tag of its pair, and the state in which that tag has been taken (R253). -/
def State.nextTag (s : State) (r : PeerReq) : Nat := Tab.get s.io.tags 0 (pairKey r.dev r.rmod r.rdev)
def State.tagged (s : State) (r : PeerReq) : PeerReq := { r with tag := some (s.nextTag r), sent := s.now }
def State.counting (s : State) (r : PeerReq) : State :=
  { s with io := { s.io with tags := Tab.set s.io.tags (pairKey r.dev r.rmod r.rdev) ((s.nextTag r + 1) % 65536) } }

section
variable {s : State} {req p : Nat} {r : PeerReq} {a : PeerResult} (hreq : Tab.find s.io.reqs req = some r)
  (hhost : r.host = false)
include hreq hhost

section
variable (hfar : r.rmod ≠ s.io.mymod)
include hfar

theorem exec_peerTagAssign (hkind : r.op.writes = true ∨ r.op.atomic = true) (htag : r.tag = none) (hdown : r.down = false)
    (hfree : s.tagFree (pairKey r.dev r.rmod r.rdev) (s.nextTag r) = true) :
    exec (.peerTagAssign req) s =
      match s.portFor (s.tagged r) with
      | some p => .next ((s.counting r).setReq req { s.tagged r with port := some p })
      | none => .next (((s.counting r).setReq req { s.tagged r with down := true }).unparkWaiter r.waiter) := by
  have hkind' : (r.op.writes || r.op.atomic) = true := by simpa using hkind
  change execPeerTagAssign req s = _
  unfold execPeerTagAssign
  unfold State.nextTag at hfree
  simp only [hreq]
  rw [if_neg (by simp [hhost, hfar, hkind', htag, hdown, hfree])]
  change (match s.portFor (s.tagged r) with | some p => _ | none => _) = _
  cases s.portFor (s.tagged r) <;> rfl

end

section
variable (hport : r.port.isSome = true) (hresult : r.result = none) (hdown : r.down = false)
include hport hresult hdown

theorem exec_peerResponse_answer (ha : a ≠ .cancelled) :
    exec (.peerResponse req a) s = .next ((s.setReq req { r with result := some a }).unparkWaiter r.waiter) := by
  have hnone : r.port.isNone = false := by rw [← Option.not_isSome, hport]; rfl
  change execPeerResponse req a s = _
  unfold execPeerResponse
  simp only [hreq, ha, decide_false, Bool.false_and, Bool.or_false, Bool.false_or, if_false]
  rw [if_neg (by simp [hhost, hnone, hresult, hdown])]
  rfl

theorem exec_peerResponse_cancelled (hsure : r.cancelling = true ∨ r.confirmed = true) :
    exec (.peerResponse req .cancelled) s =
      .next (((s.setReq req { r with result := some .cancelled, confirmed := true }).unparkWaiter r.waiter).logEvent
        { cause := BitVec.ofNat 10 (0x288 + r.type), src := 5, addr := BitVec.ofNat 64 r.va }) := by
  have hnone : r.port.isNone = false := by rw [← Option.not_isSome, hport]; rfl
  have hasked : (!r.cancelling && !r.confirmed) = false := by
    rcases hsure with h | h <;> simp [h]
  change execPeerResponse req .cancelled s = _
  unfold execPeerResponse
  simp only [hreq, decide_true, Bool.true_and, Bool.true_or, if_true]
  rw [if_neg (by simp only [hasked]; simp [hhost, hnone, hresult, hdown])]
  rfl

theorem exec_peerTimeout_far (hfar : r.rmod ≠ s.io.mymod) (hcancelling : r.cancelling = false)
    (htime : r.sent + 1024 * s.io.ptmo ≤ s.now) :
    exec (.peerTimeout req) s = .next ((s.setReq req { r with cancelling := true }).send (.cancel req)) := by
  have hnone : r.port.isNone = false := by rw [← Option.not_isSome, hport]; rfl
  change execPeerTimeout req s = _
  unfold execPeerTimeout
  simp only [hreq]
  rw [if_neg (by simp [hhost, hnone, hresult, hdown, hcancelling, htime]), if_neg hfar]
  rfl

end

theorem exec_peerTimeout_near (hnear : r.rmod = s.io.mymod) (hresult : r.result = none) (hdown : r.down = false)
    (hcancelling : r.cancelling = false) (htime : r.sent + 1024 * s.io.ptmo ≤ s.now) : exec (.peerTimeout req) s =
      .next (((s.setReq req { r with result := some .cancelled }).wakeWaiter r.waiter).logEvent
        { cause := BitVec.ofNat 10 (0x288 + r.type), src := 5, addr := BitVec.ofNat 64 r.va }) := by
  change execPeerTimeout req s = _
  unfold execPeerTimeout
  simp only [hreq]
  rw [if_neg (by simp [hhost, hnear, hresult, hdown, hcancelling, htime]), if_pos hnear]
  rfl

end

/-! ### At the target (R254, R255) -/

/-- The answer to a request of a source. -/
def State.answerPeer (s : State) (m : BitVec 16) (sd : Fin 4) (x : PeerResult) (t : Nat) : State :=
  s.send (.peerAnswer m.toNat sd.val t x)

/-- The state with what a target keeps for a source. -/
def State.setSeen (s : State) (key : Nat) (x : Seen) : State := { s with io := { s.io with seen := Tab.set s.io.seen key x } }

/-- The key of what a target keeps for the source of a request. -/
def peerKey (pin : PeerIn) : Nat := seenKey pin.srcMod.toNat pin.srcDev.val pin.dev.val

/-- The number of a request's tag. -/
def peerTag (pin : PeerIn) : Nat := (pin.tag.map (fun t => t.toNat)).getD 0

/-- What a target keeps for the source of a request once it has arrived. -/
def State.arrivedSeen (s : State) (pin : PeerIn) : Seen := (Tab.get s.io.seen {} (peerKey pin)).arrive (peerTag pin)

/-- The answer to a request that has been performed with the value `v`. -/
def performedResult (op : MemOp) (v : Nat) : PeerResult := if op.writes && !returnsValue op then .done else .value v

theorem State.filter_heldPeers {s : State} (h : s.io.heldPeers = []) (f : PeerIn × Nat → Bool) :
    s.io.heldPeers.filter f = s.io.heldPeers := by rw [h]; rfl

section
variable {s u : State} {pin : PeerIn} {c : BitVec 10} {v : Nat} (hheld : s.io.heldPeers = [])
include hheld

section
variable (htag : pin.tag = none)
include htag

theorem exec_peerTarget_untagged : exec (.peerTargetRequest pin) s =
    match s.targetAccess pin.dev.val (farActor pin) pin.va.toNat pin.op with
    | (.fault c, s) => .next (s.answerPeer pin.srcMod pin.srcDev (targetResult c) (peerTag pin))
    | (.pager h, s) => .next { s with io := { s.io with heldPeers := s.io.heldPeers ++ [(pin, h.entry)] } }
    | (.ok v, s) => .next (s.answerPeer pin.srcMod pin.srcDev (performedResult pin.op v) (peerTag pin))
    | (_, s) => .next { s with io := { s.io with heldPeers := s.io.heldPeers ++ [(pin, 64)] } } := by
  change execPeerTargetRequest pin s = _
  unfold execPeerTargetRequest
  simp only [State.filter_heldPeers hheld, peerTag, htag, Option.isSome_none, Bool.false_and, Bool.false_eq_true, if_false]
  rfl

end

section
variable (htag : pin.tag.isSome = true)
include htag

theorem exec_peerTarget_cancelled (hcancelled : (s.arrivedSeen pin).cancelled.contains (peerTag pin) = true) :
    exec (.peerTargetRequest pin) s =
      .next ((s.setSeen (peerKey pin) (s.arrivedSeen pin)).answerPeer pin.srcMod pin.srcDev .cancelled (peerTag pin)) := by
  change execPeerTargetRequest pin s = _
  unfold execPeerTargetRequest
  simp only [State.filter_heldPeers hheld, htag, Bool.true_and, if_true]
  exact if_pos hcancelled

variable (hopen : (s.arrivedSeen pin).cancelled.contains (peerTag pin) = false)
include hopen

theorem exec_peerTarget_again {e : Nat × Bool}
    (hperformed : (s.arrivedSeen pin).performed.find? (fun e => e.1 = (peerTag pin)) = some e) :
    exec (.peerTargetRequest pin) s = .next ((s.setSeen (peerKey pin) (s.arrivedSeen pin)).answerPeer pin.srcMod pin.srcDev
      (s.again pin.srcMod.toNat pin.srcDev.val pin.dev.val (peerTag pin) e.2) (peerTag pin)) := by
  change execPeerTargetRequest pin s = _
  unfold execPeerTargetRequest
  simp only [State.filter_heldPeers hheld, htag, Bool.true_and, if_true]
  refine (if_neg (by rw [Bool.not_eq_true]; exact hopen)).trans ?_
  change (match (s.arrivedSeen pin).performed.find? (fun e => e.1 = (peerTag pin)) with | some e => _ | none => _) = _
  rw [hperformed]
  rfl

theorem exec_peerTarget_performs
    (hperformed : (s.arrivedSeen pin).performed.find? (fun e => e.1 = (peerTag pin)) = none)
    (haccess : (s.setSeen (peerKey pin) (s.arrivedSeen pin)).targetAccess pin.dev.val (farActor pin) pin.va.toNat pin.op = (.ok v, u)) :
    exec (.peerTargetRequest pin) s = .next (
      let marked := u.setSeen (peerKey pin) ((s.arrivedSeen pin).mark (peerTag pin) (returnsValue pin.op))
      (if returnsValue pin.op then marked.keepResult pin.srcMod.toNat pin.srcDev.val pin.dev.val (peerTag pin) v
        else marked).answerPeer pin.srcMod pin.srcDev (performedResult pin.op v) (peerTag pin)) := by
  change execPeerTargetRequest pin s = _
  unfold execPeerTargetRequest
  simp only [State.filter_heldPeers hheld, htag, Bool.true_and, if_true]
  refine (if_neg (by rw [Bool.not_eq_true]; exact hopen)).trans ?_
  change (match (s.arrivedSeen pin).performed.find? (fun e => e.1 = (peerTag pin)) with
    | some e => _
    | none => (match (s.setSeen (peerKey pin) (s.arrivedSeen pin)).targetAccess pin.dev.val (farActor pin) pin.va.toNat pin.op with
      | (.fault c, s) => _ | (.pager h, s) => _ | (.ok v, s) => _ | (_, s) => _)) = _
  rw [hperformed, haccess]
  rfl

end
end

section
variable {s : State} {m tag : BitVec 16} {sd dev : Fin 4}

theorem exec_peerCancel_performed {e : Nat × Bool}
    (h : ((Tab.get s.io.seen {} (seenKey m.toNat sd.val dev.val)).arrive tag.toNat).performed.find?
      (fun e => e.1 = tag.toNat) = some e) : exec (.peerCancel m sd dev tag) s =
    .next (s.answerPeer m sd (s.again m.toNat sd.val dev.val tag.toNat e.2) tag.toNat) := by
  change execPeerCancel m sd dev tag s = _
  unfold execPeerCancel
  simp only [h]
  rfl

theorem exec_peerCancel_refused
    (h : ((Tab.get s.io.seen {} (seenKey m.toNat sd.val dev.val)).arrive tag.toNat).performed.find?
      (fun e => e.1 = tag.toNat) = none) (hheld : s.io.heldPeers = []) : exec (.peerCancel m sd dev tag) s =
    .next ((s.setSeen (seenKey m.toNat sd.val dev.val)
      { (Tab.get s.io.seen {} (seenKey m.toNat sd.val dev.val)).arrive tag.toNat with
        cancelled := tag.toNat :: ((Tab.get s.io.seen {} (seenKey m.toNat sd.val dev.val)).arrive tag.toNat).cancelled
      }).answerPeer m sd .cancelled tag.toNat) := by
  change execPeerCancel m sd dev tag s = _
  unfold execPeerCancel
  simp only [h]
  rw [hheld, List.filter_nil, ← hheld]
  rfl

end

/-! ### The host's writes (R259, R260) -/

section
variable {s u : State} {fn : Fin 4} {rq : BitVec 16} {off : BitVec 38} {data : List (BitVec 8)}

/-- The write of the host, as it joins its stream. -/
def State.hostPut (s : State) (fn : Fin 4) (rq : BitVec 16) (off : BitVec 38) (data : List (BitVec 8)) : Inbound :=
  { fn := fn.val, requester := rq.toNat, pieces := inboundLines ((s.device fn.val).apbase + off.toNat) data }

/-- The state in which it has joined it. -/
def State.hostPutJoined (s : State) (fn : Fin 4) (rq : BitVec 16) (off : BitVec 38) (data : List (BitVec 8)) : State :=
  { s with io := { s.io with inbound := s.io.inbound ++ [s.hostPut fn rq off data] } }

section
variable (hready : s.module.ready = true) (hpieces : (s.hostPut fn rq off data).pieces ≠ [])
include hready hpieces

theorem exec_inboundWrite : exec (.inboundWrite fn rq off data) s =
      if s.streamHeld ⟨fn, rq⟩ || (s.hostPut fn rq off data).pieces.length != 1 then .next (s.hostPutJoined fn rq off data)
      else .next ((s.hostPutJoined fn rq off data).placePiece s.io.inbound.length 0) := by
  have hsome : (!s.module.ready || (s.hostPut fn rq off data).pieces.isEmpty) = false := by simp [hready, hpieces]
  change execInboundWrite fn rq off data s = _
  unfold execInboundWrite
  exact if_neg (by rw [Bool.not_eq_true]; exact hsome)

theorem exec_inboundWrite_joins
    (hwaits : s.streamHeld ⟨fn, rq⟩ = true ∨ (s.hostPut fn rq off data).pieces.length ≠ 1) :
    exec (.inboundWrite fn rq off data) s = .next (s.hostPutJoined fn rq off data) := by
  rw [exec_inboundWrite hready hpieces]
  exact if_pos (by simpa using hwaits)

theorem exec_inboundWrite_placed (hfree : s.streamHeld ⟨fn, rq⟩ = false)
    (hone : (s.hostPut fn rq off data).pieces.length = 1) : exec (.inboundWrite fn rq off data) s =
      .next ((s.hostPutJoined fn rq off data).placePiece s.io.inbound.length 0) := by
  rw [exec_inboundWrite hready hpieces]
  exact if_neg (by simp [hfree, hone])

end
end

section
variable {s u : State} {i j : Nat} {w : Inbound} {others : List (Nat × Inbound)}

/-- Every piece of a stream's first write may be placed. -/
theorem State.getElem?_freePieces_head {j : Nat} (hj : j < w.pieces.length) :
    ∃ rest, s.freePieces true [] ((i, w) :: others) = (List.range w.pieces.length).map (fun j => (i, j)) ++ rest ∧
      (s.freePieces true [] ((i, w) :: others))[j]? = some (i, j) := by
  have hpieces : ∃ rest, s.freePieces true [] ((i, w) :: others) = (List.range w.pieces.length).map (fun j => (i, j)) ++ rest := by
    simp [State.freePieces]
  obtain ⟨rest, hrest⟩ := hpieces
  refine ⟨rest, hrest, ?_⟩
  rw [hrest, List.getElem?_append_left (by simpa using hj)]
  simp [hj]

theorem State.placeNext_head {fn requester : Nat} (hstream : s.streamOf fn requester = (i, w) :: others)
    (hj : j < w.pieces.length) : s.placeNext fn requester j = s.placePiece i j := by
  obtain ⟨rest, hrest, hpiece⟩ := State.getElem?_freePieces_head (s := s) (i := i) (others := others) hj
  have hlength : j < (s.freePieces true [] ((i, w) :: others)).length := by
    rw [hrest]
    simp
    omega
  unfold State.placeNext
  simp only [hstream]
  rw [Nat.mod_eq_of_lt hlength, hpiece]

section
variable {at_ : Nat} {bs : List Byte} (hw : s.io.inbound[i]? = some w) (hpiece : w.pieces[j]? = some (at_, bs))
include hw hpiece

theorem State.placePiece_ok {v : Nat}
    (hwrite : s.inboundPiece w.fn 1 at_ w.drains (.write bs.length (bytesNat bs)) = (.ok v, u)) :
    s.placePiece i j = u.endPiece i j false := by
  have hget : w.pieces.getD j default = (at_, bs) := by rw [List.getD_eq_getElem?_getD, hpiece]; rfl
  unfold State.placePiece
  simp only [hw, hget, hwrite]

/-- A write that its page refuses is reported once. -/
theorem State.placePiece_refused {c : BitVec 10}
    (hwrite : s.inboundPiece w.fn 1 at_ w.drains (.write bs.length (bytesNat bs)) = (.fault c, u))
    (hrefused : refusedBy c = true) :
    s.placePiece i j = (if w.dropped then u else u.dropWrite w.fn at_).endPiece i j true := by
  have hget : w.pieces.getD j default = (at_, bs) := by rw [List.getD_eq_getElem?_getD, hpiece]; rfl
  unfold State.placePiece
  simp only [hw, hget, hwrite, hrefused]
  cases w.dropped <;> rfl

end
end

/-! ### The host's reads (R260) -/

/-- The state with the host's reads that go on. -/
def State.setReading (s : State) (l : List Reading) : State := { s with io := { s.io with reading := l } }

section
variable {s u : State} {fn : Fin 4} {rq : BitVec 16} {off : BitVec 38} {len at_ n v : Nat} {lines : List (Nat × Nat)}

/-- The read of the host, as it begins. -/
def State.hostGet (s : State) (fn : Fin 4) (rq : BitVec 16) (off : BitVec 38) (len : Nat) : Reading :=
  { fn := fn.val, requester := rq.toNat, va := (s.device fn.val).apbase + off.toNat, len := len,
    pieces := linePieces ((s.device fn.val).apbase + off.toNat) (len / 128 + 2) len }

theorem exec_inboundRead (hready : s.module.ready = true) (hfree : s.streamHeld ⟨fn, rq⟩ = false)
    (hreading : s.io.reading = []) : exec (.inboundRead fn rq off len) s = .next (s.readOn (s.hostGet fn rq off len) []) := by
  change execInboundRead fn rq off len s = _
  unfold execInboundRead
  simp only [hreading, hready, hfree, List.find?_nil, List.filter_nil]
  rfl

theorem State.readOn_ok {r : Reading} (hpieces : r.pieces = (at_, n) :: lines)
    (hread : s.inboundPiece r.fn 0 at_ [] (.read n) = (.ok v, u)) (hgot : r.got = []) : s.readOn r [] =
      if lines.isEmpty then (u.setReading []).send (.readData r.fn (some (natBytes n v)))
      else u.setReading [{ r with pieces := lines, got := natBytes n v }] := by
  unfold State.readOn
  simp only [hpieces, hread, hgot, List.nil_append]
  rfl

theorem State.readOn_fault {r : Reading} {c : BitVec 10} (hpieces : r.pieces = (at_, n) :: lines)
    (hread : s.inboundPiece r.fn 0 at_ [] (.read n) = (.fault c, u)) : s.readOn r [] =
      (u.setReading []).send (if refusedBy c then .readData r.fn none else .readAbort r.fn) := by
  unfold State.readOn
  simp only [hpieces, hread]
  rfl

end

/-- Settles O48: an equation for each step, in each of the cases that the statement names. -/
theorem peerEventResults : Obligations.PeerEventResults := by
  unfold Obligations.PeerEventResults
  intro s u req p v r a pin m sd dev fn tag rq off data len at_ n bs w c j i lines others key next put answer stream
  refine ⟨?source, exec_peerTimeout_near, ?target, ?cancel, ?write, ?release, ?place, ?read⟩
  case source =>
    intro hreq hhost hfar
    refine ⟨fun hkind htag hdown hfree => ?_, fun hport hresult hdown => ⟨exec_peerResponse_answer hreq hhost hport hresult hdown,
      exec_peerResponse_cancelled hreq hhost hport hresult hdown, exec_peerTimeout_far hreq hhost hport hresult hdown hfar⟩⟩
    intro tagged counted
    have hexec := exec_peerTagAssign hreq hhost hfar hkind htag hdown hfree
    refine ⟨fun hp => ?_, fun hp => ?_⟩
    · rw [hexec, show s.portFor (s.tagged r) = some p from hp]
      rfl
    · rw [hexec, show s.portFor (s.tagged r) = none from hp]
      rfl
  case target =>
    rintro rfl rfl hheld
    refine ⟨exec_peerTarget_cancelled hheld, fun e htag hopen => exec_peerTarget_again hheld htag hopen, fun htag haccess => ?_,
      fun htag haccess => ?_, fun htag hopen => exec_peerTarget_performs hheld htag hopen⟩
    · rw [exec_peerTarget_untagged hheld htag, haccess]
      rfl
    · rw [exec_peerTarget_untagged hheld htag, haccess]
      rfl
  case cancel => exact ⟨fun e => exec_peerCancel_performed, exec_peerCancel_refused⟩
  case write =>
    intro va new joined hready hpieces
    exact ⟨exec_inboundWrite_joins hready hpieces, exec_inboundWrite_placed hready hpieces⟩
  case release => exact fun hstream hj => congrArg _ (State.placeNext_head hstream hj)
  case place => exact fun hw hpiece => ⟨State.placePiece_ok hw hpiece, State.placePiece_refused hw hpiece⟩
  case read =>
    intro va keep first hready hfree hreading hlines
    rw [exec_inboundRead hready hfree hreading]
    refine ⟨fun hfirst => ?_, fun hfirst => ?_⟩
    · rw [State.readOn_ok (r := s.hostGet fn rq off len) hlines hfirst rfl]
      rfl
    · rw [State.readOn_fault (r := s.hostGet fn rq off len) hlines hfirst]
      rfl

end Sys2Proof.Machine

namespace Sys2Proof.Machine

/-! ## The matrix unit (O39, O40; R285 to R300) -/

/-! ### What the state of a workgroup leaves alone -/

section
variable (s : State) (x : Workgroup)

@[simp] theorem State.view_setG : (s.setG x).view = s.view := by
  rw [State.view, State.w_setG]
  rfl

@[simp] theorem State.S_setG (r : BitVec 6) : (s.setG x).S r = s.S r := by
  rw [State.S, State.view_setG, State.S]

@[simp] theorem State.V_setG (r l : Nat) : (s.setG x).V r l = s.V r l := by
  rw [State.V, State.view_setG, State.V]

@[simp] theorem State.f_setG : (s.setG x).f = s.f := congrArg (fun w : Warp => Tab.get w.frags {} s.focus.frag) (s.w_setG x)

theorem State.t_setG (htask : x.task = s.g.task) : (s.setG x).t = s.t := by
  rw [State.t, State.g_setG, htask]
  rfl

end

/-! ### Flights whose accesses may be made in any order -/

section
variable {s t : State} {c : Chk Flight} {fl : Flight} {commits : Bool} {got : Tab Nat} {done : State → Flight → Res}
  (hfree : fl.free = true) (hfault : fl.fault = none) (hdrains : fl.drains = [])
include hfree hfault hdrains

/-- A flight of one page whose accesses all end at once makes them in order, and is done. -/
theorem fly_free_of_accessAll {n : Nat} (hn : fl.reqs.length < n)
    (h : s.accessAll fl.type fl.commits fl.reqs fl.got = some (t, got)) :
    ∃ d, s.fly n fl = .done (t.setF { t.f with flight := some { fl with reqs := [], got := got, done := d } }) := by
  obtain ⟨n, rfl⟩ : ∃ m, n = m + 1 := ⟨n - 1, by omega⟩
  cases hreqs : fl.reqs with
  | nil =>
    rw [hreqs] at h
    cases h
    refine ⟨fl.done, ?_⟩
    unfold State.fly
    simp only [hreqs, hfault]
    rw [← hreqs, ← hfault]
  | cons r rest =>
    obtain ⟨n, rfl⟩ : ∃ m, n = m + 1 := ⟨n - 1, by rw [hreqs, List.length_cons] at hn; omega⟩
    obtain ⟨d, hd⟩ := passPage_of_accessAll [] (by simp [hreqs]) hfault hdrains h
    refine ⟨d, ?_⟩
    have hpage : fl.reqs.filter (fun q => fl.free || q.pg = r.pg) = fl.reqs := by simp [hfree]
    have hrest : fl.reqs.filter (fun q => !fl.free && q.pg != r.pg) = [] := by simp [hfree]
    rw [hreqs] at hpage hrest hd
    unfold State.fly
    simp only [hreqs, hpage, hrest, hd, hfault]
    simp [State.fly]

/-- A word of such a flight: it makes its accesses in order, and then does `done`. -/
theorem runFlight_free_of_accessAll (hfresh : s.Fresh) (hc : c = .ok fl) (hflown : s.flown commits fl = some (t, got)) :
    ∃ d, s.runFlight c commits done =
      (done t { fl with reqs := [], got := got, done := d, strict := s.touchesShared fl.reqs }).bind (fun s =>
        .done (if fl.keep && s.w.progress.pc = s.f.pc && s.w.progress.pos = s.focus.pos then
          s.setW { s.w with progress := {} } else s)) := by
  obtain ⟨hflight, harmed⟩ := hfresh
  have hall : (fl.reqs.filter (fun r => !(0 : BitVec 32).getLsbD r.lane)) = fl.reqs := by simp
  simp only [State.flown] at hflown
  split at hflown <;> cases hflown
  rename_i t got h
  obtain ⟨d, hd⟩ := fly_free_of_accessAll (n := ((s.begun commits fl fl.reqs).orderReqs fl.reqs).length + 1)
    (s := s.begun commits fl fl.reqs)
    (fl := { fl with done := 0, strict := s.touchesShared fl.reqs, reqs := (s.begun commits fl fl.reqs).orderReqs fl.reqs })
    hfree hfault hdrains (by simp) h
  refine ⟨d, ?_⟩
  simp only [State.runFlight, hflight, Chk.run_ok hc, harmed, Bool.and_false, Bool.false_and, Bool.false_eq_true, if_false, hall]
  rw [hd]
  simp [Res.bind, State.landed, State.noting_setF]

/-- A word of such a flight that keeps no progress ends, once its accesses have all ended, as `done` does. -/
theorem runFlight_free_ends {r : Res} (hfresh : s.Fresh) (hc : c = .ok fl) (hkeep : fl.keep = false)
    (hflown : s.flown commits fl = some (t, got))
    (hdone : ∀ d strict, done t { fl with reqs := [], got := got, done := d, strict := strict } = r) :
    s.runFlight c commits done = r := by
  obtain ⟨d, hrun⟩ := runFlight_free_of_accessAll (done := done) hfree hfault hdrains hfresh hc hflown
  rw [hrun, hdone, hkeep]
  cases r <;> rfl

end

/-! ### Tiles (R285, R286, R296) -/

section
variable {g : Workgroup} {t : Nat}

theorem Workgroup.row_setRow (r r' : Nat) (xs : List Word32) :
    (g.setRow t r xs).row t r' = if r' = r then xs else g.row t r' := by
  unfold Workgroup.row Workgroup.setRow
  split
  · rw [‹r' = r›, Tab.get_set_self]
  · exact Tab.get_set_other _ _ _ _ _ (by omega)

/-- Rows that differ from one another are each replaced by what they were. -/
theorem Workgroup.row_mapRows {rows : List Nat} (hnodup : rows.Nodup) (f : Nat → List Word32 → List Word32) (r : Nat) :
    (g.mapRows t rows f).row t r = if r ∈ rows then f r (g.row t r) else g.row t r := by
  induction rows generalizing g with
  | nil => rfl
  | cons q rows ih =>
    obtain ⟨hq, hrows⟩ := List.nodup_cons.mp hnodup
    change ((g.setRow t q (f q (g.row t q))).mapRows t rows f).row t r = _
    rw [ih hrows, Workgroup.row_setRow]
    by_cases hr : r = q
    · subst hr
      simp [hq]
    · simp [hr]

end

section
variable {s : State} {t : Nat}

theorem State.mem_tileRows {r : Nat} : r ∈ s.tileRows ↔ r < 96 ∧ s.active.getLsbD (r % 32) = true := by
  rw [State.tileRows, List.mem_filter, List.mem_range]

theorem State.tileRows_nodup : s.tileRows.Nodup := List.nodup_range.filter _

theorem State.tileRows_ne_nil (hactive : s.active ≠ 0) : s.tileRows ≠ [] := by
  have hlane := lowLane_active hactive
  have hlow : lowLane s.active < 32 := Decidable.byContradiction fun h => by
    rw [BitVec.getLsbD_of_ge _ _ (by omega)] at hlane
    exact Bool.false_ne_true hlane
  exact List.ne_nil_of_mem (State.mem_tileRows.mpr ⟨show lowLane s.active < 96 by omega, by rwa [Nat.mod_eq_of_lt hlow]⟩)

/-- The tile after its selected rows have changed. -/
theorem State.tileAt_mapRows (f : Nat → List Word32 → List Word32) {r : Nat} (c : Nat) (hr : r < 96) :
    (s.setG (s.g.mapRows t s.tileRows f)).tileAt t r c =
      if s.active.getLsbD (r % 32) then (f r (s.g.row t r)).getD c 0 else s.tileAt t r c := by
  have hmem : r ∈ s.tileRows ↔ s.active.getLsbD (r % 32) = true := by simp [State.mem_tileRows, hr]
  rw [State.tileAt, State.g_setG, Workgroup.row_mapRows State.tileRows_nodup]
  simp only [hmem]
  split <;> rfl

theorem State.tileWrite_ready (h : s.TileReady t) (next : State → Res) : s.tileWrite t next = next s := by
  unfold State.tileWrite
  rcases h with hpersist | ⟨hkeeper, hwritten⟩
  · simp only [hpersist, Bool.not_false, if_true]
  · simp only [hkeeper, hwritten, Option.isSome_some, Bool.and_self, if_true, ite_self]

theorem State.checkKeeper_kept (h : Tab.find s.g.keeper t = none ∨ Tab.find s.g.keeper t = some s.w.warpId) :
    s.checkKeeper t = .ok () := by
  unfold State.checkKeeper
  rcases h with h | h <;> simp [h]

theorem State.checkKeeper_ready (h : s.TileReady t) : s.checkKeeper t = .ok () := by
  rcases h with hpersist | ⟨hkeeper, -⟩
  · unfold State.checkKeeper
    simp [hpersist]
  · exact State.checkKeeper_kept (.inr hkeeper)

end

section
variable (s : State) (t : Nat)

@[simp] theorem State.w_noteTile : (s.noteTile t).w = s.w := s.w_setG _
@[simp] theorem State.f_noteTile : (s.noteTile t).f = s.f := s.f_setG _
@[simp] theorem State.t_noteTile : (s.noteTile t).t = s.t := s.t_setG _ rfl
@[simp] theorem State.S_noteTile (r : BitVec 6) : (s.noteTile t).S r = s.S r := s.S_setG _ r
@[simp] theorem State.V_noteTile (r l : Nat) : (s.noteTile t).V r l = s.V r l := s.V_setG _ r l
@[simp] theorem State.active_noteTile : (s.noteTile t).active = s.active := s.active_setG _
@[simp] theorem State.mem_noteTile : (s.noteTile t).mem = s.mem := rfl
@[simp] theorem State.focus_noteTile : (s.noteTile t).focus = s.focus := rfl

@[simp] theorem State.window_noteTile : (s.noteTile t).window = s.window := by
  rw [State.window, State.t_noteTile, State.window]

@[simp] theorem State.tileRows_noteTile : (s.noteTile t).tileRows = s.tileRows := by
  rw [State.tileRows, State.active_noteTile, State.tileRows]

@[simp] theorem State.row_noteTile (t' r : Nat) : (s.noteTile t).g.row t' r = s.g.row t' r := by
  rw [State.noteTile, State.g_setG]
  rfl

@[simp] theorem State.tileAt_noteTile (t' r c : Nat) : (s.noteTile t).tileAt t' r c = s.tileAt t' r c := by
  rw [State.tileAt, State.row_noteTile, State.tileAt]

@[simp] theorem State.fresh_noteTile : (s.noteTile t).Fresh ↔ s.Fresh := by
  rw [State.Fresh, State.f_noteTile, State.w_noteTile, State.Fresh]

@[simp] theorem State.tileReady_noteTile (t' : Nat) : (s.noteTile t).TileReady t' ↔ s.TileReady t' := by
  rw [State.TileReady, State.t_noteTile, State.w_noteTile, State.noteTile, State.g_setG, State.TileReady]

@[simp] theorem State.tagged_noteTile (tag : Tag) (r : Nat) : (s.noteTile t).Tagged tag r ↔ s.Tagged tag r := by
  have hvregs : (s.noteTile t).vregs = s.vregs := by rw [State.vregs, State.t_noteTile, State.vregs]
  simp only [State.Tagged, State.Holds, State.active_noteTile, State.V_noteTile, hvregs]

end

/-! ### MPROG (R287) -/

theorem lowBit_eq_none {x i n : Nat} : lowBit x i n = none ↔ x / 2 ^ i % 2 ^ n = 0 := by
  induction n generalizing i with
  | zero => simp [lowBit, Nat.mod_one]
  | succ n ih =>
    have hstep : x / 2 ^ i % 2 ^ (n + 1) = x / 2 ^ i % 2 + 2 * (x / 2 ^ (i + 1) % 2 ^ n) := by
      rw [Nat.pow_succ', Nat.mod_mul, Nat.div_div_eq_div_mul, ← Nat.pow_succ]
    rw [lowBit, hstep]
    by_cases hbit : x / 2 ^ i % 2 = 1
    · rw [if_pos (by simp [bitOf, hbit]), hbit]
      simp
    · rw [if_neg (by simp [bitOf, hbit]), ih]
      omega

theorem Mcfg.es_pos (m : Mcfg) : 0 < m.es := by
  unfold Mcfg.es
  split <;> decide

/-- The element size is 1, 2 or 4. -/
theorem Mcfg.es_dvd (m : Mcfg) : m.es ∣ 4 := by
  unfold Mcfg.es
  split <;> decide

theorem Mcfg.lowBit_eq_none (m : Mcfg) (v : Nat) : lowBit (v % m.es) 0 2 = none ↔ v % 2 ^ 32 % m.es = 0 := by
  have hlt : v % m.es < 2 ^ 2 := (Nat.mod_lt _ m.es_pos).trans_le (Nat.le_of_dvd (by decide) m.es_dvd)
  rw [Sys2Proof.Machine.lowBit_eq_none, Nat.mod_mod_of_dvd v (m.es_dvd.trans (by decide)), Nat.pow_zero, Nat.div_one,
    Nat.mod_eq_of_lt hlt]

/-- What MPROG asks of its two words (R287). -/
def mprogOk (x y : Word64) : Prop :=
  x.toNat < 2 ^ 21 ∧ (Mcfg.of (x, y)).lda % (Mcfg.of (x, y)).es = 0 ∧ (Mcfg.of (x, y)).ldb % (Mcfg.of (x, y)).es = 0

/-- The lowest wrong bit of the second word of an MPROG, for elements of `es` bytes. -/
def strideBit (y es : Nat) : Option Nat :=
  match lowBit (y % es) 0 2 with
  | some i => some i
  | none => (lowBit (y / 2 ^ 32 % es) 0 2).map (32 + ·)

theorem mprogOk_iff (x y : Word64) :
    mprogOk x y ↔ lowBit x.toNat 21 43 = none ∧ strideBit y.toNat (Mcfg.of (x, y)).es = none := by
  have hfirst : lowBit x.toNat 21 43 = none ↔ x.toNat < 2 ^ 21 := by
    rw [Sys2Proof.Machine.lowBit_eq_none]
    have := x.isLt
    omega
  have hsecond : strideBit y.toNat (Mcfg.of (x, y)).es = none ↔
      (Mcfg.of (x, y)).lda % (Mcfg.of (x, y)).es = 0 ∧ (Mcfg.of (x, y)).ldb % (Mcfg.of (x, y)).es = 0 := by
    have hlda : (Mcfg.of (x, y)).lda = y.toNat % 2 ^ 32 := by simp [Mcfg.of, bitsOf]
    have hldb : (Mcfg.of (x, y)).ldb = y.toNat / 2 ^ 32 % 2 ^ 32 := by simp [Mcfg.of, bitsOf]
    rw [hlda, hldb, ← Mcfg.lowBit_eq_none, ← Mcfg.lowBit_eq_none, strideBit]
    cases lowBit (y.toNat % (Mcfg.of (x, y)).es) 0 2 <;> simp
  rw [mprogOk, hfirst, hsecond]

section
variable {s : State} {o : OpR}

theorem exec_mprog : exec (.mprog o) s =
    (match lowBit (s.S o.a).toNat 21 43, strideBit (s.S o.b).toNat (Mcfg.of (s.S o.a, s.S o.b)).es with
    | some i, _ => Res.trap (s.setW { s.w with mcfg := none }) 0x1D1 (matData 0 4 i)
    | none, some i => .trap (s.setW { s.w with mcfg := none }) 0x1D1 (matData 0 5 i)
    | none, none => .done (s.setW { s.w with mcfg := some (s.S o.a, s.S o.b) })).out := rfl

theorem exec_mprog_ok (h : mprogOk (s.S o.a) (s.S o.b)) :
    exec (.mprog o) s = .next (s.setW { s.w with mcfg := some (s.S o.a, s.S o.b) }).ended := by
  obtain ⟨hfirst, hsecond⟩ := (mprogOk_iff _ _).mp h
  rw [exec_mprog, hfirst, hsecond]
  rfl

theorem exec_mprog_bad (h : ¬mprogOk (s.S o.a) (s.S o.b)) :
    ∃ d, Traps (exec (.mprog o) s) (s.setW { s.w with mcfg := none }) 0x1D1 d := by
  rw [mprogOk_iff] at h
  rw [exec_mprog]
  cases hfirst : lowBit (s.S o.a).toNat 21 43 with
  | some i => exact ⟨_, rfl⟩
  | none =>
    cases hsecond : strideBit (s.S o.b).toNat (Mcfg.of (s.S o.a, s.S o.b)).es with
    | some i => exact ⟨_, rfl⟩
    | none => exact absurd ⟨hfirst, hsecond⟩ h

end

/-! ### MRD, MWR and MZERO (R298, R299) -/

theorem indexFault_ok {k : Nat} (t : Nat) (h : k / 256 < 3 ∧ k % 256 < 192) : indexFault t k = .ok () :=
  if_pos (by simpa [slabOk] using h)

theorem indexFault_out {k : Nat} (t : Nat) (h : ¬(k / 256 < 3 ∧ k % 256 < 192)) :
    indexFault t k = .error (0x1D4, BitVec.ofNat 64 (t % 4 + 3 * 4 + min k (2 ^ 32 - 1) * 2 ^ 32)) := by
  have hmin : min k (2 ^ 32 - 1) % 2 ^ 32 = min k (2 ^ 32 - 1) := Nat.mod_eq_of_lt (by omega)
  rw [indexFault, if_neg (by simpa [slabOk] using h), matData, hmin]

/-- A column of a slab that the lanes of the fragment have written. -/
def State.slabWritten (s : State) (t a k : Nat) : State :=
  s.setG (s.g.mapRows t ((lanesOf s.active).map (32 * (k / 256) + ·))
    (fun r xs => xs.set (k % 256) (s.V a (r - 32 * (k / 256))).val))

section
variable {s : State} {t d a k : Nat}

theorem State.out_mrd : (s.mrd d t k).out = .next ((s.noteTile t).writes 0
    ((lanesOf s.active).map (fun l => .v d l ⟨s.tileAt t (32 * (k / 256) + l) (k % 256), .f32⟩))) := by
  simp only [State.mrd, State.row_noteTile, State.active_noteTile]
  rfl

theorem State.mwr_ready (hactive : s.active ≠ 0) (htag : s.Tagged .f32 a) (hready : s.TileReady t) :
    s.mwr t a k = .done ((s.noteTile t).slabWritten t a k) := by
  have hready' : (s.noteTile t).TileReady t := by simpa using hready
  have htag' : (s.noteTile t).checkTag a 0 (· == .f32) = .ok .f32 :=
    checkTag_ok (by simpa using hactive) (by simpa using htag) 0 rfl
  unfold State.mwr
  dsimp only
  rw [Chk.bind_ok htag', Chk.run_ok (State.checkKeeper_ready hready'), State.tileWrite_ready hready', State.slabWritten,
    Workgroup.mapRows, List.foldl_map]
  simp only [Nat.add_sub_cancel_left]

/-- The rows that the lanes of a fragment name in a slab. -/
theorem mem_slabRows {m : BitVec 32} {q r : Nat} :
    r ∈ (lanesOf m).map (32 * q + ·) ↔ r / 32 = q ∧ m.getLsbD (r % 32) = true := by
  simp only [List.mem_map, mem_lanesOf]
  constructor
  · rintro ⟨i, hi, rfl⟩
    have hlt : i < 32 := Decidable.byContradiction fun h => by simp [BitVec.getLsbD_of_ge m i (by omega)] at hi
    rw [Nat.mul_add_mod, Nat.mod_eq_of_lt hlt]
    exact ⟨by omega, hi⟩
  · rintro ⟨rfl, hr⟩
    exact ⟨r % 32, hr, Nat.div_add_mod r 32⟩

theorem State.tileAt_slabWritten {r c : Nat} (hlength : (s.g.row t r).length = 192) (hc : c < 192) :
    (s.slabWritten t a k).tileAt t r c = if s.active.getLsbD (r % 32) then
      (if r / 32 = k / 256 ∧ c = k % 256 then (s.V a (r % 32)).val else s.tileAt t r c) else s.tileAt t r c := by
  have hnodup : ((lanesOf s.active).map (32 * (k / 256) + ·)).Nodup :=
    ((lanesOf_sorted s.active).imp ne_of_lt).map _ (fun _ _ h => by simpa using h)
  rw [State.slabWritten, State.tileAt, State.g_setG, Workgroup.row_mapRows hnodup]
  simp only [mem_slabRows]
  by_cases hlane : s.active.getLsbD (r % 32) = true
  · by_cases hslab : r / 32 = k / 256
    · have hrow : r - 32 * (k / 256) = r % 32 := by omega
      rw [if_pos ⟨hslab, hlane⟩, if_pos hlane, hrow, List.getD_eq_getElem?_getD, List.getElem?_set]
      by_cases hcol : c = k % 256
      · simp [hslab, hcol, hlength, hcol ▸ hc]
      · simp [hcol, Ne.symm hcol, State.tileAt]
    · simp [hslab, hlane, State.tileAt]
  · simp [hlane, State.tileAt]

end

section
variable {s u : State} {o : OpR} {oi : OpI} {t a k : Nat}

/-- A tile word in focus has ended: in the rows of its lanes it has given the tile `t` the values `new row column old`, and it has
changed no other value of the tile and no byte of memory. -/
def State.ChangesTile (s : State) (r : Host.Outcome State Fault Refusal) (t : Nat) (new : Nat → Nat → Word32 → Word32) : Prop :=
  Completes r (fun u => u.mem = s.mem ∧ ∀ r c, r < 96 → c < 192 →
    u.tileAt t r c = if s.active.getLsbD (r % 32) then new r c (s.tileAt t r c) else s.tileAt t r c)

theorem State.mwr_changesTile (hactive : s.active ≠ 0) (htag : s.Tagged .f32 a) (hready : s.TileReady t)
    (hlength : ∀ r, (s.g.row t r).length = 192) : s.ChangesTile (s.mwr t a k).out t
      (fun r c old => if r / 32 = k / 256 ∧ c = k % 256 then (s.V a (r % 32)).val else old) := by
  rw [State.mwr_ready hactive htag hready]
  refine ⟨_, rfl, rfl, rfl, fun r c _ hc => ?_⟩
  refine (State.tileAt_slabWritten (by simpa using hlength r) hc).trans ?_
  simp only [State.active_noteTile, State.V_noteTile, State.tileAt_noteTile]

/-- A tile whose selected rows are zero. -/
def State.tileZeroed (s : State) (t : Nat) : State := s.setG (s.g.mapRows t s.tileRows (fun _ xs => xs.map (fun _ => 0)))

theorem State.tileAt_tileZeroed {r c : Nat} (hr : r < 96) :
    (s.tileZeroed t).tileAt t r c = if s.active.getLsbD (r % 32) then 0 else s.tileAt t r c := by
  have hzero (xs : List Word32) : (xs.map (fun _ => (0 : Word32))).getD c 0 = 0 := by
    rw [List.map_const', List.getD_eq_getElem?_getD, List.getElem?_replicate]
    split <;> rfl
  rw [State.tileZeroed, State.tileAt_mapRows _ _ hr, hzero]

theorem exec_mzero {w : State} (hkeeper : (s.noteTile (o.d.toNat % 4)).checkKeeper (o.d.toNat % 4) = .ok ())
    (hwrite : ∀ next, (s.noteTile (o.d.toNat % 4)).tileWrite (o.d.toNat % 4) next = next w) :
    exec (.mzero o) s = .next (w.tileZeroed (o.d.toNat % 4)).ended := by
  change execMzero o s = _
  unfold execMzero
  dsimp only
  rw [Chk.run_ok hkeeper, hwrite]
  rfl

theorem mzero_changesTile (hready : s.TileReady (o.d.toNat % 4)) :
    s.ChangesTile (exec (.mzero o) s) (o.d.toNat % 4) (fun _ _ _ => 0) := by
  have hready' : (s.noteTile (o.d.toNat % 4)).TileReady (o.d.toNat % 4) := by simpa using hready
  rw [exec_mzero (State.checkKeeper_ready hready') (State.tileWrite_ready hready')]
  refine ⟨_, rfl, rfl, rfl, fun r c hr _ => ?_⟩
  refine (State.tileAt_tileZeroed hr).trans ?_
  simp only [State.active_noteTile, State.tileAt_noteTile]

/-- A tile that the warp in focus keeps, and that it has written (R296). -/
def State.tileKept (s : State) (g : Workgroup) (w : Nat) (t : Nat) : State :=
  s.setG { s.g with keeper := Tab.set g.keeper t w, written := addNat g.written t }

/-- The first write of a persistent tile since its keeper's mark makes the snapshot first (R296). -/
theorem State.tileWrite_first {v : Nat} (hpersist : s.t.desc.persist.getLsbD t = true)
    (hfirst : Tab.find s.g.keeper t = none ∨ t ∉ s.g.written)
    (hbacking : s.writeBacking s.focus.core s.g.task (s.g.tilePages s.t.desc t) (s.g.tileBytes t) = (.ok v, u))
    (next : State → Res) : s.tileWrite t next = next (u.tileKept s.g s.w.warpId t) := by
  have hunkept : ((Tab.find s.g.keeper t).isSome && s.g.written.contains t) = false := by
    rcases hfirst with h | h <;> simp [h]
  unfold State.tileWrite
  simp only [hpersist, hunkept, hbacking, Bool.not_true, Bool.false_eq_true, if_false]
  rfl

end

/-! ### MSCL (R289) -/

section
variable {s u : State} {o : OpR} {got : Tab Nat}

theorem hullOut_inside {lo hi window : Nat} (hlo : lo < window) (hhi : hi ≤ window) :
    hullOut (some ((lo : Int), (hi : Int))) window = none := by
  unfold hullOut
  dsimp only
  rw [if_neg (by simp; omega), if_neg (by simp; omega)]

/-- The checks of an MSCL (R289), and its flight. -/
def State.msclChecks (s : State) (o : OpR) : Chk Flight :=
  let t := o.d.toNat % 4
  let a := (s.S o.a).toNat
  let b := (s.S o.b).toNat
  let first := bitsOf b 2 0
  let n := bitsOf b 6 3
  let image := imageReqs o.m a n
  let fresh : Flight := { type := 5, plain := true, free := true, whole := image, reqs := image }
  if a % 64 != 0 then .error (0x0A0, alignData o.a (s.S o.a))
  else if n = 0 || 8 < n || 8 < first + n || b / 2 ^ 7 != 0 then .error (0x1D7, matData t 2 b)
  else if o.m then match hullOut (some (a, a + 512 * n)) s.window with
    | some x => .error (0x125, w64 x)
    | none => .ok fresh
  else .ok fresh

theorem State.mscl_eq : s.mscl o = s.runFlight (s.msclChecks o) false (fun u fl => .done (u.putScales (o.d.toNat % 4)
    (bitsOf (s.S o.b).toNat 2 0) (bitsOf (s.S o.b).toNat 6 3) (s.S o.a).toNat fl)) := rfl

theorem State.msclChecks_ok {a b : Nat} (ha : (s.S o.a).toNat = a) (hb : (s.S o.b).toNat = b) (halign : a % 64 = 0)
    (hpos : 0 < bitsOf b 6 3) (hmax : bitsOf b 6 3 ≤ 8) (hlast : bitsOf b 2 0 + bitsOf b 6 3 ≤ 8) (hrest : b < 2 ^ 7)
    (hwindow : o.m = true → a + 512 * bitsOf b 6 3 ≤ s.window) : s.msclChecks o =
      .ok { type := 5, plain := true, free := true, whole := imageReqs o.m a (bitsOf b 6 3),
            reqs := imageReqs o.m a (bitsOf b 6 3) } := by
  unfold State.msclChecks
  simp only [ha, hb]
  rw [if_neg (by simp [halign]), if_neg (by simp; omega)]
  by_cases hm : o.m = true
  · have hend := hwindow hm
    have hin := hullOut_inside (lo := a) (by omega) hend
    push_cast at hin
    simp only [hm, if_true, hin]
  · simp only [hm, Bool.false_eq_true, if_false]

theorem exec_mscl_ends (hfresh : s.Fresh) {fl : Flight} (hchecks : (s.noteTile (o.d.toNat % 4)).msclChecks o = .ok fl)
    (hfree : fl.free = true) (hfault : fl.fault = none) (hdrains : fl.drains = []) (hkeep : fl.keep = false)
    (hflown : (s.noteTile (o.d.toNat % 4)).flown false fl = some (u, got)) : exec (.mscl o) s =
    .next (u.putScales (o.d.toNat % 4) (bitsOf (s.S o.b).toNat 2 0) (bitsOf (s.S o.b).toNat 6 3) (s.S o.a).toNat
      { got := got }).ended := by
  have hfresh' : (s.noteTile (o.d.toNat % 4)).Fresh := by simpa using hfresh
  have hrun : (s.noteTile (o.d.toNat % 4)).mscl o = .done (u.putScales (o.d.toNat % 4) (bitsOf (s.S o.b).toNat 2 0)
      (bitsOf (s.S o.b).toNat 6 3) (s.S o.a).toNat { got := got }) := by
    rw [State.mscl_eq]
    simp only [State.S_noteTile]
    exact runFlight_free_ends hfree hfault hdrains hfresh' hchecks hkeep hflown (fun _ _ => rfl)
  exact congrArg Res.out hrun

end

/-- Settles O39, word by word: a tile is read through `State.out_mrd`, and changed through `State.ChangesTile`. -/
theorem matrixWordResults : Obligations.MatrixWordResults := by
  unfold Obligations.MatrixWordResults
  intro s u o oi got v x y cfg index reads changes mwr
  have hmwr (i : Instr) (t a k : Nat) (hexec : index k → exec i s = (s.mwr t a k).out) : mwr i t a k := by
    intro hk hactive htag hready hlength
    rw [hexec hk]
    exact State.mwr_changesTile hactive htag hready hlength
  refine ⟨fun h1 h2 h3 => exec_mprog_ok ⟨h1, h2, h3⟩, fun h => exec_mprog_bad h, ?mrdR, State.out_mrd, ?mrdOut, ?mwrR, ?mwrI,
    fun hready _ => mzero_changesTile hready, ?persistent, ?mscl⟩
  case mrdR =>
    intro hk
    refine Eq.trans ?_ State.out_mrd
    change ((indexFault _ _).run s _).out = _
    rw [Chk.run_ok (indexFault_ok _ hk)]
  case mrdOut =>
    intro hk
    have hout := indexFault_out (o.a.toNat % 4) hk
    rw [Nat.mod_mod] at hout
    change Traps ((indexFault _ _).run s _).out _ _ _
    rw [Chk.run_error hout]
    rfl
  case mwrR =>
    refine hmwr _ _ _ _ fun hk => ?_
    change ((indexFault _ _).run s _).out = _
    rw [Chk.run_ok (indexFault_ok _ hk)]
  case mwrI => exact hmwr _ _ _ _ fun _ => rfl
  case persistent =>
    intro t n kept hpersist hkept hbacking u'
    have hwrite := State.tileWrite_first hpersist (hkept.imp id And.right) hbacking
    exact ⟨hwrite, exec_mzero (State.checkKeeper_kept (hkept.imp id And.left)) hwrite⟩
  case mscl =>
    intro a n t hfresh halign hpos hmax hlast hrest hwindow hflown
    have hchecks := State.msclChecks_ok (s := s.noteTile t) (o := o) (congrArg _ (s.S_noteTile t o.a))
      (congrArg _ (s.S_noteTile t o.b)) halign hpos hmax hlast hrest (by simpa using hwindow)
    refine exec_mscl_ends hfresh hchecks rfl rfl rfl rfl ?_
    rw [← hflown]
    apply State.flown_congr <;> rfl

end Sys2Proof.Machine

namespace Sys2Proof.Machine

/-! ## The matrix products (O40; R290 to R295, R300) -/

/-! ### The flight of a matrix word from one step to the next -/

/-- A flight of a matrix word between two of its steps: the next one is `i`, and no access is left. -/
structure Flight.Between (fl : Flight) (commits : Bool) (i : Nat) (got : Tab Nat) : Prop where
  type : fl.type = 5
  commits : fl.commits = commits
  free : fl.free = true
  fault : fl.fault = none
  drains : fl.drains = []
  pool : fl.pool = none
  reqs : fl.reqs = []
  step : fl.step = some i
  got : fl.got = got

/-- Nothing is kept of a flight that has landed. -/
theorem State.landed_flying (s : State) (fl : Flight) : (s.setF { s.f with flight := some fl }).landed = s.landed := by
  simp only [State.landed, State.f_setF, State.setF_setF]

section
variable {s t : State} {fl : Flight} {commits : Bool} {i j : Nat} {got got' : Tab Nat}

theorem Flight.Between.goTo (h : fl.Between commits i got) (j : Nat) : ({ fl with step := some j } : Flight).Between commits j got :=
  { h with step := rfl }

theorem Flight.Between.forget (h : fl.Between commits i got) : ({ fl with got := [] } : Flight).Between commits i [] :=
  { h with got := rfl }

/-- The accesses of a step that all end at once. -/
theorem Flight.Between.fly (h : fl.Between commits i got) {reqs : List LaneReq}
    (hall : s.accessAll 5 commits reqs got = some (t, got')) :
    ∃ fl' : Flight, fl'.Between commits i got' ∧
      s.fly (reqs.length + 1) { fl with reqs := reqs } = .done (t.setF { t.f with flight := some fl' }) := by
  obtain ⟨htype, hcommits, hfree, hfault, hdrains, hpool, -, hstep, hgot⟩ := h
  obtain ⟨d, hd⟩ := fly_free_of_accessAll (s := s) (fl := { fl with reqs := reqs }) hfree hfault hdrains (Nat.lt_succ_self _)
    (by simpa only [htype, hcommits, hgot] using hall)
  exact ⟨{ fl with reqs := [], got := got', done := d }, ⟨htype, hcommits, hfree, hfault, hdrains, hpool, rfl, hstep, rfl⟩, hd⟩

end

/-! ### The blocks of an MMA (R293) -/

section
variable {s t u : State} {x : Mma} {fl : Flight} {n i : Nat} {got got' : Tab Nat}

theorem State.mmaBlock_got (hgot : fl.got = got) : s.mmaBlock x fl i = s.mmaBlock x { got := got } i := by
  subst hgot
  rfl

theorem State.mmaBlocks_end (h : fl.Between false (i + 1) got) (hlast : x.m.blocks ≤ i) : s.mmaBlocks x (n + 1) fl = .done s := by
  unfold State.mmaBlocks
  simp only [h.step, Option.getD_some, Nat.add_sub_cancel, hlast, if_true]

theorem State.mmaBlocks_step (h : fl.Between false (i + 1) got) (hi : i < x.m.blocks)
    (hall : s.accessAll 5 false (s.mmaReads x { got := got } i) got = some (t, got')) :
    ∃ fl' : Flight, fl'.Between false (i + 2) got' ∧
      s.mmaBlocks x (n + 1) fl = (t.landed.mmaBlock x { got := got' } i).mmaBlocks x n fl' := by
  obtain ⟨fl', hfl', hfly⟩ := h.fly hall
  refine ⟨_, hfl'.goTo (i + 2), ?_⟩
  have hreads : s.mmaReads x fl i = s.mmaReads x { got := got } i := by rw [← h.got]; rfl
  have hempty : (fl.reqs.isEmpty && fl.fault.isNone) = true := by rw [h.reqs, h.fault]; rfl
  rw [State.mmaBlocks]
  simp only [h.step, Option.getD_some, Nat.add_sub_cancel, Nat.not_le.mpr hi, if_false, hempty, if_true, hreads]
  rw [h.step] at hfly
  rw [hfly]
  simp only [State.f_setF, Option.getD_some, State.landed_flying]
  rw [State.mmaBlock_got (hfl'.goTo (i + 2)).got]

theorem State.mmaBlocks_of_mmaDone (h : fl.Between false (i + 1) got) (hdone : State.mmaDone x n i got s = some u) :
    s.mmaBlocks x n fl = .done u := by
  induction n generalizing i got s fl with
  | zero =>
    cases hdone
    rfl
  | succ n ih =>
    rw [State.mmaDone] at hdone
    by_cases hi : x.m.blocks ≤ i
    · rw [if_pos hi] at hdone
      cases hdone
      exact State.mmaBlocks_end h hi
    · rw [if_neg hi] at hdone
      cases hall : s.accessAll 5 false (s.mmaReads x { got := got } i) got with
      | none => rw [hall] at hdone; cases hdone
      | some e =>
        rw [hall] at hdone
        obtain ⟨fl', hfl', hstep⟩ := State.mmaBlocks_step (n := n) h (Nat.lt_of_not_le hi) hall
        rw [hstep]
        dsimp only at hdone
        split at hdone
        · exact ih hfl' hdone
        · cases hdone

end

/-! ### The rows of an MST (R300) -/

section
variable {s t u : State} {tile n i r : Nat} {bf scr : Bool} {addr : Nat → Nat} {fl : Flight} {got' : Tab Nat}

theorem State.mstRows_end (h : fl.Between (!scr) i []) (hlast : s.tileRows[i]? = none) :
    s.mstRows tile bf scr addr (n + 1) fl = .done s := by
  rw [State.mstRows]
  simp only [h.step, Option.getD_some, hlast]

theorem State.mstRows_step (h : fl.Between (!scr) i []) (hrow : s.tileRows[i]? = some r)
    (hall : s.accessAll 5 (!scr) (rowReqs scr (addr r) (192 * if bf then 2 else 4) (s.storedRow tile r bf)) [] = some (t, got')) :
    ∃ fl' : Flight, fl'.Between (!scr) (i + 1) [] ∧
      s.mstRows tile bf scr addr (n + 1) fl = t.landed.mstRows tile bf scr addr n fl' := by
  obtain ⟨fl', hfl', hfly⟩ := h.fly hall
  refine ⟨_, (hfl'.goTo (i + 1)).forget, ?_⟩
  have hempty : (fl.reqs.isEmpty && fl.fault.isNone) = true := by rw [h.reqs, h.fault]; rfl
  rw [State.mstRows]
  simp only [h.step, Option.getD_some, hrow, h.pool, hempty, if_true]
  rw [h.step, h.pool] at hfly
  rw [hfly]
  simp only [State.f_setF, Option.getD_some, State.landed_flying]

theorem State.mstRows_of_mstDone (h : fl.Between (!scr) i []) (hdone : State.mstDone tile bf scr addr n i s = some u) :
    s.mstRows tile bf scr addr n fl = .done u := by
  induction n generalizing i s fl with
  | zero =>
    cases hdone
    rfl
  | succ n ih =>
    rw [State.mstDone] at hdone
    cases hrow : s.tileRows[i]? with
    | none =>
      rw [hrow] at hdone
      cases hdone
      exact State.mstRows_end h hrow
    | some r =>
      rw [hrow] at hdone
      dsimp only at hdone
      split at hdone
      · rename_i v got' hall
        obtain ⟨fl', hfl', hstep⟩ := State.mstRows_step (n := n) h hrow hall
        rw [hstep]
        split at hdone
        · exact ih hfl' hdone
        · cases hdone
      · cases hdone

end

/-! ### The checks of an MMA and of an MST (R291, R300) -/

theorem headD_mem {α : Type} {xs : List α} (h : xs ≠ []) (d : α) : xs.headD d ∈ xs := by
  obtain ⟨x, xs, rfl⟩ := List.exists_cons_of_ne_nil h
  exact List.mem_cons_self

theorem getLastD_mem {α : Type} {xs : List α} (h : xs ≠ []) (d : α) : xs.getLastD d ∈ xs := by
  rw [List.getLastD_eq_getLast?, List.getLast?_eq_some_getLast h]
  exact List.getLast_mem h

/-- An operand in the scratch window whose hull lies in it, or one that is not in it. -/
theorem hullOut_operand {on : Bool} {lo hi window : Nat} (hlo : lo < hi) (h : on = true → hi ≤ window) :
    (if on then hullOut (some ((lo : Int), (hi : Int))) window else none) = none := by
  split
  · exact hullOut_inside (hlo.trans_le (h ‹_›)) (h ‹_›)
  · rfl

section
variable {x : Mma} (hk : 0 < x.m.k)
include hk

theorem Mma.aAddr_zero_lt (r : Nat) : x.aAddr r 0 < x.aAddr r x.m.k := by
  have hpos := Nat.mul_pos hk x.m.es_pos
  unfold Mma.aAddr
  omega

theorem Mma.bAddr_zero_lt : x.bAddr 0 0 < if x.m.tb then x.bAddr x.m.k 191 else x.bAddr (x.m.k - 1) 192 := by
  unfold Mma.bAddr
  split
  · have hpos := Nat.mul_pos hk x.m.es_pos
    have hmono := Nat.mul_le_mul_right x.m.ldb (show x.co + 0 ≤ x.co + 191 by omega)
    omega
  · have hpos := x.m.es_pos
    have hsum := Nat.add_mul x.co 192 x.m.es
    simp only [Nat.zero_mul, Nat.add_zero]
    omega

end

section
variable {s : State} {x : Mma} {gang : Bool} (hactive : s.active ≠ 0)
include hactive

theorem State.checkMma_ok (hready : s.TileReady x.t) (hk : 0 < x.m.k)
    (hscale : if x.m.fmt = 0 then x.scol + x.m.blocks ≤ 8 else x.scol = 0) (hgang : gang = true → s.t.gang ≠ 1)
    (ha : x.a % x.m.es = 0) (hb : x.b % x.m.es = 0) (hascr : x.m.ascr = true → ∀ r ∈ s.tileRows, x.aAddr r x.m.k ≤ s.window)
    (hbscr : x.m.bscr = true → (if x.m.tb then x.bAddr x.m.k 191 else x.bAddr (x.m.k - 1) 192) ≤ s.window) :
    s.checkMma x gang = .ok () := by
  have hout : (if x.m.ascr then hullOut (some (((x.aAddr (s.tileRows.headD 0) 0 : Nat) : Int),
      ((x.aAddr (s.tileRows.getLastD 0) x.m.k : Nat) : Int))) s.window else none) = none := by
    split
    · have hrows := hascr ‹_›
      exact hullOut_inside ((Mma.aAddr_zero_lt hk _).trans_le (hrows _ (headD_mem (State.tileRows_ne_nil hactive) 0)))
        (hrows _ (getLastD_mem (State.tileRows_ne_nil hactive) 0))
    · rfl
  unfold State.checkMma
  rw [if_neg ?scale, if_neg (by simpa using hgang), if_neg (by simp [ha]), if_neg (by simp [hb])]
  case scale =>
    split at hscale <;> simp [*]
  dsimp only
  rw [hout, hullOut_operand (Mma.bAddr_zero_lt hk) hbscr]
  exact State.checkKeeper_ready hready

/-- The checks of an MST (R300). -/
def State.mstChecks (s : State) (gang scr : Bool) (t a es stride : Nat) (addr : Nat → Nat) : Chk Unit :=
  if gang && s.t.gang = 1 then .error (0x1D3, matData t 3 0)
  else if a % es != 0 then .error (0x1D5, matData t 3 a)
  else if stride % es != 0 then .error (0x1D5, matData t 3 stride)
  else if scr then match hullOut (some (addr (s.tileRows.headD 0), addr (s.tileRows.getLastD 0) + 192 * es)) s.window with
    | some h => .error (0x125, w64 h)
    | none => .ok ()
  else .ok ()

theorem State.mstChecks_ok {scr : Bool} {t a es stride : Nat} {addr : Nat → Nat} (hes : 0 < es)
    (hgang : gang = true → s.t.gang ≠ 1) (ha : a % es = 0) (hstride : stride % es = 0)
    (hscr : scr = true → ∀ r ∈ s.tileRows, addr r + 192 * es ≤ s.window) :
    s.mstChecks gang scr t a es stride addr = .ok () := by
  unfold State.mstChecks
  rw [if_neg (by simpa using hgang), if_neg (by simp [ha]), if_neg (by simp [hstride])]
  split
  · have hrows := hscr ‹_›
    have hhead := hrows _ (headD_mem (State.tileRows_ne_nil hactive) 0)
    have hin := hullOut_inside (show addr (s.tileRows.headD 0) < s.window by omega)
      (hrows _ (getLastD_mem (State.tileRows_ne_nil hactive) 0))
    push_cast at hin
    rw [hin]
  · rfl

end

/-! ### MMA and MST (R290 to R295, R300) -/

section
variable (s : State) (t : Nat)

@[simp] theorem State.gangOffset_noteTile (on : Bool) : (s.noteTile t).gangOffset on = s.gangOffset on := by
  have hrank : (s.noteTile t).g.rank = s.g.rank := by rw [State.noteTile, State.g_setG]
  rw [State.gangOffset, State.t_noteTile, hrank, State.gangOffset]

@[simp] theorem State.whole_noteTile : (s.noteTile t).whole = s.whole := rfl

theorem State.whole_mmaControl (x : Mma) (ctl gamma : Nat) : (s.mmaControl x ctl gamma).whole = s.whole := by
  unfold State.mmaControl
  dsimp only
  split <;> rfl

theorem State.whole_begun (commits : Bool) (fl : Flight) (reqs : List LaneReq) : (s.begun commits fl reqs).whole = s.whole := by
  unfold State.begun
  split <;> rfl

end

theorem State.firstStep_fresh {s : State} (h : s.Fresh) : s.firstStep = 0 := by
  unfold State.firstStep
  simp [h.2]

section
variable {s u : State} {o : OpR} {cfg : Word64 × Word64}

/-- What an MMA under the configuration `cfg` works on (R290 to R293). -/
def State.mmaOf (s : State) (o : OpR) (cfg : Word64 × Word64) : Mma :=
  { m := Mcfg.of cfg, t := o.d.toNat % 4, a := (s.S o.a).toNat, b := (s.S o.b).toNat
    ro := (s.gangOffset (o.sub.getLsbD 2)).1, co := (s.gangOffset (o.sub.getLsbD 2)).2, scol := o.xm.toNat % 8 }

theorem State.mma_fresh (hfresh : s.Fresh) (hcfg : s.w.mcfg = some cfg)
    (hcheck : s.checkMma (s.mmaOf o cfg) (o.sub.getLsbD 2) = .ok ()) (hready : s.TileReady (o.d.toNat % 4)) :
    s.mma o = ((s.mmaControl (s.mmaOf o cfg) (o.sub.toNat % 4) ((s.S o.creg).toNat % 2 ^ 32)).mmaGo (s.mmaOf o cfg)
      { type := 5, plain := true, free := true, step := some 1 }).bind (fun s => .done s.endRows) := by
  unfold State.mma
  simp only [hcfg, hfresh.1]
  refine (Chk.run_ok hcheck s _).trans ?_
  simp only [State.firstStep_fresh hfresh, if_true]
  exact State.tileWrite_ready hready _

theorem exec_mma_ends (hfresh : s.Fresh) (hwhole : s.whole = true) (hcfg : s.w.mcfg = some cfg)
    (hcheck : (s.noteTile (o.d.toNat % 4)).checkMma (s.mmaOf o cfg) (o.sub.getLsbD 2) = .ok ())
    (hready : s.TileReady (o.d.toNat % 4))
    (hdone : State.mmaDone (s.mmaOf o cfg) ((s.mmaOf o cfg).m.blocks + 1) 0 []
      ((s.noteTile (o.d.toNat % 4)).mmaControl (s.mmaOf o cfg) (o.sub.toNat % 4) ((s.S o.creg).toNat % 2 ^ 32)) = some u) :
    exec (.mma o) s = .next u.endRows.ended := by
  have hof : (s.noteTile (o.d.toNat % 4)).mmaOf o cfg = s.mmaOf o cfg := by
    simp only [State.mmaOf, State.S_noteTile, State.gangOffset_noteTile]
  have hrun := State.mma_fresh (s := s.noteTile (o.d.toNat % 4)) (o := o) (cfg := cfg) (by simpa using hfresh)
    (by simpa using hcfg) (by rwa [hof]) (by simpa using hready)
  rw [hof, State.S_noteTile, State.mmaGo, State.whole_mmaControl, State.whole_noteTile, hwhole, if_pos rfl,
    State.mmaBlocks_of_mmaDone (i := 0) (got := []) ⟨rfl, rfl, rfl, rfl, rfl, rfl, rfl, rfl, rfl⟩ hdone] at hrun
  exact congrArg Res.out hrun

/-- The address of a row that an MST stores (R300). -/
def State.mstAddr (s : State) (o : OpR) (r : Nat) : Nat :=
  (s.S o.a).toNat + ((s.gangOffset (o.xm.getLsbD 1)).1 + r) * (s.S o.b).toNat +
    (s.gangOffset (o.xm.getLsbD 1)).2 * (if o.m then 2 else 4)

/-- The flight with which an MST begins. -/
def mstFlight (scr : Bool) : Flight := { type := 5, plain := true, free := true, commits := !scr, step := some 0 }

/-- The state in which an MST of the tile `t` begins its writes. -/
def State.mstBegun (s : State) (o : OpR) (addr : Nat → Nat) : State :=
  s.begun false (mstFlight (o.xm.getLsbD 0)) (s.mstPool (o.d.toNat % 4) o.m (o.xm.getLsbD 0) addr (mstFlight (o.xm.getLsbD 0)))

theorem exec_mst_fresh (hfresh : s.Fresh) : exec (.mst o) s =
    (((s.noteTile (o.d.toNat % 4)).mstChecks (o.xm.getLsbD 1) (o.xm.getLsbD 0) (o.d.toNat % 4) (s.S o.a).toNat
      (if o.m then 2 else 4) (s.S o.b).toNat (s.mstAddr o)).run (s.noteTile (o.d.toNat % 4)) (fun _ =>
        (((s.noteTile (o.d.toNat % 4)).mstBegun o (s.mstAddr o)).mstGo (o.d.toNat % 4) o.m (o.xm.getLsbD 0) (s.mstAddr o)
          (mstFlight (o.xm.getLsbD 0))).bind (fun s => .done s.endRows))).out := by
  have hstep := State.firstStep_fresh (s := s.noteTile (o.d.toNat % 4)) (by simpa using hfresh)
  change execMst o s = _
  unfold execMst
  simp only [State.f_noteTile, hfresh.1, State.S_noteTile, State.gangOffset_noteTile, hstep]
  rfl

theorem exec_mst_ends (hfresh : s.Fresh) (hwhole : s.whole = true)
    (hcheck : (s.noteTile (o.d.toNat % 4)).mstChecks (o.xm.getLsbD 1) (o.xm.getLsbD 0) (o.d.toNat % 4) (s.S o.a).toNat
      (if o.m then 2 else 4) (s.S o.b).toNat (s.mstAddr o) = .ok ())
    (hdone : State.mstDone (o.d.toNat % 4) o.m (o.xm.getLsbD 0) (s.mstAddr o) 97 0
      ((s.noteTile (o.d.toNat % 4)).mstBegun o (s.mstAddr o)) = some u) : exec (.mst o) s = .next u.endRows.ended := by
  have hall : ((s.noteTile (o.d.toNat % 4)).mstBegun o (s.mstAddr o)).whole = true := by
    rw [State.mstBegun, State.whole_begun, State.whole_noteTile, hwhole]
  rw [exec_mst_fresh hfresh, Chk.run_ok hcheck, State.mstGo, hall, Bool.true_or, if_pos rfl,
    State.mstRows_of_mstDone ⟨rfl, rfl, rfl, rfl, rfl, rfl, rfl, rfl, rfl⟩ hdone]
  rfl

end

/-! ### What a block and the control step do to an element (R293) -/

section
variable {s : State} {x : Mma} {fl : Flight} {i r c ctl gamma : Nat}

/-- An element of an operand, from the lines that a flight has read. -/
def Mma.elem (x : Mma) (fl : Flight) (scr : Bool) (a : Nat) : FVal := x.m.format.val (fl.bytesAt scr a x.m.es)

/-- What block `i` adds to the element in row `r` and column `c` (R293). -/
def State.blockTerm (s : State) (x : Mma) (fl : Flight) (i r c : Nat) : FVal :=
  let scale (j : Nat) : FVal := Fmt.f32.val (s.g.scale x.t (x.scol + i) j).toNat
  let p := FVal.sum (((x.ks i).map (fun k => (x.elem fl x.m.ascr (x.aAddr r k)).mul (x.elem fl x.m.bscr (x.bAddr k c)))) ++
    List.replicate (x.m.block - (x.ks i).length) (.fin false 0 0)) .rn
  if x.m.fmt = 0 then p.mul ((scale r).mul (scale (96 + ((x.co + c) / 128 - x.co / 128)))) else p

/-- The old value of an element and what is added to it, rounded once (R151, R293). -/
def addRounded (v : Word32) (p : FVal) : Word32 :=
  BitVec.ofNat 32 (Fmt.f32.round (FVal.sum [Fmt.f32.val v.toNat, p] .rn) .rn false)

/-- One column of a row that is made of its number, what belongs to it, and its old value. -/
theorem getD_map_zip_range {α β : Type} {n c : Nat} (f : Nat → α) (xs : List β) (hc : c < n) (hlength : xs.length = n) (d : β)
    (g : Nat × α × β → β) :
    ((List.zip (List.range n) (List.zip ((List.range n).map f) xs)).map g).getD c d = g (c, f c, xs.getD c d) := by
  have hxs : c < xs.length := by omega
  rw [List.getD_eq_getElem?_getD, List.getD_eq_getElem?_getD, List.getElem?_map, List.getElem?_eq_getElem hxs,
    List.getElem?_eq_getElem (by simp [hc, hxs])]
  simp

theorem State.tileAt_mmaBlock (hr : r < 96) (hc : c < 192) (hlength : (s.g.row x.t r).length = 192) :
    (s.mmaBlock x fl i).tileAt x.t r c = if s.active.getLsbD (r % 32) then
      addRounded (s.tileAt x.t r c) (s.blockTerm x fl i r c) else s.tileAt x.t r c := by
  rw [State.mmaBlock]
  refine (State.tileAt_mapRows _ c hr).trans ?_
  split
  · rw [getD_map_zip_range _ _ hc hlength]
    simp only [List.zipWith_map, List.zipWith_self]
    rfl
  · rfl

theorem getD_map_word (f : Word32 → Word32) {xs : List Word32} (hc : c < xs.length) :
    (xs.map f).getD c 0 = f (xs.getD c 0) := by
  rw [List.getD_eq_getElem?_getD, List.getD_eq_getElem?_getD, List.getElem?_map, List.getElem?_eq_getElem hc]
  rfl

/-- What the control step makes of an element (R293). -/
def controlled (ctl gamma : Nat) (v : Word32) : Word32 :=
  match ctl with
  | 1 => 0
  | 2 => BitVec.ofNat 32 (Fmt.f32.round ((Fmt.f32.val gamma).mul (Fmt.f32.val v.toNat)) .rn false)
  | _ => v

theorem State.tileAt_mmaControl (hr : r < 96) (hc : c < 192) (hlength : (s.g.row x.t r).length = 192) :
    (s.mmaControl x ctl gamma).tileAt x.t r c =
      if s.active.getLsbD (r % 32) then controlled ctl gamma (s.tileAt x.t r c) else s.tileAt x.t r c := by
  rw [State.mmaControl]
  match ctl with
  | 0 => exact (ite_self _).symm
  | 1 => exact (State.tileAt_mapRows _ c hr).trans (if_congr Iff.rfl (getD_map_word _ (by omega)) rfl)
  | 2 => exact (State.tileAt_mapRows _ c hr).trans (if_congr Iff.rfl (getD_map_word _ (by omega)) rfl)
  | n + 3 => exact State.tileAt_mapRows _ c hr

end

/-- Settles O40: the blocks of an MMA and the rows of an MST by `State.mmaBlocks_of_mmaDone` and `State.mstRows_of_mstDone`, and an
element by `State.tileAt_mapRows`. -/
theorem matrixProductResults : Obligations.MatrixProductResults := by
  unfold Obligations.MatrixProductResults
  intro s u o cfg x fl i r c ctl gamma t gang off
  refine ⟨?mma, ?mst, ?block, ?control⟩
  case mma =>
    intro hx m hfresh hactive hwhole hcfg hready hscale hgang ha hb hascr hbscr hdone
    have hx' : x = s.mmaOf o cfg := hx
    have hm : x.m = Mcfg.of cfg := by rw [hx']; rfl
    have ht : x.t = t := by rw [hx']; rfl
    have hcheck : (s.noteTile t).checkMma x gang = .ok () :=
      State.checkMma_ok (by simpa using hactive) (by simpa [ht] using hready) (by rw [hm]; exact Nat.succ_pos _) hscale
        (by simpa using hgang) ha hb (by simpa using hascr) (by simpa using hbscr)
    subst hx'
    exact exec_mma_ends hfresh hwhole hcfg hcheck hready hdone
  case mst =>
    intro scr gang es stride off addr hfresh hactive hwhole hgang ha hstride hscr n hdone
    have hcheck : n.mstChecks gang scr t (s.S o.a).toNat es stride addr = .ok () :=
      State.mstChecks_ok (by simpa [n] using hactive) (by dsimp only [es]; split <;> decide) (by simpa [n] using hgang) ha hstride
        (by simpa [n] using hscr)
    exact exec_mst_ends hfresh hwhole hcheck hdone
  case block =>
    intro m val dot scale p hr hc hlength
    exact State.tileAt_mmaBlock hr hc hlength
  case control => exact fun hr hc hlength => State.tileAt_mmaControl hr hc hlength

end Sys2Proof.Machine

namespace Sys2Proof.Machine

/-! ## The tree words (O41; R303, R304, R308, R309, R312 to R318) -/

/-! ### Running the stages of a tree word -/

section
variable {s u : State} {step : State → TreeStage → Micro} {st : TreeStage} {n : Nat} {d : BitVec 6} {v : Word64}

theorem State.runTree_of_treeDone (h : State.treeDone step n s st = some (u, v)) :
    s.runTree d step n st = .done (u.landed.putS 0 d v) := by
  induction n generalizing s st with
  | zero => cases h
  | succ n ih =>
    rw [State.treeDone] at h
    rw [State.runTree]
    cases hstep : step (s.setStage st) st with
    | done t w =>
      rw [hstep] at h
      cases h
      rfl
    | go t st' =>
      rw [hstep] at h
      dsimp only at h ⊢
      split at h
      · rw [if_pos ‹_›]
        exact ih h
      · cases h
    | trap t c w => rw [hstep] at h; cases h
    | wait t p => rw [hstep] at h; cases h

theorem State.startTree_of_treeDone (hwhole : s.whole = true) (h : State.treeDone step treeFuel s st = some (u, v)) :
    s.startTree d step st = .done (u.landed.putS 0 d v) := by
  rw [State.startTree, if_pos hwhole, State.runTree_of_treeDone h]

end

/-- An access of the tree engine that ends at once: its value, and the state after it. -/
def State.Answers (s : State) (va : Nat) (op : MemOp) (v : Nat) (t : State) : Prop :=
  s.access s.treeActor none va op = (.ok v, t)

theorem State.Answers.eq {s t : State} {va : Nat} {op : MemOp} {v : Nat} (h : s.Answers va op v t) :
    s.access s.treeActor none va op = (.ok v, t) := h

/-! ### The trees and slots that handles name (R308, R311) -/

section
variable {s : State} {h : Word64} {i k : Nat}

theorem State.treeOf_ok (hat : s.TreeAt h i) : s.treeOf h = .ok i := by
  obtain ⟨rfl, hbits, hbound, hgen⟩ := hat
  unfold State.treeOf
  simp only [hbits, hbound, hgen, bne_self_eq_false, Bool.not_true, Bool.or_self, Bool.false_eq_true, if_false]

theorem State.slotRef_ok (hat : s.SlotAt h k) : s.slotRef h = .ok k := by
  obtain ⟨rfl, hheld, hgen⟩ := hat
  unfold State.slotRef
  simp [hheld, hgen]

theorem State.stage_commit (hflight : s.f.flight = none) : s.commit.stage = none := by
  rw [State.stage, State.flight_commit, hflight]
  rfl

end

/-! ### TSLEAF (R304, R314) -/

section
variable {s t u : State} {o : OpR} {i v w e : Nat} {r : Word64} (hflight : s.f.flight = none) (hat : s.TreeAt (s.S o.a) i)

include hflight hat in
theorem exec_tsleaf_runs (hfree : s.commit.ctxTaken i = false) (hwhole : s.commit.whole = true)
    (hdone : State.treeDone (fun s st => s.leafStep i st) treeFuel s.commit .leafRing = some (u, r)) :
    exec (.tsleaf o) s = .next (u.landed.writesS 0 o.d r) := by
  change execTsleaf o s = _
  unfold execTsleaf
  rw [Chk.run_ok (State.treeOf_ok hat)]
  simp only [State.stage_commit hflight, hfree, Bool.false_eq_true, if_false]
  rw [State.startTree_of_treeDone hwhole hdone]
  rfl

theorem State.leafStep_ring (hheld : s.treeHeld (s.ctx i) s.me = false)
    (haccess : (s.lockTree i).Answers (s.ctx i).addr (.read 128) v t) :
    s.leafStep i .leafRing = if descWord v 48 = descWord v 52 then .done (t.unlockTree i) (BitVec.allOnes 64)
      else .go t (.leafEntry (descWord v 48)) := by
  unfold State.leafStep
  simp only [hheld, Bool.false_eq_true, if_false, haccess.eq]
  rfl

theorem State.leafStep_entry
    (haccess : s.Answers ((s.ctx i).rbase + 16 * (w % 2 ^ (s.ctx i).rlog)) (.read 16) e t) :
    s.leafStep i (.leafEntry w) = .go t (.leafHead w e) := by
  unfold State.leafStep
  simp only [haccess.eq]
  rfl

theorem State.leafStep_head (haccess : s.Answers ((s.ctx i).addr + 48) (.write 4 (w + 1)) v t) :
    s.leafStep i (.leafHead w e) = .done (t.unlockTree i) (BitVec.ofNat 64 e) := by
  unfold State.leafStep
  simp only [haccess.eq]
  rfl

end

/-! ### TSSTAT (R318) -/

section
variable {s t : State} {o : OpR} {i v : Nat}

theorem freeListMask (v : Nat) :
    ((List.range 8).map (fun j => if descWord v (64 + 4 * j) != noNode then 2 ^ j else 0)).foldl (· + ·) 0 =
      ((List.range 8).map (fun j => if descWord v (64 + 4 * j) ≠ 2 ^ 32 - 1 then 2 ^ j else 0)).sum := by
  rw [← List.sum_eq_foldl]
  simp only [noNode, bne_iff_ne, ne_eq]

theorem exec_tsstat (hat : s.TreeAt (s.S o.a) i) (haccess : s.Answers (s.ctx i).addr (.read 128) v t) :
    exec (.tsstat o) s = .next (t.writesS 0 o.d (BitVec.ofNat 64
      (if o.b = 0 then descWord v 12 + v / 2 ^ 224 % 16 * 2 ^ 32 + (if (s.ctx i).walk.isSome then 2 ^ 36 else 0)
       else if o.b = 1 then descWord v 56 + t.slotsOf i * 2 ^ 32
       else if o.b = 2 then (descWord v 52 + 2 ^ 32 - descWord v 48) % 2 ^ 32 + descWord v 52 * 2 ^ 32
       else ((List.range 8).map (fun j => if descWord v (64 + 4 * j) ≠ 2 ^ 32 - 1 then 2 ^ j else 0)).sum))) := by
  change execTsstat o s = _
  unfold execTsstat
  rw [Chk.run_ok (State.treeOf_ok hat)]
  simp only [haccess.eq, freeListMask]
  have hwalk : bit (s.ctx i).walk.isSome * 2 ^ 36 = if (s.ctx i).walk.isSome then 2 ^ 36 else 0 := by
    cases (s.ctx i).walk <;> simp [bit]
  rw [hwalk]
  by_cases h0 : o.b = 0
  · rw [h0]; rfl
  by_cases h1 : o.b = 1
  · rw [h1]; rfl
  by_cases h2 : o.b = 2
  · rw [h2]; rfl
  have hrest : o.b.toNat ≠ 0 ∧ o.b.toNat ≠ 1 ∧ o.b.toNat ≠ 2 := by
    refine ⟨?_, ?_, ?_⟩ <;> bv_omega
  rw [if_neg h0, if_neg h1, if_neg h2]
  split
  · exact absurd ‹_› hrest.1
  · exact absurd ‹_› hrest.2.1
  · exact absurd ‹_› hrest.2.2
  · rfl

end

/-! ### TSBIND (R309) -/

section
variable {s t t2 u : State} {o : OpR} {i k v : Nat} {r : Word64} (hflight : s.f.flight = none)

section
variable (hat : s.TreeAt (s.S o.a) i) (hm : o.m = true)
include hflight hat hm

theorem exec_tsbind_used (hused : 0 < s.commit.slotsOf i ∨ (s.commit.ctx i).walk.isSome = true) :
    exec (.tsbind o) s = .next (s.commit.writesS 0 o.d (BitVec.ofInt 64 (-3))) := by
  have hcond : (decide (0 < s.commit.slotsOf i) || (s.commit.ctx i).walk.isSome) = true := by simpa using hused
  change execTsbind o s = _
  unfold execTsbind State.unbind
  simp only [hm, if_true, State.stage, hflight, Option.bind_none]
  rw [Chk.run_ok (State.treeOf_ok hat), if_pos hcond]
  rfl

theorem exec_tsbind_unbinds (hslots : s.commit.slotsOf i = 0) (hwalk : (s.commit.ctx i).walk = none)
    (hfree : s.commit.ctxTaken i = false) (hheld : s.commit.treeHeld (s.commit.ctx i) s.commit.me = false)
    (hwhole : s.commit.whole = true)
    (hdone : State.treeDone (fun s st => s.unbindStep st) treeFuel s.commit (.unbindOwn i) = some (u, r)) :
    exec (.tsbind o) s = .next (u.landed.writesS 0 o.d r) := by
  change execTsbind o s = _
  unfold execTsbind State.unbind
  simp only [hm, if_true, State.stage, hflight, Option.bind_none]
  rw [Chk.run_ok (State.treeOf_ok hat), if_neg (by simp [hslots, hwalk]), if_neg (by simp [hfree, hheld]),
    State.startTree_of_treeDone hwhole hdone]
  rfl

end

/-- A descriptor that has passed its checks takes a free context (R309). -/
def State.bindFree (s : State) (d : BitVec 6) (va v : Nat) : Res :=
  match s.freeCtx with
  | none => .done (s.putS 0 d (w64 (-1)))
  | some i => (s.lockTree i).startTree d (fun u st => u.bindStep va st) (.bindOwn v i)

theorem State.bindFree_none {d : BitVec 6} {va : Nat} (h : s.freeCtx = none) : s.bindFree d va v = .done (s.putS 0 d (w64 (-1))) := by
  rw [State.bindFree, h]

theorem State.bindFree_some {d : BitVec 6} {va : Nat} (h : s.freeCtx = some k) :
    s.bindFree d va v = (s.lockTree k).startTree d (fun u st => u.bindStep va st) (.bindOwn v k) := by
  rw [State.bindFree, h]

theorem State.unbindStep_own (haccess : s.Answers ((s.ctx i).addr + 96) (.node .free) v t) :
    s.unbindStep (.unbindOwn i) = .done (t.setCtx i { gen := (s.ctx i).gen }) 0 := by
  have hread : s.access s.treeActor none ((s.ctx i).addr + 96) (.node .free) = (.ok v, t) := haccess
  unfold State.unbindStep
  simp only [hread]
  rfl

section
variable (hm : o.m = false) (halign : (s.S o.a).toNat % 128 = 0)
  (haccess : s.commit.Answers (s.S o.a).toNat (.read 128) v t)
include hflight hm halign haccess

theorem exec_tsbind_bad {off : Nat} (hbad : descFault v = some off) :
    Traps (exec (.tsbind o) s) t 0x202 (BitVec.ofNat 64 (off % 2 ^ 32)) := by
  change Traps (execTsbind o s) _ _ _
  unfold execTsbind State.bind
  simp only [hm, Bool.false_eq_true, if_false, State.stage, hflight, Option.bind_none, halign, bne_self_eq_false, haccess.eq, hbad,
    treeData]
  rfl

theorem exec_tsbind_binds (hgood : descFault v = none)
    (hcount : ∀ next, t.namedCount t.treeActor (BitVec.ofNat 64 (v / 2 ^ 320)) next = next t2) :
    exec (.tsbind o) s = (t2.bindFree o.d (s.S o.a).toNat v).out := by
  change execTsbind o s = _
  unfold execTsbind State.bind
  simp only [hm, Bool.false_eq_true, if_false, State.stage, hflight, Option.bind_none, halign, bne_self_eq_false, haccess.eq, hgood]
  rw [hcount]
  rfl

end
end

/-! ### TSDESC (R312) -/

section
variable {s t u : State} {o : OpR} {i k v : Nat} {r : Word64}

/-- The lowest path slot that no descent holds. -/
def State.freePathSlot (s : State) : Option Nat := firstFree ((s.spinel.slots.filter (fun e => e.2.held)).map (fun e => e.1)) 0 64

/-- A descent takes a free slot (R312). -/
def State.descendFree (s : State) (d : BitVec 6) (i : Nat) : Res :=
  match s.freePathSlot with
  | none => .done (s.putS 0 d (BitVec.ofNat 64 (5 * 2 ^ 56)))
  | some k => (s.setSlot k { gen := ((s.slot k).gen + 1) % 1024, held := true, ctx := i }).startTree d (fun s st => s.descStep st)
      (.descRoot k)

theorem State.descendFree_none {d : BitVec 6} (h : s.freePathSlot = none) :
    s.descendFree d i = .done (s.putS 0 d (BitVec.ofNat 64 (5 * 2 ^ 56))) := by
  rw [State.descendFree, h]

theorem State.descendFree_some {d : BitVec 6} (h : s.freePathSlot = some k) : s.descendFree d i =
    (s.setSlot k { gen := ((s.slot k).gen + 1) % 1024, held := true, ctx := i }).startTree d (fun s st => s.descStep st)
      (.descRoot k) := by
  rw [State.descendFree, h]

theorem exec_tsdesc (hflight : s.f.flight = none) (hat : s.TreeAt (s.S o.a) i) (hfree : s.commit.ctxTaken i = false) :
    exec (.tsdesc o) s = (s.commit.descendFree o.d i).out := by
  change execTsdesc o s = _
  unfold execTsdesc State.descend
  simp only [State.stage, hflight, Option.bind_none]
  rw [Chk.run_ok (State.treeOf_ok hat), if_neg (by simp [hfree])]
  rfl

theorem State.descStep_root
    (haccess : s.Answers (s.ctx (s.slot k).ctx).addr (.read 128) v t) :
    s.descStep (.descRoot k) = .go t (.descNode k (descWord v 12)) := by
  change s.rootOf k = _
  unfold State.rootOf
  simp only [haccess.eq]
  rfl

end

/-! ### TSEXP and TSBACK on the slot that a reference names (R315, R316) -/

section
variable {s t u : State} {o : OpR} {k v : Nat} {r b : Word64} {got : Tab Nat}

theorem State.termStep_ok (haccess :
    s.Answers ((s.ctx (s.slot k).ctx).node (s.slot k).leaf) (.node .term) v t) :
    s.termStep k = .done t (if nodeExp v then 1 else 0) := by
  unfold State.termStep
  simp only [haccess.eq]
  rfl

variable (hflight : s.f.flight = none) (hat : s.SlotAt (s.S o.a) k) (hfree : s.commit.slotTaken k = false)
include hflight hat hfree

theorem exec_tsexp_term (hm : o.m = true) (hwhole : s.commit.whole = true)
    (hdone : State.treeDone (fun s _ => s.termStep k) treeFuel s.commit .expTerm = some (u, r)) :
    exec (.tsexp o) s = .next (u.landed.writesS 0 o.d r) := by
  change execTsexp o s = _
  unfold execTsexp
  simp only [State.slotRef_ok hat, State.stage_commit hflight, hfree, hm, Bool.and_false, Bool.false_eq_true, if_false, if_true]
  rw [State.startTree_of_treeDone hwhole hdone]
  rfl

theorem exec_tsexp_unaligned (hm : o.m = false) (halign : (s.S o.b).toNat % 8 ≠ 0) :
    Traps (exec (.tsexp o) s) s.commit 0x0A0 (BitVec.ofNat 64 (o.b.toNat + (s.S o.b).toNat % 2 ^ 32 * 2 ^ 32)) := by
  rw [← alignData_eq]
  change Traps (execTsexp o s) _ _ _
  unfold execTsexp
  simp only [State.slotRef_ok hat, State.stage_commit hflight, hfree, hm, Bool.and_false, Bool.false_eq_true, if_false,
    State.S_commit]
  rw [if_pos (by simpa using halign)]
  rfl

theorem exec_tsexp_expands (hm : o.m = false) (halign : (s.S o.b).toNat % 8 = 0)
    (hreads : s.commit.priorReads (s.S o.b).toNat (o.xm.toNat % 64 + 1) [] = (t, got, none)) (hwhole : t.whole = true)
    (hdone : State.treeDone (fun s st => s.expStep k (o.xm.toNat % 64 + 1) st) treeFuel
      (t.setF { t.f with flight := some { got := joinPieces (s.S o.b).toNat (o.xm.toNat % 64 + 1) got } }) .expAlloc = some (u, r)) :
    exec (.tsexp o) s = .next (u.landed.writesS 0 o.d r) := by
  have hgot : (s.commit.f.flight.getD {}).got = [] := by rw [State.flight_commit, hflight]; rfl
  change execTsexp o s = _
  unfold execTsexp
  simp only [State.slotRef_ok hat, State.stage_commit hflight, hfree, hm, Bool.and_false, Bool.false_eq_true, if_false,
    State.S_commit, hgot, hreads, hwhole, Bool.true_or, if_true]
  rw [if_neg (by simp [halign]), State.startTree_of_treeDone (s := t.setF _) hwhole hdone]
  rfl

omit hflight in
theorem exec_tsback_runs (hvalue : backValue o.m (o.xm.getLsbD 0) (s.S o.b) = .ok b)
    (hdone : State.treeDone (fun s _ => s.backStep k b (o.xm.getLsbD 0)) treeFuel s.commit .back = some (u, r)) :
    exec (.tsback o) s = .next (u.landed.writesS 0 o.d r) := by
  change execTsback o s = _
  unfold execTsback
  dsimp only
  rw [Chk.bind_ok (State.slotRef_ok hat), Chk.bind_ok hvalue]
  change (if _ then _ else _ : Res).out = _
  rw [if_neg (by simp [hfree]), State.runTree_of_treeDone hdone]
  rfl

end

/-! ### TSROOT (R317) -/

section
variable {s t u : State} {o : OpR} {i v : Nat} {r : Word64} (hflight : s.f.flight = none) (hat : s.TreeAt (s.S o.a) i)
include hflight hat

theorem exec_tsroot_used (hused : 0 < s.commit.slotsOf i ∨ (s.commit.ctx i).walk.isSome = true) :
    exec (.tsroot o) s = .next (s.commit.writesS 0 o.d 1) := by
  have hcond : (decide (0 < s.commit.slotsOf i) || (s.commit.ctx i).walk.isSome) = true := by simpa using hused
  change execTsroot o s = _
  unfold execTsroot
  dsimp only
  rw [Chk.run_ok (State.treeOf_ok hat)]
  simp only [State.stage_commit hflight, hcond, if_true]
  rfl

theorem exec_tsroot_runs (hslots : s.commit.slotsOf i = 0) (hwalk : (s.commit.ctx i).walk = none)
    (hfree : s.commit.ctxTaken i = false)
    (haccess : s.commit.Answers (s.commit.ctx i).addr (.read 128) v t) (hwhole : t.whole = true)
    (hdone : State.treeDone (fun u st => u.rootStep i (s.S o.b).toNat o.m st) treeFuel t (.rootNode (descWord v 12)) = some (u, r)) :
    exec (.tsroot o) s = .next (u.landed.writesS 0 o.d r) := by
  change execTsroot o s = _
  unfold execTsroot
  dsimp only
  rw [Chk.run_ok (State.treeOf_ok hat)]
  simp only [State.stage_commit hflight, hslots, hwalk, hfree, haccess.eq]
  rw [State.startTree_of_treeDone hwhole hdone]
  rfl

end

/-- Settles O41: the words that run through stages end by `State.startTree_of_treeDone`. -/
theorem treeWordResults : Obligations.TreeWordResults := by
  unfold Obligations.TreeWordResults
  intro s t1 t2 t3 u o i k v e w r b got s0 c x gives ok runs hflight
  refine ⟨fun hat hfree => exec_tsleaf_runs hflight hat hfree, ?leaf, exec_tsstat, ?unbinds, State.unbindStep_own, ?binds, ?descends,
    State.descStep_root, State.termStep_ok, ?slots, ?roots⟩
  case leaf => exact ⟨State.leafStep_ring, State.leafStep_entry, State.leafStep_head⟩
  case unbinds =>
    intro hm hat
    exact ⟨exec_tsbind_used hflight hat hm, fun hslots hwalk hfree hheld => exec_tsbind_unbinds hflight hat hm hslots hwalk hfree hheld⟩
  case binds =>
    intro hm halign haccess
    refine ⟨fun off hbad => exec_tsbind_bad hflight hm halign haccess hbad, ?_⟩
    intro hgood hcount taken free
    have hbinds := exec_tsbind_binds hflight hm halign haccess hgood hcount
    refine ⟨fun hnone => ?_, fun hsome hwhole hdone => ?_⟩
    · exact hbinds.trans (congrArg Res.out (State.bindFree_none hnone))
    · exact hbinds.trans (congrArg Res.out ((State.bindFree_some hsome).trans (State.startTree_of_treeDone hwhole hdone)))
  case descends =>
    intro hat hfree free
    have hdescends := exec_tsdesc hflight hat hfree
    refine ⟨fun hnone => ?_, fun hsome hwhole hdone => ?_⟩
    · exact hdescends.trans (congrArg Res.out (State.descendFree_none hnone))
    · exact hdescends.trans (congrArg Res.out ((State.descendFree_some hsome).trans (State.startTree_of_treeDone hwhole hdone)))
  case slots =>
    intro hat hfree n sb
    exact ⟨exec_tsexp_term hflight hat hfree, exec_tsexp_unaligned hflight hat hfree,
      fun hm halign hreads hwhole => exec_tsexp_expands hflight hat hfree hm halign hreads hwhole,
      fun hvalue _ => exec_tsback_runs hat hfree hvalue⟩
  case roots =>
    intro hat
    exact ⟨exec_tsroot_used hflight hat, fun hslots hwalk hfree haccess => exec_tsroot_runs hflight hat hslots hwalk hfree haccess⟩

end Sys2Proof.Machine

namespace Sys2Proof.Machine

/-! ## Tree nodes and the stages of the tree words (O42; R305, R306, R310, R312, R315 to R317) -/

/-! ### Fields of a number -/

/-- A number whose field is replaced: what is below it, the new field, what is above it. -/
theorem setBits_eq (v lo w x : Nat) :
    setBits v lo w x = 2 ^ lo * (2 ^ w * (v / 2 ^ (lo + w)) + x % 2 ^ w) + v % 2 ^ lo := by
  have hlow := Nat.div_add_mod v (2 ^ lo)
  have hmid := Nat.div_add_mod (v / 2 ^ lo) (2 ^ w)
  rw [Nat.div_div_eq_div_mul, ← Nat.pow_add] at hmid
  rw [setBits]
  generalize v % 2 ^ lo = low at *
  generalize v / 2 ^ lo % 2 ^ w = old at *
  generalize v / 2 ^ (lo + w) = high at *
  rw [← hlow, ← hmid, Nat.mul_add, Nat.mul_add, Nat.mul_comm old, Nat.mul_comm (x % 2 ^ w)]
  omega

theorem testBit_setBits (v lo w x i : Nat) :
    (setBits v lo w x).testBit i = if lo ≤ i ∧ i < lo + w then x.testBit (i - lo) else v.testBit i := by
  have hlow : v % 2 ^ lo < 2 ^ lo := Nat.mod_lt _ (Nat.two_pow_pos lo)
  have hfield : x % 2 ^ w < 2 ^ w := Nat.mod_lt _ (Nat.two_pow_pos w)
  rw [setBits_eq, Nat.testBit_two_pow_mul_add _ hlow]
  by_cases hbelow : i < lo
  · rw [if_pos hbelow, if_neg (by omega), Nat.testBit_mod_two_pow]
    simp [hbelow]
  · rw [if_neg hbelow, Nat.testBit_two_pow_mul_add _ hfield]
    by_cases hin : i - lo < w
    · rw [if_pos hin, if_pos (by omega), Nat.testBit_mod_two_pow]
      simp [hin]
    · rw [if_neg hin, if_neg (by omega), Nat.testBit_div_two_pow]
      congr 1
      omega

theorem testBit_bitsOf (n hi lo i : Nat) : (bitsOf n hi lo).testBit i = (decide (i < hi + 1 - lo) && n.testBit (i + lo)) := by
  rw [bitsOf, Nat.testBit_mod_two_pow, Nat.testBit_div_two_pow]

section
variable {v hi lo lo' w x i : Nat}

/-- The field itself. -/
theorem bitsOf_setBits_same (h : hi + 1 = lo + w) : bitsOf (setBits v lo w x) hi lo = x % 2 ^ w := by
  refine Nat.eq_of_testBit_eq fun i => ?_
  rw [testBit_bitsOf, testBit_setBits, Nat.testBit_mod_two_pow, show hi + 1 - lo = w by omega]
  by_cases hi' : i < w
  · rw [if_pos (by omega), Nat.add_sub_cancel]
  · simp [hi']

/-- A field that does not meet it. -/
theorem bitsOf_setBits_apart (h : hi < lo' ∨ lo' + w ≤ lo) : bitsOf (setBits v lo' w x) hi lo = bitsOf v hi lo := by
  refine Nat.eq_of_testBit_eq fun i => ?_
  rw [testBit_bitsOf, testBit_bitsOf, testBit_setBits]
  by_cases hi' : i < hi + 1 - lo
  · rw [if_neg (by omega)]
  · simp [hi']

theorem bitOf_setBits_same : bitOf (setBits v i 1 x) i = decide (x % 2 = 1) := by
  rw [bitOf_eq_testBit, testBit_setBits, if_pos ⟨Nat.le_refl i, Nat.lt_succ_self i⟩, Nat.sub_self, Nat.testBit_zero]

theorem bitOf_setBits_apart (h : i < lo ∨ lo + w ≤ i) : bitOf (setBits v lo w x) i = bitOf v i := by
  rw [bitOf_eq_testBit, bitOf_eq_testBit, testBit_setBits, if_neg (by omega)]

theorem setBits_mod : setBits v lo w x % 2 ^ lo = v % 2 ^ lo := by
  rw [setBits_eq, Nat.mul_add_mod, Nat.mod_mod]

end

/-! ### What the operations of the engine do to a node (R305, R312, R315, R316) -/

/-- The total W of a node, as bits. -/
def nodeTotal (v : Nat) : Nat := bitsOf v 127 64

/-- What a node says of its children: EXP, CHILD and NCH. -/
def nodeKids (v : Nat) : Bool × Nat × Nat := (nodeExp v, nodeChild v, nodeNch v)

section
variable {v x w : Nat}

theorem nodeVl_eq : bitsOf v 47 32 = nodeVl v := rfl

/-! The fields of a node with its virtual losses replaced. -/

theorem nodeVl_setVl : nodeVl (setBits v 32 16 x) = x % 2 ^ 16 := bitsOf_setBits_same (by decide)
theorem nodeN_setVl : nodeN (setBits v 32 16 x) = nodeN v := bitsOf_setBits_apart (by decide)
theorem nodeTotal_setVl : nodeTotal (setBits v 32 16 x) = nodeTotal v := bitsOf_setBits_apart (by decide)
theorem nodeTerm_setVl : nodeTerm (setBits v 32 16 x) = nodeTerm v := bitOf_setBits_apart (by decide)
theorem nodePend_setVl : nodePend (setBits v 32 16 x) = nodePend v := bitOf_setBits_apart (by decide)
theorem nodeExp_setVl : nodeExp (setBits v 32 16 x) = nodeExp v := bitOf_setBits_apart (by decide)

theorem nodeKids_setVl : nodeKids (setBits v 32 16 x) = nodeKids v := by
  rw [nodeKids, nodeExp_setVl]
  exact congrArg₂ (fun c n => (nodeExp v, c, n)) (bitsOf_setBits_apart (by decide)) (bitsOf_setBits_apart (by decide))

/-! The fields of a node with its flag PEND replaced. -/

theorem nodePend_setPend : nodePend (setBits v 58 1 x) = decide (x % 2 = 1) := bitOf_setBits_same
theorem nodeVl_setPend : nodeVl (setBits v 58 1 x) = nodeVl v := bitsOf_setBits_apart (by decide)
theorem nodeN_setPend : nodeN (setBits v 58 1 x) = nodeN v := bitsOf_setBits_apart (by decide)
theorem nodeTotal_setPend : nodeTotal (setBits v 58 1 x) = nodeTotal v := bitsOf_setBits_apart (by decide)
theorem nodeTerm_setPend : nodeTerm (setBits v 58 1 x) = nodeTerm v := bitOf_setBits_apart (by decide)

theorem nodeKids_setPend : nodeKids (setBits v 58 1 x) = nodeKids v := by
  rw [nodeKids, nodeExp, nodeChild, nodeNch, bitOf_setBits_apart (by decide), bitsOf_setBits_apart (by decide),
    bitsOf_setBits_apart (by decide)]
  rfl

end

/-- A visit adds a virtual loss, and marks a leaf that is neither expanded nor terminal as pending (R312). -/
theorem nodeNew_visit (v : Nat) (mark : Bool) :
    nodeVl (nodeNew (.visit mark) v) = (nodeVl v + 1) % 2 ^ 16 ∧ nodeN (nodeNew (.visit mark) v) = nodeN v ∧
    nodeTotal (nodeNew (.visit mark) v) = nodeTotal v ∧ nodeKids (nodeNew (.visit mark) v) = nodeKids v ∧
    nodeTerm (nodeNew (.visit mark) v) = nodeTerm v ∧
    nodePend (nodeNew (.visit mark) v) = (nodePend v || (mark && !nodeExp v && !nodeTerm v)) := by
  have hnew : nodeNew (.visit mark) v = if mark && (!nodeExp v && !nodeTerm v && !nodePend v) then
      setBits (setBits v 32 16 (nodeVl v + 1)) 58 1 1 else setBits v 32 16 (nodeVl v + 1) := rfl
  rw [hnew]
  split
  · rename_i hmark
    simp only [Bool.and_eq_true] at hmark
    obtain ⟨hmark, ⟨hexp, hterm⟩, -⟩ := hmark
    simp only [nodeVl_setPend, nodeN_setPend, nodeTotal_setPend, nodeKids_setPend, nodeTerm_setPend, nodePend_setPend, nodeVl_setVl,
      nodeN_setVl, nodeTotal_setVl, nodeKids_setVl, nodeTerm_setVl, hmark, hexp, hterm]
    simp
  · rename_i hmark
    simp only [nodeVl_setVl, nodeN_setVl, nodeTotal_setVl, nodeKids_setVl, nodeTerm_setVl, nodePend_setVl, true_and]
    cases hpend : nodePend v
    · simp only [hpend, Bool.not_false, Bool.and_true] at hmark
      rw [Bool.and_assoc]
      simpa using hmark
    · rfl

/-- A walk back takes a virtual loss away. -/
theorem nodeNew_leave (v : Nat) (clear : Bool) :
    nodeVl (nodeNew (.leave clear) v) = (nodeVl v + 2 ^ 16 - 1) % 2 ^ 16 ∧ nodeN (nodeNew (.leave clear) v) = nodeN v ∧
    nodeTotal (nodeNew (.leave clear) v) = nodeTotal v ∧ nodeKids (nodeNew (.leave clear) v) = nodeKids v ∧
    nodePend (nodeNew (.leave clear) v) = (nodePend v && !clear) := by
  have hnew : nodeNew (.leave clear) v = if clear then setBits (setBits v 32 16 (bitsOf v 47 32 + 2 ^ 16 - 1)) 58 1 0
      else setBits v 32 16 (bitsOf v 47 32 + 2 ^ 16 - 1) := rfl
  rw [hnew, nodeVl_eq]
  cases clear
  · simp only [Bool.false_eq_true, if_false, nodeVl_setVl, nodeN_setVl, nodeTotal_setVl, nodeKids_setVl, nodePend_setVl,
      Bool.not_false, Bool.and_true, and_self]
  · simp only [if_true, nodeVl_setPend, nodeN_setPend, nodeTotal_setPend, nodeKids_setPend, nodePend_setPend, nodeVl_setVl,
      nodeN_setVl, nodeTotal_setVl, nodeKids_setVl, Bool.not_true, Bool.and_false, Nat.zero_mod, Nat.zero_ne_one, decide_false,
      and_self]

/-- A node whose visits and total are replaced. -/
def nodeCounted (v visits total : Nat) : Nat := setBits (setBits v 0 32 visits) 64 64 total

section
variable (v visits total : Nat)

theorem nodeN_counted : nodeN (nodeCounted v visits total) = visits % 2 ^ 32 := by
  rw [nodeN, nodeCounted, bitsOf_setBits_apart (by decide), bitsOf_setBits_same (by decide)]

theorem nodeTotal_counted : nodeTotal (nodeCounted v visits total) = total % 2 ^ 64 := bitsOf_setBits_same (by decide)

theorem nodeVl_counted : nodeVl (nodeCounted v visits total) = nodeVl v := by
  rw [nodeVl, nodeCounted, bitsOf_setBits_apart (by decide), bitsOf_setBits_apart (by decide), nodeVl]

theorem nodePend_counted : nodePend (nodeCounted v visits total) = nodePend v := by
  rw [nodePend, nodeCounted, bitOf_setBits_apart (by decide), bitOf_setBits_apart (by decide), nodePend]

theorem nodeKids_counted : nodeKids (nodeCounted v visits total) = nodeKids v := by
  simp (disch := decide) only [nodeKids, nodeExp, nodeChild, nodeNch, nodeCounted, bitOf_setBits_apart, bitsOf_setBits_apart]

end

/-- A backup takes a virtual loss away, and counts a visit of the value `x` (R316). -/
theorem nodeNew_backup (v : Nat) (x : Word64) (count clear : Bool) :
    nodeVl (nodeNew (.backup x count clear) v) = (nodeVl v + 2 ^ 16 - 1) % 2 ^ 16 ∧
    nodeKids (nodeNew (.backup x count clear) v) = nodeKids v ∧
    nodeN (nodeNew (.backup x count clear) v) = (if count then (nodeN v + 1) % 2 ^ 32 else nodeN v) ∧
    nodeTotal (nodeNew (.backup x count clear) v) = (if count then (nodeTotal v + x.toNat) % 2 ^ 64 else nodeTotal v) ∧
    nodePend (nodeNew (.backup x count clear) v) = (nodePend v && !(clear && !nodeExp v)) := by
  have hvisits : v % 2 ^ 32 = nodeN v := by rw [nodeN, bitsOf, Nat.pow_zero, Nat.div_one]
  have hnew : nodeNew (.backup x count clear) v =
      (let u := setBits v 32 16 (bitsOf v 47 32 + 2 ^ 16 - 1)
       let c := if count then nodeCounted u (v % 2 ^ 32 + 1) (nodeTotal v + x.toNat) else u
       if clear && !nodeExp v then setBits c 58 1 0 else c) := rfl
  rw [hnew, hvisits, nodeVl_eq]
  cases count <;> cases clear && !nodeExp v <;> simp only [Bool.false_eq_true, if_false, if_true, nodeVl_setPend, nodeN_setPend,
    nodeTotal_setPend, nodeKids_setPend, nodePend_setPend, nodeVl_counted, nodeN_counted, nodeTotal_counted, nodeKids_counted,
    nodePend_counted, nodeVl_setVl, nodeN_setVl, nodeTotal_setVl, nodeKids_setVl, nodePend_setVl, Bool.not_false, Bool.not_true,
    Bool.and_true, Bool.and_false, Nat.zero_mod, Nat.zero_ne_one, decide_false, and_self]

/-- A node with its children linked. -/
def nodeLinked (v blk n : Nat) : Nat := setBits (setBits (setBits v 192 32 blk) 48 8 n) 56 1 1

/-- The children of a new block are linked to a leaf that is neither expanded nor terminal (R315). -/
theorem nodeNew_link {v blk n : Nat} (hblk : blk < 2 ^ 32) (hn : n < 2 ^ 8) :
    if nodeExp v = true ∨ nodeTerm v = true then nodeNew (.link blk n) v = v
    else nodeKids (nodeNew (.link blk n) v) = (true, blk, n) ∧ nodePend (nodeNew (.link blk n) v) = false ∧
      nodeVl (nodeNew (.link blk n) v) = nodeVl v ∧ nodeN (nodeNew (.link blk n) v) = nodeN v ∧
      nodeTotal (nodeNew (.link blk n) v) = nodeTotal v := by
  have hnew : nodeNew (.link blk n) v = if nodeExp v || nodeTerm v then v else setBits (nodeLinked v blk n) 58 1 0 := rfl
  rw [hnew]
  simp only [Bool.or_eq_true]
  split
  · rfl
  · rw [nodeKids_setPend, nodePend_setPend, nodeVl_setPend, nodeN_setPend, nodeTotal_setPend]
    have hexp : nodeExp (nodeLinked v blk n) = true := bitOf_setBits_same
    have hchild : nodeChild (nodeLinked v blk n) = blk := by
      rw [nodeChild, nodeLinked, bitsOf_setBits_apart (by decide), bitsOf_setBits_apart (by decide), bitsOf_setBits_same (by decide),
        Nat.mod_eq_of_lt hblk]
    have hnch : nodeNch (nodeLinked v blk n) = n := by
      rw [nodeNch, nodeLinked, bitsOf_setBits_apart (by decide), bitsOf_setBits_same (by decide), Nat.mod_eq_of_lt hn]
    rw [nodeKids, hexp, hchild, hnch]
    simp (disch := decide) [nodeVl, nodeN, nodeTotal, nodeLinked, bitsOf_setBits_apart]

theorem nodeNew_term (v : Nat) : nodeNew .term v = if nodeExp v then v else setBits (setBits v 57 1 1) 58 1 0 := rfl

theorem nodeTerm_term (v : Nat) : nodeTerm (nodeNew .term v) = (nodeTerm v || !nodeExp v) := by
  rw [nodeNew_term]
  cases nodeExp v
  · rw [if_neg Bool.false_ne_true, nodeTerm_setPend, nodeTerm, bitOf_setBits_same]
    simp
  · simp

theorem nodeNew_orphan (v : Nat) : nodeNew .orphan v % 2 ^ 224 = v % 2 ^ 224 ∧ bitsOf (nodeNew .orphan v) 255 224 = 2 ^ 32 - 1 :=
  ⟨setBits_mod, bitsOf_setBits_same (by decide)⟩

/-! ### A new child (R306, R315) -/

section
variable {a b k hi lo i : Nat} (ha : a < 2 ^ k)
include ha

/-- A field of the low part of a number that is put together at bit `k`. -/
theorem bitsOf_join_low (h : hi < k) : bitsOf (2 ^ k * b + a) hi lo = bitsOf a hi lo := by
  refine Nat.eq_of_testBit_eq fun i => ?_
  rw [testBit_bitsOf, testBit_bitsOf, Nat.testBit_two_pow_mul_add _ ha]
  by_cases hi' : i < hi + 1 - lo
  · rw [if_pos (by omega)]
  · simp [hi']

/-- A field of the high part. -/
theorem bitsOf_join_high (h : k ≤ lo) (hle : lo ≤ hi) : bitsOf (2 ^ k * b + a) hi lo = bitsOf b (hi - k) (lo - k) := by
  refine Nat.eq_of_testBit_eq fun i => ?_
  rw [testBit_bitsOf, testBit_bitsOf, Nat.testBit_two_pow_mul_add _ ha, if_neg (by omega)]
  by_cases hi' : i < hi + 1 - lo
  · rw [decide_eq_true hi', decide_eq_true (by omega), Nat.add_sub_assoc h i]
  · rw [decide_eq_false hi', decide_eq_false (by omega), Bool.false_and, Bool.false_and]

theorem bitOf_join_low (h : i < k) : bitOf (2 ^ k * b + a) i = bitOf a i := by
  rw [bitOf_eq_testBit, bitOf_eq_testBit, Nat.testBit_two_pow_mul_add _ ha, if_pos h]

end

theorem bitsOf_whole {n hi : Nat} (h : n < 2 ^ (hi + 1)) : bitsOf n hi 0 = n := by
  rw [bitsOf, Nat.pow_zero, Nat.div_one, Nat.sub_zero, Nat.mod_eq_of_lt h]

theorem bitsOf_zero (hi lo : Nat) : bitsOf 0 hi lo = 0 := by rw [bitsOf, Nat.zero_div, Nat.zero_mod]

/-- The parent and the empty CHILD of a new child: its bits from 192 on. -/
def newChildLinks (leaf : Nat) : Nat := 2 ^ 32 * leaf + noNode

/-- The bits of a new child from 128 on. -/
def newChildUpper (leaf prior : Nat) : Nat := 2 ^ 64 * newChildLinks leaf + prior

/-- The bits of a new child from 60 on. -/
def newChildBody (gen leaf prior : Nat) : Nat := 2 ^ 68 * newChildUpper leaf prior + gen

theorem newNode_eq {gen leaf n arr i : Nat} (hi : i < n) :
    newNode gen leaf n arr i = 2 ^ 60 * newChildBody gen leaf (arr / 2 ^ (64 * i) % 2 ^ 64) + 0 := by
  rw [newNode, if_pos hi, newChildBody, newChildUpper, newChildLinks]
  ring

/-- A new child has no visits and no children, and holds its prior and its parent (R306, R315). -/
theorem newNode_fields {gen leaf n arr i : Nat} (hgen : gen < 16) (hleaf : leaf < 2 ^ 32) (hi : i < n) :
    let w := newNode gen leaf n arr i
    nodeN w = 0 ∧ nodeVl w = 0 ∧ nodeNch w = 0 ∧ nodeExp w = false ∧ nodeTerm w = false ∧ nodePend w = false ∧
    bitsOf w 63 60 = gen ∧ bitsOf w 127 64 = 0 ∧ bitsOf w 191 128 = arr / 2 ^ (64 * i) % 2 ^ 64 ∧ nodeChild w = 2 ^ 32 - 1 ∧
    bitsOf w 255 224 = leaf := by
  have hprior : arr / 2 ^ (64 * i) % 2 ^ 64 < 2 ^ 64 := Nat.mod_lt _ (Nat.two_pow_pos 64)
  have hnone : noNode < 2 ^ 32 := by decide
  have hgen' : gen < 2 ^ 68 := hgen.trans (by decide)
  intro w
  have hw : w = 2 ^ 60 * newChildBody gen leaf (arr / 2 ^ (64 * i) % 2 ^ 64) + 0 := newNode_eq hi
  clear_value w
  subst hw
  generalize arr / 2 ^ (64 * i) % 2 ^ 64 = prior at *
  have hbelow {hi lo : Nat} (h : hi < 60) : bitsOf (2 ^ 60 * newChildBody gen leaf prior + 0) hi lo = 0 := by
    rw [bitsOf_join_low (Nat.two_pow_pos 60) h, bitsOf_zero]
  have hflag {i : Nat} (h : i < 60) : bitOf (2 ^ 60 * newChildBody gen leaf prior + 0) i = false := by
    rw [bitOf_join_low (Nat.two_pow_pos 60) h, bitOf_eq_testBit, Nat.zero_testBit]
  have hbody {hi lo : Nat} (h : 60 ≤ lo) (hle : lo ≤ hi) :=
    bitsOf_join_high (b := newChildBody gen leaf prior) (Nat.two_pow_pos 60) h hle
  have hgenField {hi lo : Nat} (h : hi < 68) : bitsOf (newChildBody gen leaf prior) hi lo = bitsOf gen hi lo :=
    bitsOf_join_low hgen' h
  have hupper {hi lo : Nat} (h : 68 ≤ lo) (hle : lo ≤ hi) :
      bitsOf (newChildBody gen leaf prior) hi lo = bitsOf (newChildUpper leaf prior) (hi - 68) (lo - 68) :=
    bitsOf_join_high hgen' h hle
  have hlinks {hi lo : Nat} (h : 64 ≤ lo) (hle : lo ≤ hi) :
      bitsOf (newChildUpper leaf prior) hi lo = bitsOf (newChildLinks leaf) (hi - 64) (lo - 64) := bitsOf_join_high hprior h hle
  refine ⟨hbelow (by decide), hbelow (by decide), hbelow (by decide), hflag (by decide), hflag (by decide), hflag (by decide),
    ?_, ?_, ?_, ?_, ?_⟩
  · rw [hbody (by decide) (by decide), hgenField (by decide)]
    exact bitsOf_whole hgen
  · rw [hbody (by decide) (by decide), hgenField (by decide), bitsOf, Nat.div_eq_of_lt (show gen < 2 ^ (64 - 60) from hgen),
      Nat.zero_mod]
  · rw [hbody (by decide) (by decide), hupper (by decide) (by decide), newChildUpper, bitsOf_join_low hprior (by decide)]
    exact bitsOf_whole hprior
  · rw [nodeChild, hbody (by decide) (by decide), hupper (by decide) (by decide), hlinks (by decide) (by decide), newChildLinks,
      bitsOf_join_low hnone (by decide)]
    exact bitsOf_whole hnone
  · rw [hbody (by decide) (by decide), hupper (by decide) (by decide), hlinks (by decide) (by decide), newChildLinks,
      bitsOf_join_high hnone (by decide) (by decide)]
    exact bitsOf_whole hleaf

end Sys2Proof.Machine

namespace Sys2Proof.Machine

/-! ### The choice among the children (R310) -/

/-- The number that a finite value stands for. -/
def finRat (neg : Bool) (m : Nat) (e : Int) : ℚ := (if neg then -(m : ℚ) else m) * (2 : ℚ) ^ e

/-- Where a value stands among the others: a NaN below every other one, the infinities about the finite ones. -/
def placeOf : FVal → ℕ ×ₗ ℚ
  | .nan => toLex (0, 0)
  | .inf true => toLex (1, 0)
  | .fin neg m e => toLex (2, finRat neg m e)
  | .inf false => toLex (3, 0)

theorem scaled_fin {neg : Bool} {m : Nat} {e e0 : Int} (h : e0 ≤ e) :
    ((FVal.scaled e0 (.fin neg m e) : ℤ) : ℚ) = finRat neg m e * (2 : ℚ) ^ (-e0) := by
  have hpow : ((2 : ℚ) ^ (e - e0).toNat) = (2 : ℚ) ^ e * (2 : ℚ) ^ (-e0) := by
    rw [← zpow_add₀ (by norm_num), ← zpow_natCast, Int.toNat_of_nonneg (by omega), sub_eq_add_neg]
  unfold FVal.scaled finRat
  cases neg
  · simp only [Bool.false_eq_true, if_false]
    push_cast
    rw [hpow, mul_assoc]
  · simp only [if_true]
    push_cast
    rw [hpow]
    ring

theorem cmp_fin_pos {n n' : Bool} {m m' : Nat} {e e' : Int} :
    0 < FVal.cmp (.fin n m e) (.fin n' m' e') ↔ finRat n' m' e' < finRat n m e := by
  have hscale : (0 : ℚ) < 2 ^ (-min e e') := zpow_pos (by norm_num) _
  change 0 < FVal.scaled (min e e') (.fin n m e) - FVal.scaled (min e e') (.fin n' m' e') ↔ _
  rw [sub_pos, ← Int.cast_lt (R := ℚ), scaled_fin (min_le_left _ _), scaled_fin (min_le_right _ _),
    mul_lt_mul_iff_left₀ hscale]

/-- A score is better than another one if it stands above it. -/
theorem better_iff (a b : FVal) : better a b = true ↔ placeOf b < placeOf a := by
  match a, b with
  | .nan, .nan | .nan, .inf true | .nan, .inf false | .nan, .fin .. =>
    simp [better, FVal.isNan, placeOf, Prod.Lex.toLex_lt_toLex]
  | .inf true, .nan | .inf false, .nan | .fin .., .nan => simp [better, FVal.isNan, placeOf, Prod.Lex.toLex_lt_toLex]
  | .inf true, .inf true | .inf true, .inf false | .inf false, .inf true | .inf false, .inf false =>
    simp [better, FVal.isNan, FVal.cmp, placeOf, Prod.Lex.toLex_lt_toLex]
  | .inf true, .fin .. | .inf false, .fin .. | .fin .., .inf true | .fin .., .inf false =>
    simp [better, FVal.isNan, FVal.cmp, placeOf, Prod.Lex.toLex_lt_toLex]
  | .fin n m e, .fin n' m' e' =>
    simp only [better, FVal.isNan, placeOf, Bool.false_eq_true, if_false, Bool.false_or, decide_eq_true_eq, cmp_fin_pos,
      Prod.Lex.toLex_lt_toLex, lt_self_iff_false, false_or, true_and]

theorem better_false_iff (a b : FVal) : better a b = false ↔ placeOf a ≤ placeOf b := by
  rw [← not_lt, ← better_iff, Bool.not_eq_true]

/-- The choice among the scores up to the `i`-th: its index and its score; none is better, and none before it as good. -/
def ChosenUpTo (xs : List FVal) (i : Nat) (b : Nat × FVal) : Prop :=
  b.1 ≤ i ∧ b.2 = xs.getD b.1 .nan ∧
    ∀ j ≤ i, placeOf (xs.getD j .nan) ≤ placeOf b.2 ∧ (j < b.1 → placeOf (xs.getD j .nan) < placeOf b.2)

/-- One step of the choice: the next score takes it if it is better. -/
def chooseNext (xs : List FVal) (b : Nat × FVal) (i : Nat) : Nat × FVal :=
  if better (xs.getD (i + 1) .nan) b.2 then (i + 1, xs.getD (i + 1) .nan) else b

theorem ChosenUpTo.next {xs : List FVal} {i : Nat} {b : Nat × FVal} (h : ChosenUpTo xs i b) :
    ChosenUpTo xs (i + 1) (chooseNext xs b i) := by
  obtain ⟨hle, hscore, hbest⟩ := h
  unfold chooseNext
  split
  · have hbetter := (better_iff _ _).mp ‹_›
    refine ⟨Nat.le_refl _, rfl, fun j hj => ?_⟩
    rcases Nat.le_succ_iff.mp hj with hj | rfl
    · have hlt := (hbest j hj).1.trans_lt hbetter
      exact ⟨hlt.le, fun _ => hlt⟩
    · exact ⟨le_refl _, fun hlt => absurd hlt (Nat.lt_irrefl _)⟩
  · have hworse := (better_false_iff _ _).mp (Bool.not_eq_true _ ▸ ‹¬_›)
    refine ⟨Nat.le_succ_of_le hle, hscore, fun j hj => ?_⟩
    rcases Nat.le_succ_iff.mp hj with hj | rfl
    · exact hbest j hj
    · exact ⟨hworse, fun hlt => absurd hlt (by omega)⟩

theorem chosenUpTo_foldl (x : FVal) (xs : List FVal) (n : Nat) :
    ChosenUpTo (x :: xs) n ((List.range n).foldl (chooseNext (x :: xs)) (0, x)) := by
  induction n with
  | zero =>
    refine ⟨Nat.le_refl 0, rfl, fun j hj => ?_⟩
    obtain rfl : j = 0 := Nat.le_zero.mp hj
    exact ⟨le_refl _, fun hlt => absurd hlt (Nat.lt_irrefl 0)⟩
  | succ n ih =>
    rw [List.range_succ, List.foldl_append]
    exact ih.next

/-- The greatest score is chosen, the lowest index among equals. -/
theorem bestOf_spec {xs : List FVal} (hne : xs ≠ []) : bestOf xs < xs.length ∧ ∀ i < xs.length,
    better (xs.getD i .nan) (xs.getD (bestOf xs) .nan) = false ∧
    (i < bestOf xs → better (xs.getD (bestOf xs) .nan) (xs.getD i .nan) = true) := by
  obtain ⟨x, xs, rfl⟩ := List.exists_cons_of_ne_nil hne
  obtain ⟨hle, hscore, hbest⟩ := chosenUpTo_foldl x xs xs.length
  change bestOf (x :: xs) ≤ xs.length at hle
  change _ = (x :: xs).getD (bestOf (x :: xs)) .nan at hscore
  rw [hscore] at hbest
  refine ⟨Nat.lt_succ_of_le hle, fun i hi => ?_⟩
  obtain ⟨hworse, hbefore⟩ := hbest i (Nat.lt_succ_iff.mp hi)
  exact ⟨(better_false_iff _ _).mpr hworse, fun hlt => (better_iff _ _).mpr (hbefore hlt)⟩

end Sys2Proof.Machine

namespace Sys2Proof.Machine

/-! ### The stages of a descent (R312, R313) -/

section
variable {s t : State} {k n x v j : Nat} {pend : Bool} {c : BitVec 10} {d : Word64}

/-- The slot of a descent with one more node on its path. -/
def State.descended (t : State) (k x : Nat) (path : List Nat) : State := t.setSlot k { t.slot k with path := path ++ [x] }

/-- A descent that has visited a node: it ends there, appends it, or goes on to its children. -/
theorem State.descStep_node (hnode : x < (s.ctx (s.slot k).ctx).nodes)
    (haccess : s.Answers ((s.ctx (s.slot k).ctx).node x) (.node (.visit ((s.slot k).path.length < 128))) v t) :
    s.descStep (.descNode k x) =
      (let p := s.slot k
       let u := t.descended k x p.path
       if nodeTerm v then u.descEnd k 1
       else if !nodeExp v then
         if nodePend v then u.descEnd k 2
         else if p.path.length = 128 then u.descEnd k 3
         else .go u (.descEntry k (nodeAct v))
       else if p.path.length = 128 then u.descEnd k 3
       else if nodeNch v = 0 || 64 < nodeNch v then u.descFail k false 0x204 (treeData x p.path.length)
       else if (s.ctx p.ctx).nodes < nodeChild v + nodeNch v then
         u.descFail k false 0x204 (treeData (max (s.ctx p.ctx).nodes (nodeChild v)) (p.path.length + 1))
       else .go u (.descKids k (nodeN v) (nodeChild v) (nodeNch v))) := by
  change s.visitNode k x = _
  unfold State.visitNode
  simp only [Nat.not_le.mpr hnode, if_false, haccess.eq]
  rfl

theorem State.descStep_outside (hnode : (s.ctx (s.slot k).ctx).nodes ≤ x) :
    s.descStep (.descNode k x) =
      .go s (.undo k (s.slot k).path.length false 0x204 (treeData x (s.slot k).path.length)) := by
  change s.visitNode k x = _
  unfold State.visitNode
  simp only [hnode, if_true]
  rfl

theorem State.pickOf_nil : s.pickOf [] = [] := by
  unfold State.pickOf
  split <;> rfl

/-- A descent whose children have all been read goes on at the one with the best score. -/
theorem State.descStep_kids {fl : Flight} (hupset : s.upset = none) (hflight : s.f.flight = some fl) (hlength : fl.got.length = n)
    (hgot : ∀ i, i < n → (Tab.find fl.got i).isSome = true) :
    s.descStep (.descKids k v x n) = .go (s.setF { s.f with flight := some { fl with got := [] } })
      (.descNode k (x + bestOf ((List.range n).map (fun i =>
        score (s.ctx (s.slot k).ctx) (r32 (FVal.sqrt (FVal.ofInt v))) (Tab.get fl.got 0 i))))) := by
  have hnone : (List.range n).filter (fun i => (Tab.find fl.got i).isNone) = [] := by
    refine List.filter_eq_nil_iff.mpr fun i hi => ?_
    rw [Option.isNone_iff_eq_none]
    intro hfind
    exact absurd (hgot i (List.mem_range.mp hi)) (by simp [hfind])
  have hupset' (f : Frag) : (s.setF f).upset = none := hupset
  change s.readKids k v x n = _
  unfold State.readKids
  simp only [hflight, Option.getD_some, hnone, State.pickOf_nil, State.readKids.go, hlength, if_true, hupset']

theorem State.descStep_undo (haccess : s.Answers ((s.ctx (s.slot k).ctx).node ((s.slot k).path.getD j 0))
    (.node (.leave (pend && j = (s.slot k).depth))) v t) : s.descStep (.undo k (j + 1) pend c d) = .go t (.undo k j pend c d) := by
  change s.undoStep k (j + 1) pend c d = _
  unfold State.undoStep
  simp only [haccess.eq]
  rfl

theorem State.descStep_entry (hheld : s.treeHeld (s.ctx (s.slot k).ctx) s.me = false)
    (haccess : (s.lockTree (s.slot k).ctx).Answers (s.ctx (s.slot k).ctx).addr (.read 128) v t) : s.descStep (.descEntry k n) =
      if 2 ^ (s.ctx (s.slot k).ctx).rlog ≤ (descWord v 52 + 2 ^ 32 - descWord v 48) % 2 ^ 32 then
        .go (t.unlockTree (s.slot k).ctx) (.descFull k)
      else .go t (.descWrite k n (descWord v 52)) := by
  change s.appendStep (.descEntry k n) = _
  unfold State.appendStep
  simp only [hheld, Bool.false_eq_true, if_false, haccess.eq]
  rfl

theorem State.descStep_write (haccess : s.Answers ((s.ctx (s.slot k).ctx).rbase + 16 * (x % 2 ^ (s.ctx (s.slot k).ctx).rlog))
    (.write 16 ((s.slot k).leaf + (s.slot k).handle k * 2 ^ 32 + (s.slot k).depth * 2 ^ 48 + n * 2 ^ 64)) v t) :
    s.descStep (.descWrite k n x) = .go t (.descTail k x) := by
  change s.appendStep (.descWrite k n x) = _
  unfold State.appendStep
  simp only [haccess.eq]
  rfl

theorem State.descStep_tail (haccess : s.Answers ((s.ctx (s.slot k).ctx).addr + 52) (.write 4 (x + 1)) v t) :
    s.descStep (.descTail k x) = .go t (.descCount k) := by
  change s.appendStep (.descTail k x) = _
  unfold State.appendStep
  simp only [haccess.eq]
  rfl

theorem State.descStep_uncounted (hrcw : (s.ctx (s.slot k).ctx).rcw = 0) :
    s.descStep (.descCount k) = (s.unlockTree (s.slot k).ctx).descEnd k 0 := by
  change s.appendStep (.descCount k) = _
  unfold State.appendStep
  simp only [hrcw, if_true]

theorem State.descStep_counted (hrcw : (s.ctx (s.slot k).ctx).rcw ≠ 0)
    (haccess : s.Answers (s.ctx (s.slot k).ctx).rcw.toNat (.cwAdd 1 true) v t) :
    s.descStep (.descCount k) = (t.unlockTree (s.slot k).ctx).descEnd k 0 := by
  change s.appendStep (.descCount k) = _
  unfold State.appendStep
  simp only [hrcw, if_false, haccess.eq]
  rfl

theorem State.descStep_full (haccess : s.Answers ((s.ctx (s.slot k).ctx).node (s.slot k).leaf) (.node .unpend) v t) :
    s.descStep (.descFull k) = t.descEnd k 4 := by
  change s.appendStep (.descFull k) = _
  unfold State.appendStep
  simp only [haccess.eq]
  rfl

end

/-! ### The stages of an expansion, a backup and a re-rooting (R315 to R317) -/

section
variable {s t : State} {k n x v j : Nat} {y : Word64} {rel : Bool}

theorem State.expStep_alloc (hheld : s.treeHeld (s.ctx (s.slot k).ctx) s.me = false)
    (haccess : (s.lockTree (s.slot k).ctx).Answers (s.ctx (s.slot k).ctx).addr (.read 128) v t) : s.expStep k n .expAlloc =
      if descWord v (64 + 4 * (granules n - 1)) ≠ 2 ^ 32 - 1 then
        .go t (.expHead (v / 2 ^ 224 % 16) (descWord v (64 + 4 * (granules n - 1))))
      else if descWord v 56 + 8 * granules n ≤ (s.ctx (s.slot k).ctx).nodes then
        .go t (.expTake (v / 2 ^ 224 % 16) (descWord v 56) 56 (descWord v 56 + 8 * granules n))
      else .go (t.unlockTree (s.slot k).ctx) (.expUndo ((s.slot k).depth + 1)) := by
  have hread : (s.lockTree (s.slot k).ctx).access s.treeActor none (s.ctx (s.slot k).ctx).addr (.read 128) = (.ok v, t) := haccess
  unfold State.expStep
  simp only [hheld, Bool.false_eq_true, if_false, hread, Acc.micro, noNode, bne_iff_ne, ne_eq]

theorem State.expStep_head (haccess : s.Answers ((s.ctx (s.slot k).ctx).node x) (.read 64) v t) :
    s.expStep k n (.expHead j x) = .go t (.expTake j x (64 + 4 * (granules n - 1)) (nodeChild v)) := by
  unfold State.expStep
  simp only [haccess.eq]
  rfl

theorem State.expStep_link (haccess : s.Answers ((s.ctx (s.slot k).ctx).node (s.slot k).leaf) (.node (.link x n)) v t) :
    s.expStep k n (.expLink x) = if nodeExp v || nodeTerm v then .go t (.expFree x none 0 0) else .done t 0 := by
  unfold State.expStep
  simp only [haccess.eq]
  rfl

theorem State.expStep_freed (haccess : (s.lockTree (s.slot k).ctx).Answers
    ((s.ctx (s.slot k).ctx).addr + 64 + 4 * (granules n - 1)) (.write 4 x) v t) :
    s.expStep k n (.expFree x none 2 j) = .done (t.unlockTree (s.slot k).ctx) 1 := by
  have hwrite : (s.lockTree (s.slot k).ctx).access s.treeActor none
      ((s.ctx (s.slot k).ctx).freeOp x (granules n) 2 j).1 ((s.ctx (s.slot k).ctx).freeOp x (granules n) 2 j).2 = (.ok v, t) := haccess
  unfold State.expStep
  simp only [hwrite]
  rfl

theorem State.expStep_undo (haccess : s.Answers ((s.ctx (s.slot k).ctx).node ((s.slot k).path.getD j 0)) (.node (.leave false)) v t) :
    s.expStep k n (.expUndo (j + 1)) = .go t (.expUndo j) := by
  unfold State.expStep
  simp only [haccess.eq]
  rfl

theorem State.expStep_pend (haccess : s.Answers ((s.ctx (s.slot k).ctx).node (s.slot k).leaf) (.node .unpend) v t) :
    s.expStep k n .expPend = .done (t.freeSlot k) 2 := by
  unfold State.expStep
  simp only [haccess.eq]
  rfl

theorem State.backStep_node (hprogress : (s.slot k).progress = some j)
    (haccess : s.Answers ((s.ctx (s.slot k).ctx).node ((s.slot k).path.getD j 0))
      (.node (.backup (if ((s.slot k).depth - j) % 2 = 0 then y else -y) (!rel) (j = (s.slot k).depth && (s.slot k).status = 0))) v t) :
    s.backStep k y rel =
      (let u := t.setSlot k { s.slot k with progress := if j = 0 then none else some (j - 1) }
       if j = 0 then .done (u.freeSlot k) (BitVec.ofNat 64 ((s.slot k).depth + 1)) else .go u .back) := by
  unfold State.backStep
  simp only [hprogress, haccess.eq]
  rfl

end

section
variable {s t : State} {i k p v child nch og : Nat} {reclaim : Bool}

theorem State.rootStep_node (haccess : s.Answers ((s.ctx i).node p) (.read 64) v t) : s.rootStep i k reclaim (.rootNode p) =
    if nodeExp v = false ∨ nodeNch v ≤ k then .done t 2 else .go t (.rootProbe (nodeChild v) (nodeNch v)) := by
  unfold State.rootStep
  simp only [haccess.eq, Acc.micro, Bool.or_eq_true, Bool.not_eq_true', decide_eq_true_eq]

theorem State.rootStep_probe (hprobe : s.probe s.treeActor ((s.ctx i).node (child + k)) (.write 64 0) = (.ok v, t)) :
    s.rootStep i k reclaim (.rootProbe child nch) = .go t (.rootSwap child nch) := by
  unfold State.rootStep
  simp only [hprobe]
  rfl

theorem State.rootStep_swap (haccess : s.Answers (s.ctx i).addr (.node (.swap (child + k) child (granules nch))) v t) :
    s.rootStep i k reclaim (.rootSwap child nch) = .go t (.rootParent child nch (descWord v 60) (v / 2 ^ 776 % 16)) := by
  unfold State.rootStep
  simp only [haccess.eq]
  rfl

theorem State.rootStep_parent (haccess : s.Answers ((s.ctx i).node (child + k)) (.node .orphan) v t) :
    s.rootStep i k reclaim (.rootParent child nch p og) = .done (if reclaim then t.setCtx i { t.ctx i with
      walk := some ((if p = 2 ^ 32 - 1 then [] else [(p, og, true)]) ++
        ((List.range nch).filter (fun j => j ≠ k)).map (fun j => (child + j, 0, false))), task := t.g.task } else t) 0 := by
  have hothers : (List.range nch).filter (· != k) = (List.range nch).filter (fun j => j ≠ k) := by
    refine List.filter_congr fun j _ => ?_
    rw [Bool.eq_iff_iff, bne_iff_ne, decide_eq_true_eq]
  unfold State.rootStep
  simp only [haccess.eq, hothers]
  rfl

end

/-- Settles O42: the operations on a node by its fields, the stages one by one, and the choice by `bestOf_spec`. -/
theorem treeNodeResults : Obligations.TreeNodeResults := by
  unfold Obligations.TreeNodeResults
  refine ⟨?nodes, fun gen leaf n arr i => newNode_fields, ?stages, ?roots⟩
  case nodes =>
    intro v blk n mark count clear x total kids _ hblk hn
    refine ⟨nodeNew_visit v mark, nodeNew_leave v clear, nodeNew_backup v x count clear, nodeNew_link hblk hn, nodeTerm_term v,
      fun hexp => ?_, ⟨nodePend_setPend, nodeKids_setPend⟩, nodeNew_orphan v⟩
    rw [nodeNew_term, if_pos hexp]
  case stages =>
    intro s t k n x v j y d pend c fl p tr ok ended
    refine ⟨?node, State.descStep_outside, ?kids, State.descStep_undo, rfl, State.descStep_entry, State.descStep_write,
      State.descStep_tail, State.descStep_uncounted, State.descStep_counted, State.descStep_full, State.expStep_alloc,
      State.expStep_head, State.expStep_link, State.expStep_freed, State.expStep_undo, rfl, State.expStep_pend, State.backStep_node⟩
    case node =>
      intro hnode haccess step deep u
      have hstep := State.descStep_node hnode haccess
      refine ⟨fun hterm => ?_, fun hterm hexp hpend => ?_, fun hterm hexp hpend hdeep => ?_, fun hterm hexp hpend hdeep => ?_,
        fun hterm hexp hdeep => ?_, fun hterm hexp hdeep hsome hmany hkids => ?_⟩
      · exact hstep.trans (if_pos hterm)
      · exact hstep.trans (by simp only [hterm, hexp, hpend]; rfl)
      · exact hstep.trans (by simp only [hterm, hexp, hpend]; exact if_pos hdeep)
      · exact hstep.trans (by simp only [hterm, hexp, hpend]; exact if_neg hdeep)
      · exact hstep.trans (by simp only [hterm, hexp]; exact if_pos hdeep)
      · refine hstep.trans ?_
        simp only [hterm, hexp]
        refine (if_neg hdeep).trans ((if_neg ?_).trans (if_neg (Nat.not_lt.mpr hkids)))
        simp [Nat.ne_of_gt hsome, hmany]
    case kids =>
      intro hpos hupset hflight hlength hgot root sc
      have hget (i : Nat) (hi : i < n) : ((List.range n).map sc).getD i .nan = sc i := by
        rw [List.getD_eq_getElem?_getD, List.getElem?_map, List.getElem?_range hi]
        rfl
      obtain ⟨hlt, hbest⟩ := bestOf_spec (xs := (List.range n).map sc) (by simp [Nat.ne_of_gt hpos])
      rw [List.length_map, List.length_range] at hlt hbest
      refine ⟨_, hlt, State.descStep_kids hupset hflight hlength hgot, fun i hi => ?_⟩
      rw [← hget i hi, ← hget _ hlt]
      exact hbest i hi
  case roots =>
    intro s t i k p v child nch og reclaim tr ok c
    exact ⟨State.rootStep_node, State.rootStep_probe, State.rootStep_swap, State.rootStep_parent⟩

end Sys2Proof.Machine
